-- ==== Sys2Proof/Word.lean ====
section
/-!
DEFINITION. Bytes, byte strings, and what the device's reads of host memory see.
-/

namespace Sys2Proof

/-- A byte. -/
abbrev Byte := BitVec 8

/-- A string of bytes, the byte at the lowest address first. -/
abbrev Bytes := List Byte

/-- What host memory holds when a command reads it: blocks of bytes by their first bus address. The host owns this
memory, so each command that reads it carries its own image. -/
abbrev HostImage := List (Nat × Bytes)

end Sys2Proof
end

