-- ==== Sys2Proof/Syntax.lean ====
section
/-!
DEFINITION. The commands: one constructor of Instr for each row of spec/opcode_table.json, with what the command
brings from outside the block as its operands, and the operands' own types.
-/

namespace Sys2Proof.Machine

/-- The element formats of R214, by name; a reserved code names none of them. -/
inductive Fmt where
  | k4 | k6 | k8 | k12 | k16 | k24 | i4 | i8 | u8 | f32 | u32
  deriving DecidableEq, Repr

/-- A vector as it arrived or is stored: its format and element codes. -/
structure Vec where
  /-- element format (R214; 4 bits) -/
  fmt : Fmt
  /-- element codes, dimension 0 first (R211; d elements) -/
  codes : List Nat
  deriving DecidableEq, Repr

/-- One field of an attribute field map (R37). -/
structure FieldDef where
  /-- high bit (R37; 6) -/
  hi : Nat
  /-- low bit (R37; 6) -/
  lo : Nat
  /-- two's-complement (R37; 1) -/
  signed : Bool
  deriving DecidableEq, Repr

/-- A payload at rest (R164, R165): its length, counter nonce, tag and ciphertext. -/
structure Payload where
  /-- plaintext length (chapter 6; 16) -/
  len : Nat
  /-- payload counter of its nonce (R165; 64) -/
  counter : Nat
  /-- GCM tag (R165; 16 bytes) -/
  tag : List (BitVec 8)
  /-- ciphertext (R165; len bytes) -/
  cipher : List (BitVec 8)
  /-- key_id of the root key it was written under (R616; 32) -/
  key : Nat
  /-- payload_ref: byte offset of its record in the index area; 0 until written (chapter 11; 48) -/
  ref : Nat
  deriving DecidableEq, Repr

/-- One slot of a segment (chapter 2): code, ID, attribute word, and the vector's full form and payload that its references name. -/
structure Slot where
  /-- code (R32; L bytes) -/
  code : List (BitVec 8)
  /-- vector ID (R34; 64) -/
  id : Nat
  /-- attribute word (chapter 2; 64) -/
  attr : Nat
  /-- full vector, codes in the full-vector format (R39; d codes) -/
  full : List Nat
  /-- full-vector reference: byte offset of its full vector in the index area; 0 until written (R39; 48) -/
  ref : Nat
  /-- payload record (R165; ≤ 4,096) -/
  payload : Option Payload
  deriving DecidableEq, Repr

/-- The kinds of segment (R40, R145). -/
inductive SegKind where
  | insert | moved | zeroNorm
  deriving DecidableEq, Repr

/-- A segment: a run of slots of one partition, written under one commit sequence (R40). -/
structure Segment where
  /-- mutation or upkeep step that writes it (R40; command id) -/
  owner : Nat
  /-- commit_seq; none while uncommitted (R40; 64) -/
  seq : Option Nat
  /-- partition (R40; 20) -/
  part : Nat
  /-- generations that hold it (R41; 32) -/
  gens : List Nat
  /-- slot index within the partition of its first slot (chapter 2; 32) -/
  firstSlot : Nat
  /-- kind (R145; 8) -/
  kind : SegKind
  /-- pseudo-channel and lane it lies on (R132; 9) -/
  lane : Nat
  /-- slots (R40; slot_count) -/
  slots : List Slot
  /-- device address of its header; 0 until it is placed (R132; 48) -/
  addr : Nat
  /-- ref_array: device address of the reference array; 0 for an insert segment (R40; 48) -/
  refArray : Nat
  deriving DecidableEq, Repr

/-- A tombstone: slot index of a partition of a generation, set at a commit sequence (R61). -/
structure Tomb where
  /-- generation that owns the partition (R61; 32) -/
  gen : Nat
  /-- partition (R61; 20) -/
  part : Nat
  /-- slot index within the partition (R61; 32) -/
  slot : Nat
  /-- sequence of the chunk copy that sets it; none while uncommitted (R61; 64) -/
  seq : Option Nat
  /-- mutation that prepared it (R61; command id) -/
  owner : Nat
  deriving DecidableEq, Repr

/-- A partition record of a generation's route graph (chapter 2). -/
structure Partition where
  /-- partition number (R41; 20) -/
  num : Nat
  /-- centroid, K8 codes (R721; d × 8) -/
  centroid : List Nat
  /-- neighbour list, ascending (R715; ≤ 32) -/
  neighbours : List Nat
  /-- HBM stack (R716; 3) -/
  stack : Nat
  /-- slots ever allocated (chapter 2; 32) -/
  slotTotal : Nat
  /-- holder module (R445; 16) -/
  holder : Nat
  /-- placement epoch (R445; 32) -/
  epoch : Nat
  /-- second holder during a move (R448; 16) -/
  move : Option Nat
  /-- held slots on a retired page: MEDIUM_ERROR until its rebuild (R196; 1) -/
  lost : Bool
  /-- generation that owns it: generations that leave it unchanged share it (chapter 2; 32) -/
  owner : Nat
  /-- home lane within its stack (R133; 6) -/
  home : Nat
  /-- device address of its partition record; 0 until it is placed (R38; 48) -/
  addr : Nat
  deriving DecidableEq, Repr

/-- A generation (R42, R43): partitions, codebook, publishing sequence. -/
structure Generation where
  /-- generation number (chapter 2; 32) -/
  num : Nat
  /-- publishing sequence; 0 for generation 1 (R43; 64) -/
  publishSeq : Nat
  /-- partitions (R41; ≤ 2²⁰) -/
  parts : List Partition
  /-- codebook, K8 codes (R721; m × K × (d/m)) -/
  codebook : List Nat
  /-- rebuilt partitions and their rebuild sequence (R197; part, seq) -/
  lostBelow : List (Nat × Nat)
  /-- device address of its codebook; 0 for none or until it is placed (R38; 48) -/
  bookAddr : Nat
  deriving DecidableEq, Repr

/-- A copy of a tombstone chunk (R61): 4 KiB for 32,768 slots of a partition, tagged with the sequence that made it. -/
structure ChunkCopy where
  /-- generation that owns the partition (R61; 32) -/
  gen : Nat
  /-- partition (R61; 20) -/
  part : Nat
  /-- chunk number: slot index / 32,768 (R61; 17) -/
  index : Nat
  /-- tag; none while uncommitted (R61; 64) -/
  seq : Option Nat
  /-- mutation that made it (R61; command id) -/
  owner : Nat
  /-- device address; 0 until it is placed (R38; 48) -/
  addr : Nat
  deriving DecidableEq, Repr

/-- A key that a collection holds (R609). -/
structure CollKey where
  /-- key_id (R608; 32) -/
  keyId : Nat
  /-- suite (R158; 8) -/
  suite : Nat
  /-- key (chapter 17; 32 bytes) -/
  key : List (BitVec 8)
  /-- root key (R609; 1) -/
  root : Bool
  /-- persistent (R611; 1) -/
  persistent : Bool
  /-- destroyed, awaiting its last command (R613; 1) -/
  withdrawn : Bool
  deriving DecidableEq, Repr

/-- A tokenizer table's copy (R167). -/
structure Tokenizer where
  /-- vocab_size (R168; 32) -/
  vocab : Nat
  /-- max_tokens (R168; 16) -/
  maxTokens : Nat
  /-- bos_id (R168; 32) -/
  bos : Nat
  /-- eos_id (R168; 32) -/
  eos : Nat
  /-- merge list (R168; merge_count) -/
  merges : List (Nat × Nat)
  deriving DecidableEq, Repr

/-- Load state of a collection (chapter 16, R713). -/
inductive LoadState where
  | loading | loaded | dropping
  deriving DecidableEq, Repr

/-- An upkeep job's kind (chapter 16, UPKEEP). -/
inductive UpkeepKind where
  | centroids | quantiser | rebuild | partitionMove | rebalance
  deriving DecidableEq, Repr

/-- An upkeep job under way (chapter 6). -/
structure Upkeep where
  /-- kind (chapter 16; 8) -/
  kind : UpkeepKind
  /-- seed (R192; 64) -/
  seed : Nat
  /-- sampling threshold (R193; 64) -/
  threshold : Nat
  /-- iterations asked for (R192; 8) -/
  iterations : Nat
  /-- iterations done (R192; 8) -/
  done : Nat
  /-- build snapshot b (chapter 6; 64) -/
  build : Nat
  /-- partition concerned (chapter 16; 20) -/
  part : Nat
  /-- current centroids, K8 codes (R192; kc × d) -/
  centroids : List (List Nat)
  /-- codebook being trained (R194; m × K × (d/m)) -/
  codebook : List Nat
  /-- partitions the new generation replaces (R42; partitions) -/
  replaces : List Nat
  /-- seq of the UPKEEP message to answer (R580; 32) -/
  msg : Option Nat
  /-- paused by shedding (R199; 1) -/
  paused : Bool
  deriving DecidableEq, Repr

/-- A collection (chapter 2). -/
structure Collection where
  /-- collection ID (R29; 16) -/
  cid : Nat
  /-- dimension d (R31; 16) -/
  dim : Nat
  /-- 1 squared L2, 2 inner product, 3 cosine (R31; 8) -/
  metric : Nat
  /-- 0 PQ8, 1 PQ4, 2 RAW_K8, 3 RAW_K4 (R32; 8) -/
  form : Nat
  /-- subspaces (R32; 16) -/
  m : Nat
  /-- full-vector format (R31; 8) -/
  full : Fmt
  /-- payloads enabled (R31; 1) -/
  payloads : Bool
  /-- attribute field map (R37; 1 to 16) -/
  fields : List FieldDef
  /-- snapshot horizon (R31; ms) -/
  horizon : Nat
  /-- embedding program handle; 0 for none (R319; 32) -/
  embed : Nat
  /-- tokenizer table (R167; -) -/
  tokenizer : Option Tokenizer
  /-- generations, oldest first (R42; ≥ 1) -/
  gens : List Generation
  /-- segments (R40; -) -/
  segs : List Segment
  /-- tombstones (R61; -) -/
  tombs : List Tomb
  /-- tombstone chunk copies, originals included (R61; -) -/
  chunks : List ChunkCopy
  /-- latest committed sequence (R46; 64) -/
  latest : Nat
  /-- supersession time of each sequence still of interest (R58; seq, ticks) -/
  superseded : List (Nat × Nat)
  /-- latest sequence at mount; earlier snapshots are never admissible (R409; 64) -/
  mountSeq : Nat
  /-- loading, loaded or dropping (R713; 8) -/
  load : LoadState
  /-- load_permille (R713; 16) -/
  permille : Nat
  /-- route graph or codebook being copied back (R198; 1) -/
  copyBack : Bool
  /-- home module (R443; 16) -/
  home : Nat
  /-- keys held (R608; ≤ 4) -/
  keys : List CollKey
  /-- seal-required (R609; 1) -/
  sealRequired : Bool
  /-- a root key has been accepted (R609; 1) -/
  everKey : Bool
  /-- payload-key salt (R615; 16 bytes) -/
  salt : List (BitVec 8)
  /-- payload counter (R165; 64) -/
  payloadCtr : Nat
  /-- end of the reserved block of payload counters (R166; 64) -/
  payloadBlock : Nat
  /-- upkeep jobs under way (chapter 6; -) -/
  upkeep : List Upkeep
  /-- partitions eligible for compaction, with the floor at which they became so (chapter 6; part, seq) -/
  eligible : List (Nat × Nat)
  /-- seq of the COLLECTION_DROP to answer (R65; 32) -/
  dropMsg : Option Nat
  /-- KEY_DESTROYs to answer: seq, keys (R613; ≤ 256) -/
  destroying : List (Nat × List Nat)
  /-- floor sequence that its home module last announced; on the home module not used (R447; 64) -/
  homeFloor : Nat
  deriving DecidableEq, Repr

/-- One predicate of a filter block (R70, R545). -/
structure Predicate where
  /-- 0 EQUAL, 1 RANGE, 2 MASK, 3 ALLOW (15; 8) -/
  kind : Nat
  /-- field number (15; 8) -/
  field : Nat
  /-- inverts the outcome (R70; 1) -/
  negate : Bool
  /-- allow-list index (15; 8) -/
  allowIndex : Nat
  /-- first operand (R545; 64) -/
  a : Nat
  /-- second operand (R545; 64) -/
  b : Nat
  deriving DecidableEq, Repr

/-- An allow-list: the field it names, its address, and its bits once read at admission (R72). -/
structure AllowList where
  /-- field number (R71; 8) -/
  field : Nat
  /-- device address (R547; 56) -/
  addr : Nat
  /-- the bitmap read at admission (R72; 2^w bits) -/
  bits : List (BitVec 8)
  deriving DecidableEq, Repr

/-- A filter block. -/
structure Filter where
  /-- predicates (R70; 0 to 8) -/
  preds : List Predicate
  /-- allow-lists (R71; 0 to 2) -/
  allows : List AllowList
  deriving DecidableEq, Repr

/-- An entry of an ordered list: rank key, ID, distance bits and partition (R113). Its slot is the one that holds the ID at the snapshot (R36). -/
structure Entry where
  /-- rank key (R110; 32) -/
  key : Nat
  /-- vector ID (R113; 64) -/
  id : Nat
  /-- binary32 distance (R101; 32) -/
  dist : BitVec 32
  /-- partition (R94; 20) -/
  part : Nat
  deriving DecidableEq, Repr

/-- A partial list on its way to its coordinator (R122, R123). -/
structure ListPart where
  /-- partition (R122; 20) -/
  part : Nat
  /-- placement epoch (R122; 32) -/
  epoch : Nat
  /-- NaR entries (R123; 32) -/
  nar : Nat
  /-- entries (R93; ≤ 64 per pass) -/
  entries : List Entry
  deriving DecidableEq, Repr

/-- A transit record (R618): a payload's ciphertext under the transit key. -/
structure Transit where
  /-- vector ID (R618; 64) -/
  id : Nat
  /-- nonce (R617; 12 bytes) -/
  nonce : List (BitVec 8)
  /-- GCM tag (R618; 16 bytes) -/
  tag : List (BitVec 8)
  /-- ciphertext (R618; ≤ 4,096) -/
  cipher : List (BitVec 8)
  deriving DecidableEq, Repr

/-- A scan request, or a refine request where it names candidates, of a fan-out (R338, R340): the query, its probe set, its snapshot and the plan it was admitted under. -/
structure Ask where
  /-- its place in the coordinator's admission order (R339; 64) -/
  order : Nat
  /-- collection (R338; 16) -/
  coll : Nat
  /-- snapshot (R338; 64) -/
  snapshot : Nat
  /-- admitting round (R338; 64) -/
  admitRound : Nat
  /-- entries wanted (R67; 16) -/
  k : Nat
  /-- probe_count (R67; 32) -/
  probe : Nat
  /-- refine_count (R67; 16) -/
  refine : Nat
  /-- seal (R103; 2) -/
  sealing : Nat
  /-- admitted under the lean plan (R338; 1) -/
  lean : Bool
  /-- full vectors are wanted for a rerank (chapter 10; 1) -/
  rerank : Bool
  /-- K8 form (R69; d × 8) -/
  q8 : List Nat
  /-- K16 form (R69; d × 16) -/
  q16 : List Nat
  /-- filter with its allow-lists (R70; 224 bytes) -/
  filter : Filter
  /-- partitions asked for (R339; ≤ 65,536) -/
  parts : List Nat
  /-- candidates named: ID and partition (R340; ≤ 4,096) -/
  cands : List (Nat × Nat)
  deriving DecidableEq, Repr

/-- What a fan-out, return or bulk transfer carries. The spec names these contents and lays out no bytes for them (log 39). A part of a
collection is of kind 0, a mutation's effects for one holder, with the IDs whose slots it tombstones; 1, the collection's record with a new
generation's slots for one module; 2, a moved partition's copy, with the partition's number; or 3, the order to its holder to move a
partition: its number, new epoch and new holder (R445, R446, R448). -/
inductive Load where
  | scan (a : Ask)
  | refine (a : Ask)
  | lists (l : List ListPart) (transit : List Transit)
  | refined (l : List Entry) (nar : Nat) (full : List (Nat × List Nat)) (transit : List Transit)
  | ended (status : Nat)
  | bulk (kind window offset : Nat) (data : Bytes)
  | index (kind : Nat) (gone : List Nat) (c : Collection)
  deriving DecidableEq, Repr

/-- A fan-out, return or bulk transfer (R418, R433). -/
structure Flow where
  /-- origin module (R433; 16) -/
  src : Nat
  /-- final module (R433; 16) -/
  dst : Nat
  /-- transfer_id (chapter 12; 32) -/
  tid : Nat
  /-- the coordinator's number of the query (R428; command id) -/
  query : Nat
  /-- member (R79; 16) -/
  member : Nat
  /-- payload (R418; bytes) -/
  load : Load
  deriving DecidableEq, Repr

/-- A flit that is not idle (R417). Its transfer's payload has no layout in the spec: the flit names the transfer (log 39). -/
structure Flit where
  /-- 1 control, 2 fan-out, 3 return, 4 bulk (R417; 8) -/
  type : Nat
  /-- flags[0] (R426; 1) -/
  replayed : Bool
  /-- flags[1]: last flit of its transfer (R417; 1) -/
  last : Bool
  /-- flit_index (R417; 16) -/
  index : Nat
  /-- length: payload bytes or messages (R417; 16) -/
  length : Nat
  /-- the transfer of a data flit (R417; bytes) -/
  flow : Option Flow
  /-- the messages of a control flit (R417; ≤ 7 × 32 bytes) -/
  msgs : List Bytes
  deriving DecidableEq, Repr

/-- What a QSFP-DD module's memory map gives when it is read (R413). -/
structure CageInfo where
  /-- identifier (R413; 8) -/
  ident : Nat
  /-- power class (R414; 4) -/
  powerClass : Nat
  /-- lane status (R413; 8) -/
  lanes : Nat
  /-- module temperature (R413; 16) -/
  temp : Nat
  /-- transmit power of each lane (R413; 8 × 16) -/
  txPower : List Nat
  /-- receive power of each lane (R413; 8 × 16) -/
  rxPower : List Nat
  deriving DecidableEq, Repr

end Sys2Proof.Machine

namespace Sys2Proof

/-- A staged register field of chapter 13 (R471). -/
inductive StagedField where
  | sleepEnable | watchInterval | ptmPeriod
  deriving DecidableEq, Repr

/-- The host read that failed (R466): a command's data, a ring's descriptors, the doorbell page or a mailbox page. -/
inductive HostRead where
  | command (cid : Nat)
  | ring (num : Nat)
  | doorbellPage
  | mailboxPage
  deriving DecidableEq, Repr

/-- A thermal sensor of chapter 18's table of thermal limits. -/
inductive Sensor where
  | die (num : Nat)
  | hbm (num : Nat)
  | flash (num : Nat)
  | cage (num : Nat)
  deriving DecidableEq, Repr

/-- Whose flash read failed (R96, R399): one of the host area, a candidate's refinement read, or another of the index area. -/
inductive FlashReader where
  | host
  | refine (cid member id : Nat)
  | index
  deriving DecidableEq, Repr

/-- What a ledger loop reads (R628, R630, R639, R696): mean input power in W, the lowest 10 µs mean of the 12 V
inputs in mV, the sense pins (true: open), and the hottest sensor of each kind in units of 0.125 °C. -/
structure LoopReading where
  power : Nat
  millivolts : Nat
  sense0Open : Bool
  sense1Open : Bool
  dieTemp : Int
  hbmTemp : Int
  flashTemp : Int
  cageTemp : Int
  deriving DecidableEq, Repr

/-- A measurement made by boot: component, version and digest (R602). -/
structure Measured where
  component : Nat
  version : Nat
  digest : Bytes
  deriving DecidableEq, Repr

/-- What a start-up step found (chapter 18, Start-up; chapter 19, Start-up step failures). -/
structure StartReport where
  /-- false: the step failed as chapter 19's table of step failures states -/
  passed : Bool
  /-- step 1: the sense pins (true: open) -/
  sense0Open : Bool
  sense1Open : Bool
  /-- step 2: the image that measured boot started and what it measured -/
  fwVersion : Nat
  measured : List Measured
  /-- step 4: cores that failed the short self-test: cluster and core -/
  badCores : List (Nat × Nat)
  /-- step 6: journal parts that fail their part_crc: mutation_id and part number -/
  badParts : List (Nat × Nat)
  deriving DecidableEq, Repr

/-- The commands of the block, in the order of spec/opcode_table.json. -/
inductive Instr where
  /-- NOP: A NOP descriptor is fetched, checked, and completes with DONE at once, returning the current head shadow. (R534) -/
  | nop (ring : Nat) (desc : Bytes) (host : HostImage)
  /-- QUERY: A QUERY descriptor is fetched, checked, its host structures are read, and it waits for admission. (R67) -/
  | query (ring : Nat) (desc : Bytes) (host : HostImage)
  /-- QUERY_BATCH: A QUERY_BATCH descriptor is fetched and checked, and its members wait for admission together under one plan and snapshot. (R79) -/
  | queryBatch (ring : Nat) (desc : Bytes) (host : HostImage)
  /-- INSERT: An INSERT descriptor is fetched, its IDs, formats and payload envelopes are checked, and it waits for admission as a mutation. (R35) -/
  | insert (ring : Nat) (desc : Bytes) (host : HostImage)
  /-- DELETE: A DELETE descriptor is fetched, its IDs are checked, and it waits for admission as a mutation. (R50) -/
  | delete (ring : Nat) (desc : Bytes) (host : HostImage)
  /-- SET_ATTR: A SET_ATTR descriptor is fetched, its IDs are checked, and it waits for admission as a mutation. (R51) -/
  | setAttr (ring : Nat) (desc : Bytes) (host : HostImage)
  /-- EMBED_INSERT: An EMBED_INSERT descriptor is fetched, its envelopes are key-checked, tag-checked and decrypted, its chunks are tokenized, and it becomes pending. (R180) -/
  | embedInsert (ring : Nat) (desc : Bytes) (host : HostImage)
  /-- STORE_READ: A STORE_READ is fetched and checked, and it issues sector reads of the host area in ascending order. (R393) -/
  | storeRead (ring : Nat) (desc : Bytes) (host : HostImage)
  /-- STORE_WRITE: A STORE_WRITE is fetched and atomic-checked, and it issues sector programs of the host area in ascending order. (R395) -/
  | storeWrite (ring : Nat) (desc : Bytes) (host : HostImage)
  /-- STORE_TRIM: A STORE_TRIM is fetched and checked, and it applies its trimmed sectors to the map in ascending order. (R394) -/
  | storeTrim (ring : Nat) (desc : Bytes) (host : HostImage)
  /-- RUN_PROGRAM: A RUN_PROGRAM is fetched, its handle and argument descriptors are checked, its status block is cleared, and it waits for cluster windows. (R312) -/
  | runProgram (ring : Nat) (desc : Bytes) (host : HostImage)
  /-- MOVE_TENSOR: A MOVE_TENSOR is fetched, both tensor descriptors are checked, and a transfer starts on tensor movers. (R368) -/
  | moveTensor (ring : Nat) (desc : Bytes) (host : HostImage)
  /-- ABORT: An ABORT is fetched, finds its target by ring and tag, acts on it as the abort table states, and reports an outcome. (R518) -/
  | abort (ring : Nat) (desc : Bytes) (host : HostImage)
  /-- FENCE: A FENCE is fetched, reads the tails of the rings in its mask, and holds its own ring until the commands it covers complete. (R512) -/
  | fence (ring : Nat) (desc : Bytes) (host : HostImage)
  /-- FENCE_COMPLETE: The last command a FENCE covers completes, so the FENCE completes with DONE and its ring resumes fetching. (R513) -/
  | fenceComplete (cid : Nat)
  /-- PAD: A PAD message that passes framing and version checks is skipped without reply, advancing to the end of the page. (R576) -/
  | pad (cells : Bytes) (host : HostImage)
  /-- UNFRAMED_CELL: A mailbox cell that does not begin a framable message is taken alone and refused under step 1. (R725) -/
  | unframedCell (cells : Bytes) (host : HostImage)
  /-- HELLO: A HELLO negotiates the Emnil version, establishes or replaces the tether, restarts seq counts and replies with the reattach report. (R584) -/
  | hello (cells : Bytes) (host : HostImage)
  /-- CAPS: A CAPS request returns the device's capabilities, identifiers and current sizes. (R21) -/
  | caps (cells : Bytes) (host : HostImage)
  /-- TETHER: A TETHER message renews the tether lease, possibly with a new period, or is refused while untethered. (R523) -/
  | tether (cells : Bytes) (host : HostImage)
  /-- TETHER_EXPIRY: Three periods pass without a renewal, so the device becomes untethered with cause 1. (R523) -/
  | tetherExpiry
  /-- RING_CREATE: A RING_CREATE creates a submission or completion ring with its class, size, base, vector and coalescing, or is refused. (R499) -/
  | ringCreate (cells : Bytes) (host : HostImage)
  /-- RING_DELETE: A RING_DELETE stops fetching from a submission ring, or deletes an unnamed completion ring, and is answered once outstanding commands complete. (R501) -/
  | ringDelete (cells : Bytes) (host : HostImage)
  /-- RING_DELETE_COMPLETE: The last outstanding command of a deleted submission ring completes, so the RING_DELETE reply is sent. (R501) -/
  | ringDeleteComplete (ring : Nat)
  /-- ARB_SET: An ARB_SET sets the four class weights of fetch arbitration from the next arbitration cycle. (R509) -/
  | arbSet (cells : Bytes) (host : HostImage)
  /-- COLLECTION_CREATE: A COLLECTION_CREATE checks its properties, tensors, tokenizer and embedding program, builds generation 1 and replies, or is refused. (R588) -/
  | collectionCreate (cells : Bytes) (host : HostImage)
  /-- COLLECTION_DROP: A COLLECTION_DROP is accepted, stops admission on the collection and lets admitted queries finish. (R64) -/
  | collectionDrop (cells : Bytes) (host : HostImage)
  /-- COLLECTION_DROP_COMPLETE: No admitted work remains on a dropping collection, so the drop completes, its keys are destroyed, its space is freed and the reply is sent. (R65) -/
  | collectionDropComplete (coll : Nat)
  /-- COLLECTION_STATE: A COLLECTION_STATE request returns the collection's load state, generation, latest and floor sequences and live vectors. (R713) -/
  | collectionState (cells : Bytes) (host : HostImage)
  /-- UPKEEP_CENTROID_RETRAINING: An UPKEEP request of kind 0 starts clustering of a collection's centroids by Lloyd's iteration with long sums. (R192) -/
  | upkeepCentroidRetraining (cells : Bytes) (host : HostImage)
  /-- UPKEEP_QUANTISER_TRAINING: An UPKEEP request of kind 1 starts quantiser training that will publish a generation with a new codebook, or is refused for lack of T1. (R194) -/
  | upkeepQuantiserTraining (cells : Bytes) (host : HostImage)
  /-- UPKEEP_REBUILD: An UPKEEP request of kind 2 starts a rebuild of partitions from flash. (R197) -/
  | upkeepRebuild (cells : Bytes) (host : HostImage)
  /-- UPKEEP_PARTITION_MOVE: An UPKEEP request of kind 3 starts moving a partition to another module under a new placement epoch. (R448) -/
  | upkeepPartitionMove (cells : Bytes) (host : HostImage)
  /-- UPKEEP_REBALANCE: An UPKEEP request of kind 4 starts a rebalance that splits and merges partitions into a new generation. (R189) -/
  | upkeepRebalance (cells : Bytes) (host : HostImage)
  /-- KEY_IMPORT: A KEY_IMPORT unwraps a collection key with a live import key, checks it, loads it and may make it the root key. (R608) -/
  | keyImport (cells : Bytes) (host : HostImage)
  /-- KEY_DESTROY: A KEY_DESTROY withdraws one key or every key of a collection from new use, or is refused for a root key with others held. (R612) -/
  | keyDestroy (cells : Bytes) (host : HostImage)
  /-- KEY_DESTROY_COMPLETE: The last command using a destroyed key completes, so the key is zeroed, its store record overwritten and the reply sent. (R613) -/
  | keyDestroyComplete (coll : Nat)
  /-- ATTEST_QUOTE: An ATTEST of kind 0 writes the measurement log, optionally creates an import key, and returns a signed quote. (R604) -/
  | attestQuote (cells : Bytes) (host : HostImage)
  /-- ATTEST_CERTIFICATE_CHAIN: An ATTEST of kind 1 writes the three identity certificates in DER to the host buffer. (R599) -/
  | attestCertificateChain (cells : Bytes) (host : HostImage)
  /-- FW_STAGE: An FW_STAGE copies a firmware image into the staged slot and verifies its signature. (R591) -/
  | fwStage (cells : Bytes) (host : HostImage)
  /-- FW_ACTIVATE_NOW: An FW_ACTIVATE of scope 0 moves the kiosk components one at a time onto the staged image, or is refused. (R593) -/
  | fwActivateNow (cells : Bytes) (host : HostImage)
  /-- FW_ACTIVATE_AT_RESET: An FW_ACTIVATE of scope 1 arranges for the staged image to become the running one at the next power-on or PERST#. (R594) -/
  | fwActivateAtReset (cells : Bytes) (host : HostImage)
  /-- COMPONENT_IMAGE_SWITCH: A component being activated owns no work, or has waited 1 s, so it is restarted on the new image and its held work proceeds. (R593) -/
  | componentImageSwitch (comp : Nat)
  /-- PROGRAM_LOAD: A PROGRAM_LOAD checks a program image, copies code and data into T1, reserves save areas and returns a handle. (R307) -/
  | programLoad (cells : Bytes) (host : HostImage)
  /-- PROGRAM_UNLOAD: A PROGRAM_UNLOAD removes a loaded program unless it is running or bound. (R318) -/
  | programUnload (cells : Bytes) (host : HostImage)
  /-- TIMETABLE_LOAD_STAGE: A TIMETABLE_LOAD without the propose flag checks an image and holds it as the staged image. (R326) -/
  | timetableLoadStage (cells : Bytes) (host : HostImage)
  /-- TIMETABLE_LOAD_PROPOSE: A TIMETABLE_LOAD with the propose flag stages an image and makes the leader propose a switch round. (R347) -/
  | timetableLoadPropose (cells : Bytes) (host : HostImage)
  /-- GROUP_JOIN: A GROUP_JOIN is accepted or refused, stops admission on acceptance, and enables the mapped ports for training. (R439) -/
  | groupJoin (cells : Bytes) (host : HostImage)
  /-- LEND_MEMORY_OFFER: A LEND_MEMORY of kind offer zeroes a spread region and offers it for lending. (R385) -/
  | lendMemoryOffer (cells : Bytes) (host : HostImage)
  /-- LEND_MEMORY_BORROW: A LEND_MEMORY of kind borrow asks for a window of neighbour HBM through a LEND request. (R386) -/
  | lendMemoryBorrow (cells : Bytes) (host : HostImage)
  /-- LEND_MEMORY_END: A LEND_MEMORY of kind end asks to end a loan, which closes at the round agreed in control slots. (R388) -/
  | lendMemoryEnd (cells : Bytes) (host : HostImage)
  /-- POWER_CAP: A POWER_CAP sets the board cap from the next ledger loop and optionally writes the default, replying at that loop. (R627) -/
  | powerCap (cells : Bytes) (host : HostImage)
  /-- SELFTEST_START: A SELFTEST start begins a short or extended self-test that takes idle units. (R678) -/
  | selftestStart (cells : Bytes) (host : HostImage)
  /-- SELFTEST_ABORT: A SELFTEST abort stops a running self-test. (R678) -/
  | selftestAbort (cells : Bytes) (host : HostImage)
  /-- SELFTEST_STATUS: A SELFTEST status request returns the state, progress and failures of the self-test. (R678) -/
  | selftestStatus (cells : Bytes) (host : HostImage)
  /-- SELFTEST_END: A self-test run ends, failing units are handled, and SELFTEST_RESULT is queued. (R680) -/
  | selftestEnd (failCores : List (Nat × Nat)) (failPages : List (Nat × Nat)) (failBlocks : List Nat) (otherFailures : Nat)
  /-- FORMAT_CONVERT: A FORMAT with convert-in-place starts converting the store between compact and full format while commands run. (R681) -/
  | formatConvert (cells : Bytes) (host : HostImage)
  /-- FORMAT_CONVERSION_END: A format conversion completes, and the new atomic limit applies. (R392) -/
  | formatConversionEnd
  /-- FORMAT: A FORMAT without convert-in-place erases collections and keys if allowed, draws media keys, trims both areas and writes the new format. (R682) -/
  | format (cells : Bytes) (host : HostImage)
  /-- SANITIZE: A SANITIZE starts crypto-erase, block erase or overwrite in committed phases. (R683) -/
  | sanitize (cells : Bytes) (host : HostImage)
  /-- SANITIZE_END: Phase 4 of a sanitise ends, the store is left empty in its format, and the SANITIZE reply is sent, unsolicited if it resumed after a power cycle. (R684) -/
  | sanitizeEnd (badBlocks : Nat)
  /-- RETIRE_PAGE: A RETIRE_PAGE adds a page to the retirement list, maps it onto a relief page at the next round start and starts rebuilds, or is refused. (R666) -/
  | retirePage (cells : Bytes) (host : HostImage)
  /-- HBM_REPAIR_STATUS: An HBM_REPAIR of action 0 in a service session reports a splice entry's state and remaining repair resources. (R669) -/
  | hbmRepairStatus (cells : Bytes) (host : HostImage)
  /-- HBM_REPAIR_LANE_REMAP: An HBM_REPAIR of action 1 copies and switches a run, applies a lane remap and retrains the pseudo-channel. (R670) -/
  | hbmRepairLaneRemap (cells : Bytes) (host : HostImage)
  /-- HBM_REPAIR_ROW_REPLACEMENT: An HBM_REPAIR of action 2 copies a run of pages to relief pages and switches to them. (R670) -/
  | hbmRepairRowReplacement (cells : Bytes) (host : HostImage)
  /-- HBM_REPAIR_POST_PACKAGE_REPAIR: An HBM_REPAIR of action 3 writes a DRAM post-package repair over maintenance steps and records it. (R671) -/
  | hbmRepairPostPackageRepair (cells : Bytes) (host : HostImage)
  /-- HBM_REPAIR_RELEASE: An HBM_REPAIR of action 4 copies relief pages back, switches back at a round start and frees the splice entry. (R672) -/
  | hbmRepairRelease (cells : Bytes) (host : HostImage)
  /-- CONFIG_RECORD_READ: A CONFIG_RECORD read writes the configuration record copy in force to the host buffer. (R677) -/
  | configRecordRead (cells : Bytes) (host : HostImage)
  /-- CONFIG_RECORD_WRITE: A CONFIG_RECORD write writes and reads back one copy of an operator or Karulo record, or is refused. (R674) -/
  | configRecordWrite (cells : Bytes) (host : HostImage)
  /-- SERVICE_SESSION_OPEN: A signed SERVICE_SESSION open request opens a session, appends a measurement entry and destroys import keys. (R667) -/
  | serviceSessionOpen (cells : Bytes) (host : HostImage)
  /-- SERVICE_SESSION_CLOSE: A SERVICE_SESSION close request closes the service session. (R668) -/
  | serviceSessionClose (cells : Bytes) (host : HostImage)
  /-- SERVICE_SESSION_EXPIRY: A service session's duration passes, so the session closes. (R668) -/
  | serviceSessionExpiry
  /-- LOG_READ: A LOG_READ writes records of staging, the error queue, the firmware log or the compatibility table to the host, optionally releasing them. (R590) -/
  | logRead (cells : Bytes) (host : HostImage)
  /-- NOP_INSTRUCTION: The NOP instruction does nothing for one cycle. (R273) -/
  | nopInstruction (run core : Nat)
  /-- SETS: SETS writes an immediate to a scalar register. (R275) -/
  | sets (run core : Nat)
  /-- ADDS: ADDS writes a scalar register plus an immediate to a scalar register. (R275) -/
  | adds (run core : Nat)
  /-- MULS: MULS writes the low 32 bits of a product of two scalar registers. (R275) -/
  | muls (run core : Nat)
  /-- SETB: SETB loads a buffer register from a pool buffer entry, optionally offset by a scalar. (R276) -/
  | setb (run core : Nat)
  /-- LOOP: LOOP runs the following body a counted number of times, or faults with LOOP_DEPTH. (R277) -/
  | loop (run core : Nat)
  /-- BAR: BAR waits for the core's instructions and, by scope, for the team, module or group to reach it. (R279) -/
  | bar (run core : Nat)
  /-- WAITR: WAITR waits for the next round start or the next bulk slot given to the program. (R281) -/
  | waitr (run core : Nat)
  /-- END: END waits for all the core's work and transfers and ends the virtual core. (R282) -/
  | endCore (run core : Nat)
  /-- WAITM: WAITM waits until every MOVE and SCAN of the core carrying a tag has completed. (R282) -/
  | waitm (run core : Nat)
  /-- MOVE: MOVE starts a tensor-mover transfer described by a pool block entry, or faults with MOVE_BOUNDS. (R283) -/
  | moveInstruction (run core : Nat)
  /-- SCAN: SCAN submits a scan job from local memory as a bulk lane job, or faults with SCAN_FIELD. (R285) -/
  | scan (run core : Nat)
  /-- TCLR: TCLR clears a tile, its tile state and its recorded scales. (R286) -/
  | tclr (run core : Nat)
  /-- TADD: TADD adds a source tile exactly into a destination tile, combining NaR bits, counters and scales. (R288) -/
  | tadd (run core : Nat)
  /-- TSAVE: TSAVE writes a tile and its tile state record to aligned local memory. (R290) -/
  | tsave (run core : Nat)
  /-- TLOAD: TLOAD restores a tile and its tile state from a saved image. (R290) -/
  | tload (run core : Nat)
  /-- MMA: MMA adds an exact matrix product of two buffers into a tile, saturating or faulting as its rules state. (R291) -/
  | mma (run core : Nat)
  /-- VOP: VOP applies an element-wise or reducing vector operation and converts the exact result once to the destination format. (R293) -/
  | vop (run core : Nat)
  /-- OUT: OUT passes a tile's accumulators through the output stage to an output buffer and updates its histogram. (R296) -/
  | outInstruction (run core : Nat)
  /-- ACCM: ACCM adds a tile into a K24 sum tensor with stochastic rounding. (R300) -/
  | accm (run core : Nat)
  /-- SEL_INIT: SEL INIT empties the select unit and sets its capacity and threshold. (R301) -/
  | selInit (run core : Nat)
  /-- SEL_FEED: SEL FEED feeds entries from local memory to the select unit. (R302) -/
  | selFeed (run core : Nat)
  /-- SEL_READ: SEL READ writes the select unit's summary and held entries to local memory. (R303) -/
  | selRead (run core : Nat)
  /-- CYCLE_LIMIT: A team exceeds the image's max_cycles, so the invocation stops with CYCLE_LIMIT. (R320) -/
  | cycleLimit (run team : Nat)
  /-- TEAM_START: Clusters in a window become free for a program's teams, so the device places and starts teams. (R263) -/
  | teamStart (run : Nat) (placed : List (Nat × Nat))
  /-- PROGRAM_END: A program's last instruction completes, the status block is written and RUN_PROGRAM completes. (R257) -/
  | programEnd (run : Nat)
  /-- TRANSFER_COMPLETE: A tensor-mover transfer or scan completes and becomes visible to later transfers. (R272) -/
  | transferComplete (run transfer : Nat) (host : HostImage)
  /-- MOVE_TENSOR_DONE: A MOVE_TENSOR transfer finishes and its completion is written. (R371) -/
  | moveTensorDone (cid : Nat) (host : HostImage)
  /-- DETACH: A write of 1 to HIF_CONTROL.detach makes the device untethered at once with cause 2. (R525) -/
  | detach
  /-- ADMIN_ENABLE: A write to HIF_CONTROL.admin_enable checks the admin ring setup and starts or stops ring pair 0, pending while untethered. (R476) -/
  | adminEnable (value : BitVec 32)
  /-- NUDGE: A write to HIF_NUDGE wakes the doorbell watcher, or brings its next read forward. (R477) -/
  | nudge (value : BitVec 32)
  /-- REGISTER_WRITE: A write to a setup register without its own row sets, stages, clears or is refused as locked, misaligned or reserved. (R475) -/
  | registerWrite (offset width value : Nat)
  /-- STAGED_FIELD_BOUNDARY: A staged field's boundary arrives, so its block applies the shadow value. (R471) -/
  | stagedFieldBoundary (field : StagedField)
  /-- SMB_CAP_WRITE: An SMBus Write Word to SMB_CAP sets the board cap from the next ledger loop, or sets cap_refused. (R698) -/
  | smbCapWrite (value : BitVec 16) (pecGood : Bool)
  /-- SMBUS_WRITE_WORD: An SMBus Write Word to another register clears W1C bits or is ignored, and a write with a failed PEC is ignored. (R694) -/
  | smbusWriteWord (code : Nat) (value : BitVec 16) (pecGood : Bool)
  /-- FLR: A Function Level Reset returns host-facing state to reset, deletes rings and untethers the device, keeping all other state. (R482) -/
  | flr
  /-- HOT_RESET: A hot reset or link-down event acts as an FLR. (R483) -/
  | hotReset
  /-- D3HOT_ENTRY: Entry into D3hot stops host requests and untethers the device. (R484) -/
  | d3hotEntry
  /-- D0_RETURN: A return to D0 keeps configuration space and setup registers and lets pending MSI-X messages be sent. (R484) -/
  | d0Return
  /-- BUS_MASTER_ENABLE_CLEAR: Clearing Bus Master Enable stops all host requests and untethers the device without resetting anything. (R483) -/
  | busMasterEnableClear
  /-- MSIX_PENDING_SEND: The sending conditions of a vector hold again, so its pending MSI-X message is sent. (R479) -/
  | msixPendingSend (vector : Nat)
  /-- HOST_READ_FAILED: A host memory read ends in a completion error, so the command fails with MEDIUM_ERROR or the ring or page read is retried and logged. (R466) -/
  | hostReadFailed (read : HostRead) (address : Nat)
  /-- PTM_CAPTURE: A capture period expires, so a PTM dialogue runs and the time pair is published under HIF_PTM_SEQ. (R487) -/
  | ptmCapture (hostTime : BitVec 64)
  /-- DOORBELL_WATCH: A watch interval ends, so the watcher reads every live ring word and the mailbox words and acts on changes. (R503) -/
  | doorbellWatch (host : HostImage)
  /-- WATCHER_SLEEP: 1,000 idle watch intervals pass, so the watcher sets asleep, rereads every word, and sleeps or stays awake. (R505) -/
  | watcherSleep (host : HostImage)
  /-- COMPLETION_COALESCE_TIMEOUT: The oldest unsignalled entry of a completion ring has waited coalesce_time, so its MSI-X vector is sent. (R498) -/
  | completionCoalesceTimeout (cq : Nat)
  /-- ROUND_START: A round starts, fixing default snapshots, admitting waiting commands and applying everything timed to round boundaries. (R324) -/
  | roundStart
  /-- WAIT_LIMIT_EXPIRY: A waiting query's class wait limit in rounds passes, so it completes with NO_RESOURCES. (R77) -/
  | waitLimitExpiry (cid : Nat)
  /-- SPLICE_OLD_RUN_RELEASE: Every lane pass begun before a splice switch has ended, so the old run is released to the repair. (R384) -/
  | spliceOldRunRelease (stack entry : Nat)
  /-- SWITCH_ABORT_DEADLINE: Round p+2h+1 arrives with a refusal or missing acceptance, so the leader sends SWITCH_ABORT. (R349) -/
  | switchAbortDeadline
  /-- CONTROL_SLOT: The control slot opens, so group-wide messages are sent and forwarded once on every other TIMED port. (R436) -/
  | controlSlot
  /-- FAN_OUT_SLOT: The fan-out slot opens, so queries and refine requests are sent or forwarded one hop. (R342) -/
  | fanOutSlot
  /-- RETURN_SLOT: The return slot opens, so partial lists and refined distances are sent or forwarded one hop. (R342) -/
  | returnSlot
  /-- BULK_SLOT: The bulk slot opens, so T2, program, placement and lost bulk flits are sent on their routes. (R387) -/
  | bulkSlot
  /-- REPLAY_SLOT: The replay slot opens, so flits of reported lost blocks are resent in priority order. (R426) -/
  | replaySlot
  /-- MAINTENANCE_SLOT: The maintenance slot opens, so at most one held pseudo-channel per stack and flash housekeeping bursts run. (R330) -/
  | maintenanceSlot (held : List Nat)
  /-- PSEUDO_CHANNEL_REFRESH: A pseudo-channel refreshes, and its lane pauses and resumes at the same slot. (R152) -/
  | pseudoChannelRefresh (channel : Nat) (resume : Bool)
  /-- WALK_END: A query's route walk ends, its probe set is fixed and its B_max charges are replaced by exact per-stack charges. (R80) -/
  | walkEnd (cid member : Nat)
  /-- LANE_PASS_START: A lane's pass images are complete, so the lane begins the pass. (R138) -/
  | lanePassStart (lane : Nat)
  /-- LANE_PASS_END: A lane pass ends, and one result block per query is written and merged. (R147) -/
  | lanePassEnd (lane : Nat)
  /-- LANE_ECC_ERROR: A lane's segment read meets an uncorrectable error, so every query of the pass completes with MEDIUM_ERROR. (R155) -/
  | laneEccError (lane address : Nat)
  /-- REFINE_READ_DONE: A candidate's full vector arrives from flash and its exact distance is computed. (R95) -/
  | refineReadDone (cid member id : Nat)
  /-- REFINE_READ_TIMEOUT: A refinement read has not decoded by the end of its refine stage, so the query completes with MEDIUM_ERROR. (R402) -/
  | refineReadTimeout (cid : Nat)
  /-- RERANK_INVOCATION: A query's rerank window opens after its refine stage, so its rerank program scores the candidates. (R320) -/
  | rerankInvocation (cid member : Nat)
  /-- QUERY_FINAL: A query's final round selects the k best entries, writes and seals the result list, writes the completion and frees the slot. (R100) -/
  | queryFinal (cid : Nat)
  /-- QUERY_BOUND_EXPIRY: A query's bound ends unfinished after a lodge restart, so it completes with INTERRUPTED_RETRY. (R642) -/
  | queryBoundExpiry (cid : Nat)
  /-- MUTATION_ADMISSION: A waiting mutation finds room and journal space, so the device begins writing its slots and data. (R722) -/
  | mutationAdmission (cid : Nat)
  /-- EMBED_BATCH: A batch of token sequences runs through the embedding program, producing K16 rows. (R171) -/
  | embedBatch (cid first count : Nat)
  /-- LAST_PART_ISSUE: Earlier mutations' last parts are on the medium, so a mutation's last journal part is issued. (R709) -/
  | lastPartIssue (cid : Nat)
  /-- JOURNAL_PART_ON_MEDIUM: A journal part's sectors are programmed and its CRC holds. (R404) -/
  | journalPartOnMedium (mutation part : Nat)
  /-- HOLDER_WRITE_DONE: Every holder has written a mutation's data, so the home module commits it and sends COMMIT. (R446) -/
  | holderWriteDone (cid holder : Nat)
  /-- GROUP_COMMIT_COMPLETION: h rounds after COMMIT, the home module posts the mutation's completion. (R446) -/
  | groupCommitCompletion (cid : Nat)
  /-- STORE_COMPLETION: A store command's sectors are all programmed or read, so its completion is posted. (R395) -/
  | storeCompletion (cid : Nat)
  /-- FLASH_READ_FAILED: A flash read fails its last decode retry, so it completes with MEDIUM_ERROR and a record names the sector. (R399) -/
  | flashReadFailed (sector : Nat) (reader : FlashReader)
  /-- COMPACTION: The device compacts an eligible partition below the floor sequence. (R62) -/
  | compaction (coll part : Nat)
  /-- REBALANCE_START: The device starts a rebalance for a partition above 1.25 or below 0.25 times the mean. (R189) -/
  | rebalanceStart (coll part : Nat)
  /-- CLUSTERING_ITERATION: One Lloyd iteration with long sums updates centroids. (R192) -/
  | clusteringIteration (coll job : Nat)
  /-- GENERATION_PUBLISH: A new generation is published at its own sequence, tombstoning replaced partitions and tagging new segments. (R42) -/
  | generationPublish (coll job : Nat)
  /-- ROUTE_GRAPH_COPY_BACK_DONE: Route-graph records or codebook lost to a retired page are copied back, so queries on the collection are admitted again. (R198) -/
  | routeGraphCopyBackDone (coll : Nat)
  /-- COLLECTION_LOAD_END: A collection's HBM state is loaded after mount, and an unsolicited COLLECTION_STATE is sent. (R408) -/
  | collectionLoadEnd (coll : Nat)
  /-- HBM_CORRECTED: The memory controller corrects an error and counts it per page. (R377) -/
  | hbmCorrected (channel page address : Nat)
  /-- HBM_UNCORRECTABLE: A read meets an uncorrectable word, so it returns poisoned and a record is queued. (R378) -/
  | hbmUncorrectable (channel page address : Nat)
  /-- LEND_WINDOW_CLOSE: A lent-memory window closes, its contents are lost and transfers naming it end with MEDIUM_ERROR. (R388) -/
  | lendWindowClose (window : Nat)
  /-- CORE_MEMORY_UNCORRECTABLE: A core or cluster memory word is uncorrectable, so a record is queued and the core may be marked failing. (R663) -/
  | coreMemoryUncorrectable (cluster core address : Nat) (query : Option (Nat × Nat))
  /-- CORE_DATAPATH_PARITY: A core's datapath parity check fires, so the core is marked failing. (R663) -/
  | coreDatapathParity (cluster core : Nat)
  /-- SPARE_TEST_END: A spare core's 20 ms test ends, and the cluster returns to service or leaves it. (R664) -/
  | spareTestEnd (cluster spare : Nat) (passed : Bool)
  /-- COMPARTMENT_FAULT: A component accesses memory outside its regions, so it stops and the lodge treats it as failed. (R558) -/
  | compartmentFault (comp : Nat)
  /-- COMPONENT_HEARTBEAT_TIMEOUT: A component misses its heartbeat for 5 ms, so the lodge treats it as failed. (R559) -/
  | componentHeartbeatTimeout (comp : Nat)
  /-- KIOSK_HALT: A kiosk's core halts or all its components are silent for 5 ms, so the kiosk is restarted. (R559) -/
  | kioskHalt (kiosk : Nat)
  /-- COMPONENT_RESTART_END: A restarted component returns, and its interrupted commands and messages complete with INTERRUPTED_RETRY or RESTARTED. (R563) -/
  | componentRestartEnd (comp : Nat)
  /-- KIOSK_RESTART_END: A restarted kiosk returns with all its components. (R561) -/
  | kioskRestartEnd (kiosk : Nat)
  /-- LODGE_WATCHDOG_EXPIRY: The lodge's watchdog expires, so the lodge restarts under the hardware clamp. (R560) -/
  | lodgeWatchdogExpiry
  /-- LODGE_RETURN: The lodge returns from restart, and ledger loops, admission and held restarts resume. (R573) -/
  | lodgeReturn
  /-- GATEHOUSE_WATCHDOG_EXPIRY: The gatehouse's watchdog expires, so the lodge restarts the gatehouse. (R560) -/
  | gatehouseWatchdogExpiry
  /-- GATEHOUSE_RETURN: The gatehouse returns from restart, and its messages are accepted again. (R574) -/
  | gatehouseReturn
  /-- GATEHOUSE_RETURN_TIMEOUT: The gatehouse has not returned within 300 ms, so the lodge performs an internal restart. (R644) -/
  | gatehouseReturnTimeout
  /-- RECOVERY_PERIOD_END: A unit's recovery period passes without error, so its depth returns to 0. (R657) -/
  | recoveryPeriodEnd (kind unit : Nat)
  /-- COMPONENT_MOVE_TIMEOUT: A component still busy 1 s into activation is restarted at once on the new image. (R593) -/
  | componentMoveTimeout (comp : Nat)
  /-- LEDGER_LOOP: Every 1 ms the ledger reads input power and sense pins, adjusts the tensor clock and ceilings, and updates the cap stage and SMBus registers. (R630) -/
  | ledgerLoop (r : LoopReading)
  /-- POWER_CLAMP: Every 10 µs the clamp compares mean power with the ceiling and limits window clusters, or during a lodge restart withholds walk steps and lane passes. (R631) -/
  | powerClamp (mean : Nat)
  /-- VOLTAGE_STAGE_RISE: The lower 12 V input falls below a stage threshold, so the voltage stage rises and its additions apply within 10 µs. (R632) -/
  | voltageStageRise (millivolts : Nat)
  /-- VOLTAGE_STAGE_FALL: The input has stayed above a threshold plus 0.1 V for 100 ms, so the voltage stage falls. (R632) -/
  | voltageStageFall (millivolts : Nat)
  /-- PWRBRK_ASSERT: PWRBRK# is held asserted for 1 µs, so stage 3 and a 250 W ceiling apply. (R691) -/
  | pwrbrkAssert
  /-- PWRBRK_DEASSERT: PWRBRK# is held deasserted for 1 µs, so its stage is removed. (R691) -/
  | pwrbrkDeassert
  /-- SUPPLY_OUT_OF_SPEC: A 12 V input stays below 11.04 V for 1 ms or above 12.96 V for 10 µs, so a Fatal record is queued and shelter mode entered. (R637) -/
  | supplyOutOfSpec (millivolts : Nat)
  /-- POWER_LOSS: Input power is lost, so flash domains run on the hold-up bank to finish programs in flight and every other domain stops. (R638) -/
  | powerLoss
  /-- THERMAL_THRESHOLD: A sensor crosses its throttle or stage threshold, so the thermal ceiling or thermal stage changes. (R640) -/
  | thermalThreshold (sensor : Sensor) (temp : Int)
  /-- THERMAL_STAGE_END: A sensor has been 3 °C below its threshold for 1 s, so its thermal stage ends. (R640) -/
  | thermalStageEnd (sensor : Sensor)
  /-- THERMAL_LIMIT: A sensor reaches its shelter limit, so a Fatal record is queued and shelter mode entered. (R641) -/
  | thermalLimit (sensor : Sensor) (temp : Int)
  /-- THERMAL_CUT_OFF: A compute die reaches 120 °C, so the hardware cut-off trips and the device acts as on power loss and stays off. (R641) -/
  | thermalCutOff (die : Nat)
  /-- CMIS_HIGH_ALARM: A QSFP-DD module raises its CMIS high alarm, so it goes to low-power mode and its ports go DOWN. (R413) -/
  | cmisHighAlarm (cage : Nat)
  /-- PERST_ASSERT: PERST# is asserted, so in-flight flash programs finish and every non-always-on domain is held in reset. (R643) -/
  | perstAssert
  /-- PERST_DEASSERT: PERST# is deasserted after power good, so start-up begins at step 1. (R646) -/
  | perstDeassert
  /-- STARTUP_STEP_END: A start-up step finishes, so the next step begins or READY is set. (R646) -/
  | startupStepEnd (report : StartReport)
  /-- STARTUP_STEP_TIMEOUT: A start-up step passes its maximum time, so a Fatal record is queued and shelter mode entered. (R648) -/
  | startupStepTimeout
  /-- STARTUP_HOLD: The input stays below 11.04 V for 1 ms before READY, so the device holds all but the always-on domain in reset and restarts at step 1. (R649) -/
  | startupHold
  /-- LINK_UP: The PCI Express link reaches L0, and configuration requests and BAR0 reads are answered. (R647) -/
  | linkUp (rate width : Nat) (cfg : BitVec 16)
  /-- DIE_DEEP_SLEEP: A die with no work and sleeping clusters enters deep sleep. (R626) -/
  | dieDeepSleep (die : Nat)
  /-- DIE_WAKE: A sleeping die wakes on a nudge, hawser transfer, pre-wake or its 1 s housekeeping timer. (R625) -/
  | dieWake (die : Nat)
  /-- CLUSTER_WAKE: Work arrives for a sleeping cluster in a window, so it wakes in 2 µs. (R333) -/
  | clusterWake (cluster : Nat)
  /-- PREWAKE: prewake_ticks before a pre-wake window, the lodge starts to wake its clusters. (R333) -/
  | prewake (cluster : Nat)
  /-- CAGE_MODULE_INSERTED: A QSFP-DD module appears in a cage, its power class is read, and its ports may train or stay DOWN. (R414) -/
  | cageModuleInserted (cage : Nat) (info : Machine.CageInfo)
  /-- CAGE_MODULE_REMOVED: A cage's module is removed, so its TIMED ports go DOWN and PORT_DOWN is sent. (R422) -/
  | cageModuleRemoved (cage : Nat)
  /-- TRAINING_TIMEOUT: A port has not trained within 300 ms, so it returns to DOWN. (R420) -/
  | trainingTimeout (port : Nat)
  /-- TRAINING_RETRY: 1 s after a failed training, a DOWN port trains again. (R420) -/
  | trainingRetry (port : Nat)
  /-- BLOCK_LOCK: A trained port receives 8 consecutive good blocks, gains block lock and becomes LOCKED. (R421) -/
  | blockLock (port : Nat)
  /-- BLOCK_LOCK_LOSS: A TIMED port loses block lock or exceeds 16 lost blocks in a round, so it goes DOWN and PORT_DOWN is sent. (R422) -/
  | blockLockLoss (port : Nat)
  /-- LOST_BLOCK: A received block has an uncorrectable codeword, bad sync or failed control CRC, so its flits are lost and it is reported by nack_seq. (R416) -/
  | lostBlock (port blockSeq : Nat) (block : Option Bytes) (flits : List Machine.Flit)
  /-- LINK_HELLO: A LINK_HELLO is received and checked against the port map. (R421) -/
  | linkHello (port : Nat) (group farModule farPort : Nat)
  /-- TIME_SYNC: A TIME_SYNC is received, updating the measured delay and correcting group time phase. (R422) -/
  | timeSync (port : Nat) (txTime rxTime arrival : Nat)
  /-- HEARTBEAT: A HEARTBEAT is received, refreshing the sender's liveness. (R456) -/
  | heartbeat (port : Nat) (msg : Bytes)
  /-- MODULE_LOST: A member's HEARTBEAT has been missing for 24+h rounds, so it is lost, its loans close and the leader may be replaced. (R456) -/
  | moduleLost (module : Nat)
  /-- SWITCH_PROPOSE: A SWITCH_PROPOSE is received, and the module accepts or refuses it. (R348) -/
  | switchPropose (port : Nat) (msg : Bytes)
  /-- SWITCH_ACCEPT: A SWITCH_ACCEPT is received by the leader. (R349) -/
  | switchAccept (port : Nat) (msg : Bytes)
  /-- SWITCH_REFUSE: A SWITCH_REFUSE is received by the leader. (R349) -/
  | switchRefuse (port : Nat) (msg : Bytes)
  /-- SWITCH_ABORT: A SWITCH_ABORT is received, so the module returns to STAGED and admission resumes. (R349) -/
  | switchAbort (port : Nat) (msg : Bytes)
  /-- SHED_STAGE: A SHED_STAGE notice is received, so the coordinator admits under its lean or full plan. (R355) -/
  | shedStage (port : Nat) (msg : Bytes)
  /-- BARRIER: A group BARRIER message is received, counting a team's arrival at a scope 3 barrier. (R279) -/
  | barrier (port : Nat) (msg : Bytes)
  /-- COMMIT: A COMMIT message is received, raising the coordinator's default snapshot and floor sequence. (R447) -/
  | commit (port : Nat) (msg : Bytes)
  /-- EPOCH_OPEN: An EPOCH_OPEN is received, opening a placement epoch for a moved partition at r_open. (R448) -/
  | epochOpen (port : Nat) (msg : Bytes)
  /-- EPOCH_READY: An EPOCH_READY is received, so coordinators fan out to both placements from r_both. (R448) -/
  | epochReady (port : Nat) (msg : Bytes)
  /-- EPOCH_CLOSE: An EPOCH_CLOSE is received, closing the old epoch from r_close. (R448) -/
  | epochClose (port : Nat) (msg : Bytes)
  /-- PLACEMENT_COPY_DONE: A partition copy to its new holder completes, so the new holder sends EPOCH_READY. (R448) -/
  | placementCopyDone (coll part : Nat)
  /-- LEND: A LEND request, grant or end message is received, opening or closing a loan at its named round. (R459) -/
  | lend (port : Nat) (msg : Bytes)
  /-- PORT_DOWN: A PORT_DOWN is received, so routes crossing the port are treated as broken from the next round. (R453) -/
  | portDown (port : Nat) (msg : Bytes)
  /-- PORT_UP: A PORT_UP is received, so the port becomes TIMED and its routes are whole from its named round. (R455) -/
  | portUp (port : Nat) (msg : Bytes)
  /-- LEAVE: A LEAVE is received, and the sender is treated as lost. (R458) -/
  | leave (port : Nat) (msg : Bytes)
  /-- LEADER: A LEADER message is received, naming the new leader. (R457) -/
  | leader (port : Nat) (msg : Bytes)
  /-- TIME_PARENT_TIMEOUT: A module has had no time parent for 64 rounds, so it leaves the group. (R432) -/
  | timeParentTimeout
  /-- LEADER_SEARCH_TIMEOUT: A module reaches no leader within 64 rounds, so it sends LEAVE and runs as a group of one. (R458) -/
  | leaderSearchTimeout
  /-- GROUP_FORMATION_TIMEOUT: Ports are not all MEASURED within 10 s of the leader's GROUP_JOIN, so every module refuses and resumes its previous timetable. (R441) -/
  | groupFormationTimeout
  /-- FAN_OUT_TRANSFER_RECEIVED: A fan-out transfer arrives and is forwarded next round or consumed as a scan or refine request. (R342) -/
  | fanOutTransferReceived (port : Nat) (flow : Machine.Flow)
  /-- RETURN_TRANSFER_RECEIVED: A return transfer arrives with partial lists, refined distances, refusals or transit records, and is forwarded or merged. (R341) -/
  | returnTransferReceived (port : Nat) (flow : Machine.Flow)
  /-- BULK_TRANSFER_RECEIVED: A bulk transfer's last flit arrives, completing a T2 read or write, program move or placement copy. (R460) -/
  | bulkTransferReceived (port : Nat) (flow : Machine.Flow)
  /-- POWER_GOOD: 12 V and 3.3 V become good, so the always-on domain runs and start-up begins at step 1 once PERST# is also deasserted. (R646) -/
  | powerGood
  /-- HOLD_INPUT_RECOVERED: The input recovers after a start-up hold, so the device leaves reset and begins start-up again at step 1. (R649) -/
  | holdInputRecovered
  /-- FLR_COMPLETION: An FLR ends within 100 ms, and the device stops answering configuration requests with Configuration Request Retry Status. (R480) -/
  | flrCompletion
  /-- PME_STATUS_CLEAR: The host clears PME_Status while the device is in D3hot, so the device deasserts WAKE#. (R690) -/
  | pmeStatusClear
  /-- CLUSTER_SLEEP: A cluster with no work has its clock gated by the lodge and enters the asleep state with its state retained. (R22) -/
  | clusterSleep (cluster : Nat)
  /-- PORTS_MEASURED_REPORT: The leader receives an untimed control report that a joining module's mapped ports are all MEASURED, and proposes the first switch once every module has reported. (R441) -/
  | portsMeasuredReport (port : Nat) (msg : Bytes)
  /-- INVALID_OPCODE_DESCRIPTOR: A fetched descriptor whose desc_version is not 1 or whose opcode is absent from the opcode table completes with UNSUPPORTED_VERSION or INVALID_DESCRIPTOR, detail 0x01. (R13) -/
  | invalidOpcodeDescriptor (ring : Nat) (desc : Bytes) (host : HostImage)
  /-- UNKNOWN_MESSAGE_TYPE: A framed mailbox message whose type is absent, device-to-host, or 0x8000 and above is refused with REFUSED_TYPE. (R581) -/
  | unknownMessageType (cells : Bytes) (host : HostImage)
  /-- HOST_PORT_INTERNAL_ERROR: An internal error that affects the host port is reported as an AER Uncorrectable Internal Error and queued as an error record. (R467) -/
  | hostPortInternalError
  deriving DecidableEq, Repr

end Sys2Proof
end

