-- ==== Sys2Proof/Decode.lean ====
section
/-!
DEFINITION. The commands that the opcode table's bits spell: none, since no row of the table gives bits. A descriptor's
opcode byte and a message's type are fields of what the commands carry as operands.
-/

namespace Sys2Proof

/-- The command that a word spells by the table's bits. The table gives no row any bits. -/
def decodeTableWord (_nbits _w : Nat) : Option Instr := none

end Sys2Proof
end

