-- ==== Sys2Proof/Config.lean ====
section
/-!
DEFINITION. What the spec leaves open, as constants without a body: nothing can be proved of their values. The free
values are applied to the counter State.free or to what they depend on (assumption log 2); the cryptographic
functions are those of the standards that chapter 17 names and the spec does not restate (assumption log 18).
-/

namespace Sys2Proof

/-- A free number: the value of the n-th free draw (log 2). -/
opaque Config.freeNat : Nat → Nat

/-- A free byte: the value of the n-th free draw at an index (log 2). -/
opaque Config.freeByte : Nat → Nat → Byte

/-- A free bit of the n-th free draw (log 2). -/
opaque Config.freeBit : Nat → Bool

/-- SM3 of a byte string, 32 bytes (chapter 17). -/
opaque Config.sm3 : Bytes → Bytes

/-- GCM decryption of a suite: suite, key, nonce, additional data, ciphertext, tag; none when the tag fails. -/
opaque Config.gcmOpen : Nat → Bytes → Bytes → Bytes → Bytes → Bytes → Option Bytes

/-- GCM encryption of a suite: suite, key, nonce, additional data, plaintext; ciphertext and tag. -/
opaque Config.gcmSeal : Nat → Bytes → Bytes → Bytes → Bytes → Bytes × Bytes

/-- The SM2 key derivation function kdf(Z, n) of chapter 17. -/
opaque Config.kdf : Bytes → Nat → Bytes

/-- Whether an SM2 signature holds: the number of Karulo's key (0 firmware, 1 service), message, signature. -/
opaque Config.sm2Verify : Nat → Bytes → Bytes → Bool

/-- The device's SM2 signature of a message under a device key: secret, message. -/
opaque Config.sm2Sign : Bytes → Bytes → Bytes

/-- The public key of a device secret, 64 bytes. -/
opaque Config.sm2Public : Bytes → Bytes

/-- SM2 decryption under a device secret; none when it fails. -/
opaque Config.sm2Decrypt : Bytes → Bytes → Option Bytes

/-- What the module's physical unclonable function reconstructs at start-up: the 256-bit seed (R597). -/
opaque Config.pufSeed : Bytes

/-- The three certificates in DER, level 2 first, from the body of configuration record 0x0002 (R599). -/
opaque Config.certChain : Bytes → Bytes

/-- What the gatehouse finds in a firmware image, beside the version of the running one: none when its signature fails;
else its version, its compatibility table, and whether its gatehouse and lodge images are the running ones (R591). The
spec does not lay out the image. -/
opaque Config.fwImage : Nat → Bytes → Option (Nat × List (Nat × Nat × Nat) × Bool)

/-- The SM3 digest of an item of the image of a firmware version: a component's number, or 0xFF for the whole. -/
opaque Config.imageDigest : Nat → Nat → Bytes

/-- The power cap that the body of configuration record 0x0020 gives, in W; the spec does not lay it out (log 12). -/
opaque Config.capOfRecord : Bytes → Nat

/-- The driver region's size that the body of configuration record 0x0021 gives, in GiB (log 12). -/
opaque Config.regionOfRecord : Bytes → Nat

/-- Draws of the deterministic random generator (chapter 17): the n-th draw. -/
opaque Config.random : Nat → Bytes

/-- What a lane's table memory holds for a program's scan job: job, offset (R285; log 68). -/
opaque Config.laneTable : Bytes → Nat → Byte

/-- Whether an attribute word passes the predicates that a lane holds for a program's scan job: job, word (R285; log 68). -/
opaque Config.lanePredicate : Bytes → Nat → Bool

/-- Whether the static route from this module to another crosses a port of a third: timetable, far module, module, port.
A module's image holds only its own positions of the routes (R433), so the rest is the toolkit's. -/
opaque Config.routeCrosses : Nat → Nat → Nat → Nat → Bool

/-- The far module and port that a cable joins to a port of another module: module, port. A module's own port map says where its own
cables lead; the rest of the group's cabling is the installation's (R430, log 107). -/
opaque Config.cable : Nat → Nat → Option (Nat × Nat)

/-- Payload bytes of a data flit, which the spec does not lay out: transfer, flit_index, byte (R417, log 39). -/
opaque Config.flitPayload : Machine.Flow → Nat → Nat → Byte

/-- The DRAM bank of a row number of a post-package repair, as the HBM4 standard numbers rows (R671). -/
opaque Config.bankOf : Nat → Nat

/-- Whether a run of pages holds a DRAM row: pseudo-channel, first page, pages, row (R671). -/
opaque Config.rowInRun : Nat → Nat → Nat → Nat → Bool

/-- Free: whether the descriptor at a position of a ring, which lies in host memory, is an EMBED_INSERT (R508, log 24). -/
opaque Config.embedNext : Nat → Nat → Bool

/-- Free: the 25-bit term counter of a tile after a TADD whose counters sum to more than it can hold: sum (R232, log 118). -/
opaque Config.pastTerms : Nat → Nat

/-- DRAM banks of a pseudo-channel, each with one post-package repair row (chapter 19); the spec does not count them. -/
opaque Config.banks : Nat

end Sys2Proof
end

