-- ==== Sys2Proof/Machine/State.lean ====
section
/-!
DEFINITION. The machine's state as plain data, its reset value, and the reasons a step can stop.
Each field's docstring names the rule of spec/ that gives it and its width.
-/

namespace Sys2Proof.Machine

/-- An exact value of a conversion (R215, R219): NaR, or `man × 2^exp`. -/
inductive Val where
  | nar
  | fin (man : Int) (exp : Int)
  deriving DecidableEq, Repr

/-- A tensor descriptor's fields (R364), read from its 64 bytes. -/
structure TensorDesc where
  /-- tier code (R364; 8) -/
  tier : Nat
  /-- format byte, [7:4] included (R364; 8) -/
  format : Nat
  /-- rank (R364; 8) -/
  rank : Nat
  /-- reserved byte 3 (R364; 8) -/
  rsv3 : Nat
  /-- binary32 scale (R210; 32) -/
  scale : BitVec 32
  /-- address field, [63:56] included (R361; 64) -/
  address : Nat
  /-- dimensions, innermost first (R364; 4 × 32) -/
  dims : List Nat
  /-- strides of dimensions 1 to 3 (R364; 3 × 64) -/
  strides : List Nat
  /-- reserved bytes 0x38 (R364; 64) -/
  rsvTail : Nat
  deriving DecidableEq, Repr

/-- The common header of a fetched descriptor (R530). -/
structure Header where
  /-- opcode (R530; 8) -/
  opcode : Nat
  /-- host tag (R530; 32) -/
  tag : Nat
  /-- collection ID field (R29; 16) -/
  collection : Nat
  /-- ATOMIC flag (R531; 1) -/
  atomic : Bool
  deriving DecidableEq, Repr

/-- A search plan with the body fields of its descriptor (R67, chapter 15). -/
structure Plan where
  /-- metric asked for (R67; 8) -/
  metric : Nat
  /-- entries wanted (R67; 16) -/
  k : Nat
  /-- probe_count (R67; 32) -/
  probe : Nat
  /-- walk_budget field (R67; 32) -/
  walkBudget : Nat
  /-- refine_count (R67; 16) -/
  refine : Nat
  /-- rerank_program handle (R319; 32) -/
  rerank : Nat
  /-- rerank operand (R541; 64 bytes) -/
  operand : Option TensorDesc
  /-- filter (R70; 224 bytes) -/
  filter : Filter
  /-- snapshot field (R52; 64) -/
  snapshotReq : Nat
  /-- deadline class (R74; 2) -/
  deadline : Nat
  /-- seal (R103; 2) -/
  sealing : Nat
  /-- result_addr (R542; 64) -/
  resultAddr : Nat
  /-- result_len (R543; 32) -/
  resultLen : Nat
  /-- QUERY_BATCH (R79; 1) -/
  batch : Bool
  deriving DecidableEq, Repr

/-- The partial list of one probed partition with its placement epoch and NaR count (R122, R123). -/
structure PartList where
  /-- partition (R122; 20) -/
  part : Nat
  /-- placement epoch (R122; 32) -/
  epoch : Nat
  /-- module whose placement answers (R445; 16) -/
  holder : Nat
  /-- entries returned so far (R93; ≤ 64 per pass) -/
  entries : List Entry
  /-- NaR entries met in pass 0 (R123; 32) -/
  nar : Nat
  /-- passes ended (R93; count) -/
  passes : Nat
  /-- lane jobs of the current pass not yet ended (R148; count) -/
  lanesLeft : Nat
  /-- merged list of the current pass so far (R148; ≤ 64) -/
  passEntries : List Entry
  /-- the job's last pass has ended (R93; 1) -/
  done : Bool
  /-- result blocks of the current pass, as the lanes wrote them (R147; 32 + 24 × count each) -/
  blocks : List (List (BitVec 8))
  deriving DecidableEq, Repr

/-- One member of a query: its vector in its forms, its lists and its progress (R79). -/
structure Member where
  /-- member index (R542; 16) -/
  idx : Nat
  /-- query vector as given (R69; d) -/
  vec : Vec
  /-- K8 form (R69; d × 8) -/
  q8 : List Nat
  /-- K16 form (K16 full vectors) (R69; d × 16) -/
  q16 : List Nat
  /-- probe set (R89; ≤ 65,536) -/
  probes : List Nat
  /-- probe set holds every partition (R91; 1) -/
  exhaustive : Bool
  /-- partial lists (R94; per partition) -/
  lists : List PartList
  /-- candidate list (R94; ≤ 4,096) -/
  cand : List Entry
  /-- refined entries so far (R95; ≤ 4,096) -/
  refined : List Entry
  /-- candidates whose full vector has not arrived (R95; ≤ 4,096) -/
  refLeft : List Entry
  /-- reranked entries (R98; ≤ 4,096) -/
  reranked : Option (List Entry)
  /-- candidates whose refined distance was NaR (R128; 32) -/
  narRefine : Nat
  /-- candidates whose negated score was NaR (R128; 32) -/
  narRerank : Nat
  /-- DUP_MERGED (R121; 1) -/
  dupMerged : Bool
  /-- epoch_dropped (R122; 16) -/
  epochDropped : Nat
  /-- RERANK_SKIPPED (R105; 1) -/
  rerankSkipped : Bool
  /-- status a member ended with early (R550; 8) -/
  status : Option Nat
  /-- instruction at which its rerank faulted (R321, R535; 32) -/
  faultAt : Nat
  /-- place of its scan jobs: admission order, or acceptance order in a group (R83, R339; index) -/
  order : Nat
  /-- full vectors that other holders returned for a rerank (chapter 10; ≤ 4,096) -/
  full : List (Nat × List Nat)
  /-- transit records received (R618; ≤ 4,096) -/
  transit : List Transit
  /-- query slot held (R78; 16) -/
  querySlot : Nat
  /-- in a group, the module that each candidate's refinement was asked of: ID, module (R340; ≤ 4,096) -/
  asked : List (Nat × Nat)
  deriving DecidableEq, Repr

/-- The stage a query command has reached (the stages of chapter 3). -/
inductive QPhase where
  | waiting | walk | scan | refine | rerank | final
  deriving DecidableEq, Repr

/-- A QUERY or QUERY_BATCH from fetch to completion. -/
structure QueryWork where
  /-- search plan (R67; -) -/
  plan : Plan
  /-- members (R79; 1 to 1,024) -/
  members : List Member
  /-- stage (chapter 3; -) -/
  phase : QPhase
  /-- round in which it was fetched (R77; 64) -/
  fetchRound : Nat
  /-- snapshot in use once admitted (R52; 64) -/
  snapshot : Nat
  /-- generation walked (R43; 32) -/
  gen : Nat
  /-- admitting round a (R75; 64) -/
  admitRound : Nat
  /-- round by whose start it completes, a + D / t_rnd (R102; 64) -/
  bound : Nat
  /-- its place in admission order (R83; index) -/
  admitNo : Nat
  /-- admitted under the lean plan (R107; 1) -/
  lean : Bool
  /-- B_max of each member, counted until its walk ends (R80; bytes) -/
  bMax : Nat
  /-- first round of its rerank window (R335; 64) -/
  windowRound : Nat
  /-- first round of its refine stage as scheduled (R85; 64) -/
  refineRound : Nat
  deriving DecidableEq, Repr

/-- The kinds of mutation (chapter 11's journal part kinds 0 to 2; EMBED_INSERT is an insert). -/
inductive MutKind where
  | insert | embed | delete | setAttr
  deriving DecidableEq, Repr

/-- A chunk envelope after its checks (R158): header fields and plaintext. -/
structure Chunk where
  /-- vector ID (R158; 64) -/
  id : Nat
  /-- attribute word (R158; 64) -/
  attr : Nat
  /-- key_id (R158; 32) -/
  keyId : Nat
  /-- keep payload (R164; 1) -/
  keep : Bool
  /-- decrypted plaintext (R161; ct_len) -/
  plain : List (BitVec 8)
  /-- token sequence (R169; ≤ 2,048) -/
  tokens : List Nat
  /-- truncated to max_tokens (R169; 1) -/
  truncated : Bool
  deriving DecidableEq, Repr

/-- One batch entry of a mutation. -/
structure MutEntry where
  /-- vector ID (R34; 64) -/
  id : Nat
  /-- attribute word (R51; 64) -/
  attr : Nat
  /-- input vector; none for DELETE and SET_ATTR, and until embedded (R174; d) -/
  vec : Option Vec
  /-- payload plaintext kept; none from its sealing on (R179) (R164; ≤ 4,096) -/
  payload : Option (List (BitVec 8))
  /-- the payload record sealed from it at admission (R165; ≤ 4,096) -/
  record : Option Payload
  deriving DecidableEq, Repr

/-- A mutation command from fetch to completion (chapter 6). -/
structure Mutation where
  /-- kind (chapter 6; -) -/
  kind : MutKind
  /-- batch (R553; 1 to 65,536) -/
  entries : List MutEntry
  /-- pending chunks of an EMBED_INSERT (R180; 0 to 4,096) -/
  chunks : List Chunk
  /-- mutation_id, ascending in fetch order (chapter 11; 64) -/
  mutationId : Nat
  /-- admitted (chapter 6; 1) -/
  admitted : Bool
  /-- generation written against (R176; 32) -/
  gen : Nat
  /-- latest sequence when its lookups were made (R178; 64) -/
  base : Nat
  /-- journal parts in all (R183; count) -/
  parts : Nat
  /-- entries of each part but the last, fixed at admission (R183; count) -/
  perPart : Nat
  /-- parts issued (R709; count) -/
  issued : Nat
  /-- indices of parts on the medium (R404; parts) -/
  onMedium : List Nat
  /-- the last part is on the medium (R184; 1) -/
  lastOnMedium : Bool
  /-- its data is on its way to its holders (R446; 1) -/
  sent : Bool
  /-- holders that have not written its data (R446; modules) -/
  holdersLeft : List Nat
  /-- commit sequence (R44; 64) -/
  committed : Option Nat
  /-- round of its COMMIT (R446; 64) -/
  commitRound : Nat
  /-- word_a and word_c of its completion (R555; 2 words) -/
  counts : List Nat
  /-- keys that its check 6 passed with (R613; ≤ 4) -/
  keyIds : List Nat
  deriving DecidableEq, Repr

/-- The three store commands. -/
inductive StoreKind where
  | read | write | trim
  deriving DecidableEq, Repr

/-- A STORE_READ, STORE_WRITE or STORE_TRIM under way. -/
structure StoreWork where
  /-- kind (R393; -) -/
  kind : StoreKind
  /-- data_addr (chapter 15; 64) -/
  dataAddr : Nat
  /-- first sector (R393; 64) -/
  first : Nat
  /-- sectors (R393; 32) -/
  count : Nat
  /-- sectors issued (R519; count) -/
  issued : Nat
  /-- data of a write (R395; count × 4,096) -/
  data : List (BitVec 8)
  deriving DecidableEq, Repr

/-- A MOVE_TENSOR under way. -/
structure MoveWork where
  /-- source (R368; 64 bytes) -/
  src : TensorDesc
  /-- destination (R368; 64 bytes) -/
  dst : TensorDesc
  /-- transfer started (R389; 1) -/
  started : Bool
  /-- its T2 bulk transfers, once launched (R387; transfer_ids) -/
  flown : Option (List Nat)
  deriving DecidableEq, Repr

/-- A RUN_PROGRAM request. -/
structure RunReq where
  /-- program handle (R312; 32) -/
  handle : Nat
  /-- seed field (R313; 64) -/
  seed : Nat
  /-- argument descriptors by slot (R312; ≤ 16) -/
  args : List (Nat × TensorDesc)
  /-- run that executes it, once placed (R314; index) -/
  run : Option Nat
  deriving DecidableEq, Repr

/-- A FENCE that has been fetched. -/
structure FenceWork where
  /-- covered commands already fetched and not complete (R512; command ids) -/
  covered : List Nat
  /-- covered descriptors not yet fetched: ring, count before the tail read (R512; ring, position) -/
  unfetched : List (Nat × Nat)
  /-- commands covered (R555; count) -/
  total : Nat
  deriving DecidableEq, Repr

/-- What a command is doing, by its kind. -/
inductive CmdBody where
  | query (q : QueryWork)
  | mutation (m : Mutation)
  | store (w : StoreWork)
  | move (w : MoveWork)
  | run (r : RunReq)
  | fence (f : FenceWork)
  | plain
  deriving DecidableEq, Repr

/-- An outstanding command (R492): fetched, and neither completed nor staged. -/
structure Cmd where
  /-- device's own number, ascending in fetch order (R496; index) -/
  cid : Nat
  /-- submission ring (chapter 14; 8) -/
  ring : Nat
  /-- completion ring (R497; 8) -/
  cq : Nat
  /-- its common header (R530; 16 bytes) -/
  hdr : Header
  /-- what it is doing (chapter 15; -) -/
  body : CmdBody
  /-- admitted (R526; 1) -/
  admitted : Bool
  /-- group time of its fetch (R710; 64) -/
  fetchTime : Nat
  /-- component whose restart it waits for (R564; 8) -/
  held : Option Nat
  /-- it was outstanding at an untether: its completion is staged and nothing reaches the host (R526; 1) -/
  unreachable : Bool
  /-- its completion waits in the completion writer's queue (R567; 1) -/
  finished : Bool
  deriving DecidableEq, Repr

/-- A tensor table entry of a program image (R308). -/
structure TensorEntry where
  /-- 0 fixed, 1 argument, 2 output, 3 scratch, 4 local (R308; 8) -/
  role : Nat
  /-- argument slot (R308; 8) -/
  argSlot : Nat
  /-- output_index (R309; 16) -/
  output : Nat
  /-- descriptor, its T1 address placed by the loader (R308; 64 bytes) -/
  desc : TensorDesc
  deriving DecidableEq, Repr

/-- A loaded program (R307). -/
structure Program where
  /-- handle (R307; 32) -/
  handle : Nat
  /-- 0 general, 1 embedding, 2 rerank (R307; 8) -/
  kind : Nat
  /-- chunk-independent (R170; 1) -/
  chunkIndep : Bool
  /-- resident (R263; 1) -/
  resident : Bool
  /-- virtual core count w (R261; 32) -/
  vcores : Nat
  /-- instructions (R273; ≤ 262,144) -/
  code : List (BitVec 64)
  /-- tensor table (R308; 1 to 256) -/
  tensors : List TensorEntry
  /-- constant pool entries (R309; ≤ 4,096 × 32 bytes) -/
  pool : List (List (BitVec 8))
  /-- default run seed (R313; 64) -/
  seed : Nat
  /-- status block address (R257; 56) -/
  status : Nat
  /-- output_dim (R170; 16) -/
  outputDim : Nat
  /-- max_batch (R171; 16) -/
  maxBatch : Nat
  /-- bucket lengths (R171; ≤ 8) -/
  buckets : List Nat
  /-- max_cycles (R320; 33) -/
  maxCycles : Nat
  /-- collection it is bound to (R319; 16) -/
  bound : Option Nat
  /-- payloads to rerank (R319; 1) -/
  bindPayloads : Bool
  /-- first T1 address of its program area (R307; 48) -/
  base : Nat
  /-- T1 bytes taken: code, data, status block, save areas (R307; bytes) -/
  bytes : Nat
  deriving DecidableEq, Repr

/-- A buffer register (R276): 160 bits. -/
structure BufReg where
  /-- local byte address (R276; 24) -/
  base : Nat
  /-- format code (R214; 4) -/
  fmt : Nat
  /-- row stride in elements (R276; 32) -/
  stride : Nat
  /-- binary32 scale (R209; 32) -/
  scale : BitVec 32
  /-- element index origin (R300; 64) -/
  origin : Nat
  deriving DecidableEq, Repr

/-- An accumulator tile with its tile state (R230 to R233, R287). -/
structure Tile where
  /-- accumulators, row by row, as integers (R231; 256 × 128) -/
  acc : List Int
  /-- NaR bits (R232; 256) -/
  nar : List Bool
  /-- term counter (R232; 25) -/
  terms : Nat
  /-- saturated bit (R235; 1) -/
  saturated : Bool
  /-- recorded scales sA and sB (R287; 2 × 32) -/
  scales : Option (BitVec 32 × BitVec 32)
  deriving DecidableEq, Repr

/-- An entry held by a select unit (R301). -/
structure SelEntry where
  /-- selection key [63:0] (R113; 64) -/
  id : Nat
  /-- selection key [95:64] (R113; 32) -/
  key : Nat
  /-- aux value (R302; 32) -/
  aux : Nat
  deriving DecidableEq, Repr

/-- A select unit (R114 to R116). -/
structure SelUnit where
  /-- capacity n (R301; 7) -/
  cap : Nat
  /-- threshold lies below every entry (R301; 1) -/
  low : Bool
  /-- threshold rank key (R114; 32) -/
  thrKey : Nat
  /-- threshold ID (R114; 64) -/
  thrId : Nat
  /-- held entries, ascending (R114; ≤ 64) -/
  held : List SelEntry
  /-- NaR counter (R115; 32) -/
  narCount : Nat
  /-- distinct entries of the stream above the threshold that are not held (R116; key, id) -/
  seen : List (Nat × Nat)
  deriving DecidableEq, Repr

/-- One level of the loop stack (R277). -/
structure LoopLevel where
  /-- iterations left (R277; 32) -/
  left : Nat
  /-- first instruction of the body (R277; 18) -/
  start : Nat
  /-- one past the last instruction of the body (R277; 18) -/
  stop : Nat
  deriving DecidableEq, Repr

/-- What a virtual core waits for (R279, R281, R282). -/
inductive Wait where
  | bar (scope : Nat)
  | round
  | bulk
  | tag (t : Nat)
  | ending
  deriving DecidableEq, Repr

/-- A virtual core's program-visible state (chapter 9). -/
structure VCore where
  /-- virtual core index v (R261; 16) -/
  idx : Nat
  /-- scalar registers (chapter 9; 16 × 32) -/
  s : List (BitVec 32)
  /-- buffer registers (R276; 16 × 160) -/
  bufs : List BufReg
  /-- accumulator tiles (R231; 32 tiles) -/
  tiles : List Tile
  /-- loop stack, innermost first (R277; ≤ 4) -/
  loops : List LoopLevel
  /-- select unit (R301; -) -/
  sel : SelUnit
  /-- index of the next instruction (R305; 18) -/
  pc : Nat
  /-- what it waits for (R268; -) -/
  wait : Option Wait
  /-- has executed END (R282; 1) -/
  ended : Bool
  /-- core memory (R265; 256 KiB) -/
  mem : List Host.Cell
  /-- barriers of each scope it has reached (R279; 4 counts) -/
  bars : List Nat
  /-- cluster cycle, counted from its start, from which its next instruction may issue: a lower bound on the cycles it has taken (R320; cycles) -/
  cycles : Nat
  /-- cycle from which each of its six units accepts an instruction: scalar, matrix, output, vector, select, mover interface (R268; 6 × cycles) -/
  units : List Nat
  /-- index of the first of its instructions that set a flag; 0xFFFF_FFFF for none (R258; 32) -/
  firstFlag : Nat
  deriving DecidableEq, Repr

/-- A MOVE or SCAN in flight (R270, R283, R285). -/
structure Transfer where
  /-- number (R272; index) -/
  tid : Nat
  /-- virtual core (R283; 16) -/
  vcore : Nat
  /-- mover tag (R282; 4) -/
  tag : Nat
  /-- SCAN (R285; 1) -/
  scan : Bool
  /-- source tensor (R283; 64 bytes) -/
  src : TensorDesc
  /-- destination tensor (R283; 64 bytes) -/
  dst : TensorDesc
  /-- extents (R310; 4 × 32) -/
  extent : List Nat
  /-- source origin, register offsets added (R310; 4 × 32) -/
  srcOrigin : List Nat
  /-- destination origin, register offsets added (R310; 4 × 32) -/
  dstOrigin : List Nat
  /-- local read range: first and last byte (R270; byte ranges) -/
  reads : List (Nat × Nat)
  /-- local write range (R270; byte ranges) -/
  writes : List (Nat × Nat)
  /-- bytes of the scan job (R285; scan job) -/
  job : List (BitVec 8)
  /-- its T2 bulk transfers, once launched (R387; transfer_ids) -/
  flown : Option (List Nat)
  deriving DecidableEq, Repr

/-- A histogram record of an output (R259). -/
structure Hist where
  /-- output_index (R259; 16) -/
  output : Nat
  /-- format code (R259; 8) -/
  fmt : Nat
  /-- elements written (R259; 64) -/
  elements : Nat
  /-- bins (R259; 64 × 32) -/
  bins : List Nat
  /-- zero (R259; 32) -/
  zero : Nat
  /-- flushed (R259; 32) -/
  flushed : Nat
  /-- saturated (R259; 32) -/
  saturated : Nat
  /-- nar (R259; 32) -/
  nar : Nat
  deriving DecidableEq, Repr

/-- Why a run executes: a RUN_PROGRAM command, an embedding batch, or a query's rerank (R320). -/
inductive RunFor where
  | command (cid : Nat)
  | embed (cid first count : Nat)
  | rerank (cid member : Nat)
  deriving DecidableEq, Repr

/-- One invocation of a program (R312 to R322). -/
structure Run where
  /-- number (R314; index) -/
  rid : Nat
  /-- program (R312; 32) -/
  handle : Nat
  /-- what it runs for (R320; -) -/
  why : RunFor
  /-- run seed (R313; 64) -/
  seed : Nat
  /-- arguments by slot (R312; ≤ 16) -/
  args : List (Nat × TensorDesc)
  /-- teams placed and their clusters (R262; team, cluster) -/
  teams : List (Nat × Nat)
  /-- teams whose virtual cores have all ended (R263; teams) -/
  teamsDone : List Nat
  /-- virtual cores started (R261; ≤ 65,536) -/
  cores : List VCore
  /-- cluster memory of each team, at its local addresses (R265; 8 MiB per team) -/
  shared : List (Nat × List Host.Cell)
  /-- transfers in flight (R272; -) -/
  moves : List Transfer
  /-- next transfer number (R272; index) -/
  nextTid : Nat
  /-- OUT_SAT, OUT_NAR, ACC_RANGE, ACC_LOW (R258; 4 bits) -/
  flags : Nat
  /-- elements_written (R258; 64) -/
  elements : Nat
  /-- histogram records (R259; ≤ 64) -/
  hists : List Hist
  /-- output bytes written (R317; bytes) -/
  wrote : Nat
  /-- number of the free draw of what earlier occupants left in its local memory (log 2) (R267; free value) -/
  fill : Nat
  /-- fault code, instruction index, virtual core (R305; 3 words) -/
  fault : Option (Nat × Nat × Nat)
  /-- stopped by an uncorrectable word (R306; 1) -/
  medium : Bool
  /-- its status block has been cleared (R257; 1) -/
  cleared : Bool
  /-- teams whose state lies in the program's save area, and the slot of each there (R315; team, slot) -/
  saved : List (Nat × Nat)
  /-- group barriers at which every virtual core here has arrived (R279; count) -/
  announced : Nat
  deriving DecidableEq, Repr

/-- A submission ring (R488, R489). -/
structure SubRing where
  /-- ring number (R499; 8) -/
  num : Nat
  /-- base (R488; 47) -/
  base : Nat
  /-- entries (chapter 14; 17) -/
  size : Nat
  /-- class: 0 High, 1 Normal, 2 Low, 3 Bulk (R509; 2) -/
  cls : Nat
  /-- completion ring it is bound to (R497; 8) -/
  cq : Nat
  /-- head (R489; 16) -/
  head : Nat
  /-- tail last read (R489; 16) -/
  tail : Nat
  /-- its tail word holds an invalid value (R504; 1) -/
  badWord : Bool
  /-- being deleted, or admin_enable cleared: fetches nothing (R501; 1) -/
  stopped : Bool
  /-- seq of the RING_DELETE to answer (R501; 32) -/
  deleteMsg : Option Nat
  /-- positions of unfetched descriptors that an ABORT has marked (R516; positions) -/
  doomed : List Nat
  /-- tags of the most recently completed commands, newest first (R517; ≤ 1,024 × 32) -/
  recent : List Nat
  /-- descriptors fetched since creation (R489; count) -/
  fetches : Nat
  deriving DecidableEq, Repr

/-- A completion ring (R494 to R498). -/
structure CmpRing where
  /-- ring number (R499; 8) -/
  num : Nat
  /-- base (R488; 47) -/
  base : Nat
  /-- entries (chapter 14; 17) -/
  size : Nat
  /-- MSI-X vector (R478; 6) -/
  vector : Nat
  /-- coalesce_count (R498; 16) -/
  count : Nat
  /-- coalesce_time (R498; µs) -/
  time : Nat
  /-- write position (R494; 16) -/
  wpos : Nat
  /-- phase of the present pass (R494; 1) -/
  phase : Bool
  /-- driver's head last read (R497; 16) -/
  head : Nat
  /-- entries written and not yet freed (R497; 17) -/
  used : Nat
  /-- entries not yet signalled (R498; 17) -/
  unsignalled : Nat
  /-- group time of the oldest unsignalled entry (R498; 64) -/
  since : Nat
  /-- its head word holds an invalid value (R504; 1) -/
  badWord : Bool
  deriving DecidableEq, Repr

/-- A staged completion record (R528). -/
structure Staged where
  /-- completion entry with its ring word, phase 0 (R528; 32 bytes) -/
  entry : List (BitVec 8)
  /-- completion ring (R528; 8) -/
  cq : Nat
  /-- group time of staging (R528; 64) -/
  time : Nat
  deriving DecidableEq, Repr

/-- The status and words of a completion entry before its ring word (chapter 15). -/
structure Result where
  /-- status code (R556; 8) -/
  status : Nat
  /-- detail (R535; 8) -/
  detail : Nat
  /-- runtime fault code (R305; 8) -/
  fault : Nat
  /-- word_a (R555; 32) -/
  a : Nat
  /-- word_b (R555; 64) -/
  b : Nat
  /-- word_c (R555; 64) -/
  c : Nat
  deriving DecidableEq, Repr

/-- A mailbox message from the device that waits for its place in the page (R577, R583). -/
structure OutMsg where
  /-- type (chapter 16; 16) -/
  type : Nat
  /-- seq of the request; 0 when unsolicited (chapter 16; 32) -/
  replyTo : Nat
  /-- result code (R582; 16) -/
  status : Nat
  /-- [0] reply, [1] unsolicited (chapter 16; 16) -/
  flags : Nat
  /-- body (chapter 16; bytes) -/
  body : List (BitVec 8)
  deriving DecidableEq, Repr

/-- A mailbox message that awaits its reply (R578). -/
structure Await where
  /-- its seq (R578; 32) -/
  seq : Nat
  /-- its type (R580; 16) -/
  type : Nat
  /-- component or processor that owns it (R569; 8) -/
  owner : Nat
  deriving DecidableEq, Repr

/-- An error record (R651). -/
structure ErrRec where
  /-- record_seq (R651; 32) -/
  seq : Nat
  /-- code (chapter 19; 16) -/
  code : Nat
  /-- severity (R652; 8) -/
  severity : Nat
  /-- flags (R651; 8) -/
  flags : Nat
  /-- group_time (R651; 64) -/
  time : Nat
  /-- unit_kind (R651; 8) -/
  unitKind : Nat
  /-- depth (R657; 8) -/
  depth : Nat
  /-- unit (R651; 16) -/
  unit : Nat
  /-- overflow (R654; 32) -/
  overflow : Nat
  /-- address (R651; 64) -/
  address : Nat
  /-- tag (R651; 32) -/
  tag : Nat
  /-- ring (R651; 8) -/
  ring : Nat
  /-- collection (R651; 16) -/
  collection : Nat
  /-- number of the free draw that its detail bytes take (R651; counter) -/
  free : Nat
  /-- page of an uncorrectable word, in the first two of its detail bytes (DESIGN CHOICE, log 102) (R378; 15) -/
  page : Option Nat
  /-- its ERROR_REPORT has been sent (R653; 1) -/
  reported : Bool
  deriving DecidableEq, Repr

/-- The recovery depth of a unit (R657). -/
structure UnitDepth where
  /-- unit_kind (R656; 8) -/
  kind : Nat
  /-- unit (R656; 16) -/
  unit : Nat
  /-- depth (R657; 2) -/
  depth : Nat
  /-- its recovery has ended; the 1 s after it runs (chapter 19; 1) -/
  ended : Bool
  deriving DecidableEq, Repr

/-- Where a firmware component or processor stands (R561 to R564). -/
inductive FwState where
  | up
  | restarting
  | kioskRestarting
  | heldForLodge
  deriving DecidableEq, Repr

/-- A kiosk component (chapter 16's component table). -/
structure Component where
  /-- its kiosk (chapter 16; 3) -/
  kiosk : Nat
  /-- up, restarting, in a kiosk restart, or held for the lodge (R561; -) -/
  state : FwState
  /-- within 1 s of the end of its restart (R562; 1) -/
  within1s : Bool
  /-- on the staged image during an activation (R593; 1) -/
  moved : Bool
  deriving DecidableEq, Repr

/-- One entry of a journal part (chapter 11, the INSERT, DELETE and SET_ATTR entries). -/
structure JEntry where
  /-- vector ID (chapter 11; 64) -/
  id : Nat
  /-- attribute word, of INSERT and SET_ATTR (chapter 11; 64) -/
  attr : Nat
  /-- partition; of DELETE and SET_ATTR that of the old slot (chapter 11; 20) -/
  part : Nat
  /-- slot index within the partition; of DELETE and SET_ATTR the old slot (chapter 11; 32) -/
  slot : Nat
  /-- fullvec_ref of an INSERT (chapter 11; 48) -/
  fullRef : Nat
  /-- payload_ref of an INSERT; 0 for none (chapter 11; 48) -/
  payloadRef : Nat
  /-- payload_len of an INSERT (chapter 11; 16) -/
  payloadLen : Nat
  /-- of an INSERT: what the index area holds at its two references, the full vector and the sealed payload record (R174, R165; d codes, ≤ 4,096) -/
  stored : Option Slot
  deriving DecidableEq, Repr

/-- One journal part (chapter 11). -/
structure Journal where
  /-- mutation_id (chapter 11; 64) -/
  mutationId : Nat
  /-- collection (chapter 11; 16) -/
  coll : Nat
  /-- host tag (chapter 11; 32) -/
  tag : Nat
  /-- ring (chapter 11; 8) -/
  ring : Nat
  /-- 0 insert, 1 delete, 2 set-attr, 3 publish, 4 counters, 5 abandon (chapter 11; 8) -/
  kind : Nat
  /-- ATOMIC (chapter 11; 1) -/
  atomic : Bool
  /-- last part (chapter 11; 1) -/
  last : Bool
  /-- entries in the batch (chapter 11; 32) -/
  batch : Nat
  /-- part number (R183; count) -/
  index : Nat
  /-- first_entry (chapter 11; 32) -/
  first : Nat
  /-- entry_count (chapter 11; 32) -/
  count : Nat
  /-- generation written against (chapter 11; 32) -/
  gen : Nat
  /-- commit_seq, 0 but in the last part (chapter 11; 64) -/
  seq : Nat
  /-- all its sectors are programmed (R404; 1) -/
  onMedium : Bool
  /-- its part_crc holds (R404; 1) -/
  crcGood : Bool
  /-- sectors it takes (R404; count) -/
  sectors : Nat
  /-- its entries (chapter 11; entry_count) -/
  entries : List JEntry
  /-- its mutation had completed (R188; 1) -/
  done : Bool
  deriving DecidableEq, Repr

/-- A splice table entry (R381 to R384). -/
structure Splice where
  /-- entry number (chapter 11; 10) -/
  num : Nat
  /-- stack (chapter 11; 3) -/
  stack : Nat
  /-- pseudo-channel (chapter 11; 9) -/
  channel : Nat
  /-- first page of the run (chapter 11; 15) -/
  first : Nat
  /-- pages in the run (chapter 11; 7) -/
  pages : Nat
  /-- 0 FREE, 1 COPYING, 2 ARMED, 3 ACTIVE (chapter 11; 2) -/
  state : Nat
  /-- bytes copied (R382; bytes) -/
  copied : Nat
  /-- old run handed to the repair (R384; 1) -/
  released : Bool
  /-- the copy runs back to the original run (R672; 1) -/
  back : Bool
  /-- made by page retirement (R379; 1) -/
  retire : Bool
  /-- HBM_REPAIR action that made it; 0 for the memory service or retirement (R670; 8) -/
  repair : Nat
  /-- its repair action has ended (R672; 1) -/
  ended : Bool
  /-- seq of the HBM_REPAIR to answer (R670; 32) -/
  msg : Option Nat
  /-- maintenance slots its post-package repair still takes (R671; 7) -/
  maint : Nat
  /-- row of a post-package repair under way (R671; 32) -/
  ppr : Option Nat
  deriving DecidableEq, Repr

/-- A hawser port (chapter 12). -/
structure Port where
  /-- 0 DOWN, 1 TRAINING, 2 LOCKED, 3 MEASURED, 4 TIMED (R420; 3) -/
  state : Nat
  /-- lanes enabled by GROUP_JOIN or its earlier state (R420; 1) -/
  enabled : Bool
  /-- far end matches the port map (R421; 1) -/
  hello : Bool
  /-- round trips of its last TIME_SYNC exchanges (R422; ≤ 64 × ticks/16) -/
  trips : List Nat
  /-- its measured one-way delay (R422; ticks/16) -/
  delay : Nat
  /-- tx_time of the last TIME_SYNC sent (R437; 64) -/
  syncSent : Nat
  /-- lost blocks in this round (R422; 5) -/
  lost : Nat
  /-- nack_seq of the next blocks it sends: each lost block's block_seq four times, in order of loss (R425; block_seq) -/
  nacks : List Nat
  /-- the flits of the blocks sent in this round's link slots that are not idle (R425; block_seq, place, flit) -/
  kept : List (Nat × Nat × Flit)
  /-- flits resent in the last replay slot (the model's record of an output, log 4) (R426; -) -/
  resent : List Flit
  /-- bulk flits to resend in the next bulk slots, ahead of newer ones (R428; -) -/
  again : List Flit
  /-- tx_time of the last TIME_SYNC received (chapter 12; 64) -/
  lastTx : Nat
  /-- its arrival time (chapter 12; 64) -/
  lastRx : Nat
  /-- round from which it is TIMED again (R455; 64) -/
  timedAt : Option Nat
  /-- far module of the port map (chapter 16; 16) -/
  farModule : Nat
  /-- far port of the port map (chapter 16; 8) -/
  farPort : Nat
  /-- used by the port map (chapter 16; 1) -/
  used : Bool
  /-- waits 1 s to train again (R420; 1) -/
  retry : Bool
  deriving DecidableEq, Repr

/-- A QSFP-DD cage (R413, R414). -/
structure Cage where
  /-- a module is present (R414; 1) -/
  module : Bool
  /-- its CMIS identifier as read (R413; 8) -/
  ident : Nat
  /-- its advertised power class (R414; 4) -/
  powerClass : Nat
  /-- lane status as read (R413; 8) -/
  lanes : Nat
  /-- module temperature as read (R413; 16) -/
  temp : Nat
  /-- transmit power of each lane as read (R413; 8 × 16) -/
  txPower : List Nat
  /-- receive power of each lane as read (R413; 8 × 16) -/
  rxPower : List Nat
  /-- per-lane transmitter disable as written (R413; 8) -/
  txDisable : Nat
  /-- Application Select of the data path as written (R413; 4) -/
  appSelect : Nat
  /-- held in low-power mode (R413; 1) -/
  lowPower : Bool
  deriving DecidableEq, Repr

/-- A control message (chapter 12). -/
structure Ctrl where
  /-- type (chapter 12; 8) -/
  type : Nat
  /-- flags[0] (chapter 12; 1) -/
  groupWide : Bool
  /-- module index of the sender (chapter 12; 16) -/
  origin : Nat
  /-- msg_seq (R436; 32) -/
  seq : Nat
  /-- sent_round (chapter 12; 64) -/
  sent : Nat
  /-- body (chapter 12; 16 bytes) -/
  body : List (BitVec 8)
  /-- port it arrived on; 255 for its own (R436; 8) -/
  inPort : Nat
  deriving DecidableEq, Repr

/-- A fan-out, return or bulk transfer held for forwarding, sending or consuming (R342, R434). -/
structure Hop where
  /-- slot kind: 1 fan-out, 2 return, 3 bulk (chapter 10; 3) -/
  slot : Nat
  /-- port it arrived on; 255 when this module originates it (R433; 8) -/
  inPort : Nat
  /-- round in which it was received or made (R342; 64) -/
  round : Nat
  /-- the transfer (R418; bytes) -/
  flow : Flow
  /-- its flits that earlier slots have sent (R460; 16) -/
  gone : Nat
  deriving DecidableEq, Repr

/-- Flits of a lost block of this round (R425, R426). -/
structure Lost where
  /-- port (R426; 3) -/
  port : Nat
  /-- block_seq (R425; 16) -/
  seq : Nat
  /-- the flit, with what its transfer or its messages bring (R426; 256 bytes) -/
  flit : Flit
  deriving DecidableEq, Repr

/-- A scan or refine request that this module serves as holder (R338 to R341), of another coordinator or its own. -/
structure Request where
  /-- refine request (R340; 1) -/
  refine : Bool
  /-- coordinating module (R339; 16) -/
  coord : Nat
  /-- its place in the coordinator's admission order (R339; 64) -/
  order : Nat
  /-- the coordinator's number of the query (R341; 32) -/
  query : Nat
  /-- member (R79; 16) -/
  member : Nat
  /-- collection (R338; 16) -/
  coll : Nat
  /-- round whose fan-out slot delivered it (R339; 64) -/
  round : Nat
  /-- number under which the lanes serve it once accepted; 0 before (R339; command id) -/
  served : Nat
  /-- the query as this module knows it (R338; -) -/
  work : QueryWork
  deriving DecidableEq, Repr

/-- A placement move that this module knows of (R448). -/
structure MoveOp where
  /-- collection (R448; 16) -/
  coll : Nat
  /-- partition (R448; 20) -/
  part : Nat
  /-- new epoch e + 1 (R448; 32) -/
  epoch : Nat
  /-- module A (R448; 16) -/
  src : Nat
  /-- module B (R448; 16) -/
  dst : Nat
  /-- r_open (R448; 64) -/
  opens : Nat
  /-- r_both (R448; 64) -/
  bothAt : Option Nat
  /-- r_close (R448; 64) -/
  closes : Option Nat
  /-- the copy is complete (R448; 1) -/
  copied : Bool
  /-- the largest N_drain of the images active since r_open (R448; rounds) -/
  drain : Nat
  /-- seq of the UPKEEP to answer (R580; 32) -/
  msg : Option Nat
  /-- A has put its copy on its way to B (R448; 1) -/
  sent : Bool
  /-- A's copy has come to B (R448; 1) -/
  came : Bool
  deriving DecidableEq, Repr

/-- A loan of HBM (R385, R386, R459). -/
structure Loan where
  /-- window at the borrower (R386; 4) -/
  window : Nat
  /-- GiB (R386; 16) -/
  gib : Nat
  /-- other module (R459; 16) -/
  peer : Nat
  /-- this module borrows (R459; 1) -/
  borrow : Bool
  /-- its window is open (R723; 1) -/
  opened : Bool
  /-- round the grant names (R459; 64) -/
  start : Option Nat
  /-- round at which it closes (R388; 64) -/
  stop : Option Nat
  /-- seq of the LEND_MEMORY to answer (R580; 32) -/
  msg : Option Nat
  /-- at the lender: the spread regions lent, consecutive (R385; ≤ 256) -/
  regions : List Nat
  deriving DecidableEq, Repr

/-- A slot record (chapter 10). -/
structure TtSlot where
  /-- slot kind (chapter 10; 8) -/
  kind : Nat
  /-- ports (chapter 10; 8) -/
  ports : Nat
  /-- start_tick (R328; 32) -/
  start : Nat
  /-- length_ticks (R328; 32) -/
  len : Nat
  /-- transfer list entries: src, dst, first, count, out, in, hop (R433; entries) -/
  list : List (List Nat)
  deriving DecidableEq, Repr

/-- A window record (chapter 10). -/
structure TtWindow where
  /-- 0 ingest, 1 upkeep, 2 rerank, 3 general (R332; 8) -/
  kind : Nat
  /-- prewake_ticks; 0 for none (R333; 16) -/
  prewake : Nat
  /-- first_round (chapter 10; 32) -/
  first : Nat
  /-- rounds (chapter 10; 32) -/
  rounds : Nat
  /-- clusters (R332; 64 bits) -/
  clusters : List Nat
  deriving DecidableEq, Repr

/-- A plan record (chapter 10). -/
structure TtPlan where
  /-- c_stack (chapter 10; 32) -/
  cStack : Nat
  /-- n_scan (chapter 10; 16) -/
  nScan : Nat
  /-- n_rr (chapter 10; 16) -/
  nRr : Nat
  /-- refine_reads (R85; 32) -/
  refineReads : Nat
  /-- admit_quota (R75; 32) -/
  admitQuota : Nat
  /-- rerank_capacity (R86; 32) -/
  rerankCap : Nat
  /-- wait limits; 0xFFFF for none (R77; 4 × 16) -/
  wait : List Nat
  /-- bulk_bytes (R151; 32) -/
  bulk : Nat
  deriving DecidableEq, Repr

/-- A timetable image (chapter 10). -/
structure Timetable where
  /-- timetable_id; 0 for the built-in default (chapter 10; 64) -/
  ident : Nat
  /-- group of one (chapter 10; 1) -/
  single : Bool
  /-- group_size (chapter 10; 16) -/
  size : Nat
  /-- max_hops h (chapter 10; 8) -/
  hops : Nat
  /-- round_ticks (R324; 32) -/
  ticks : Nat
  /-- cycle_rounds (chapter 10; 32) -/
  cycle : Nat
  /-- slot records (R327; 2 to 64) -/
  slots : List TtSlot
  /-- window records (R332; ≤ 1,024) -/
  windows : List TtWindow
  /-- full plan (chapter 10; 64 bytes) -/
  full : TtPlan
  /-- lean plan (chapter 10; 64 bytes) -/
  lean : TtPlan
  /-- share table (chapter 10; size × size) -/
  shares : List (List Nat)
  deriving DecidableEq, Repr

/-- A block of the flash medium (R401). -/
structure FlashBlock where
  /-- its number (R401; the model's) -/
  num : Nat
  /-- reads since its last program (R401; 17) -/
  reads : Nat
  /-- group time of its last program (R401; 64) -/
  programmed : Nat
  /-- group time of its last patrol read (R401; 64) -/
  patrolled : Nat
  /-- erase count (R401; count) -/
  erases : Nat
  /-- it is erased and holds nothing (R401; 1) -/
  erased : Bool
  deriving DecidableEq, Repr

/-- What is kept of an image that a seamless switch ended, for the queries admitted under it (R345, R351). -/
structure Former where
  /-- the round from which its cycle counted (R323; 64) -/
  base : Nat
  /-- the switch round that ended it (R349; 64) -/
  last : Nat
  /-- its window records (R332; ≤ 1,024) -/
  windows : List TtWindow
  /-- its full plan (chapter 10; 64 bytes) -/
  full : TtPlan
  /-- its lean plan (chapter 10; 64 bytes) -/
  lean : TtPlan
  deriving DecidableEq, Repr

/-- A live import key (R605). -/
structure ImportKey where
  /-- import_key_id (R605; 32) -/
  kid : Nat
  /-- number of its free draw (R605; free value) -/
  secret : Nat
  deriving DecidableEq, Repr

/-- A measurement log entry (R602). -/
structure LogEntry where
  /-- event (R602; 16) -/
  event : Nat
  /-- component (R602; 16) -/
  comp : Nat
  /-- version (R602; 32) -/
  version : Nat
  /-- SM3 digest (R602; 32 bytes) -/
  digest : List (BitVec 8)
  deriving DecidableEq, Repr

/-- A configuration record with its two copies (R673). -/
structure CfgRecord where
  /-- record number (chapter 19; 16) -/
  num : Nat
  /-- seq of copy A (R673; 64) -/
  seqA : Nat
  /-- seq of copy B (R673; 64) -/
  seqB : Nat
  /-- copy A is valid (R673; 1) -/
  validA : Bool
  /-- copy B is valid (R673; 1) -/
  validB : Bool
  /-- body of copy A (R673; ≤ 1 MiB) -/
  bodyA : List (BitVec 8)
  /-- body of copy B (R673; ≤ 1 MiB) -/
  bodyB : List (BitVec 8)
  deriving DecidableEq, Repr

/-- A recovery report entry (R686). -/
structure ReportEntry where
  /-- 0 mutation, 1 STORE_WRITE, 2 STORE_TRIM (chapter 19; 8) -/
  kind : Nat
  /-- ring (chapter 19; 8) -/
  ring : Nat
  /-- collection (chapter 19; 16) -/
  coll : Nat
  /-- tag (chapter 19; 32) -/
  tag : Nat
  /-- batch_entries (chapter 19; 32) -/
  batch : Nat
  /-- entries_committed (R186; 32) -/
  committed : Nat
  /-- commit_seq, all ones for none (R186; 64) -/
  seq : Nat
  /-- first_sector (R407; 64) -/
  first : Nat
  /-- sector_count (R407; 32) -/
  count : Nat
  /-- unit_sectors (R397; 16) -/
  units : Nat
  /-- sectors_trimmed (R687; 32) -/
  trimmed : Nat
  /-- atomic units that hold new content (R407; 512 bits) -/
  bitmap : List Nat
  /-- mutation_id by which replay finds it (R406; 64) -/
  mutationId : Nat
  /-- it had written a part or issued a sector, so the report lists it (R686; 1) -/
  listed : Bool
  deriving DecidableEq, Repr

/-- The recovery report (R685). -/
structure Report where
  /-- cause (R685; 8) -/
  cause : Nat
  /-- boot_count (R604; 32) -/
  boot : Nat
  /-- mutations_replayed (R685; 64) -/
  replayed : Nat
  /-- entries still held (R686; -) -/
  entries : List ReportEntry
  deriving DecidableEq, Repr

/-- A query's entry in a lane pass (chapter 5). -/
structure PassEntry where
  /-- query (R134; command id) -/
  cmd : Nat
  /-- member (R134; 16) -/
  member : Nat
  /-- pass index j (R93; 16) -/
  index : Nat
  /-- device address in cluster memory of its result block (R134; 48) -/
  resultAddr : Nat
  /-- its pass image: lookup table or query vector, then allow-lists, each padded to 64 bytes (R137; ≤ 147,456 bytes) -/
  image : List (BitVec 8)
  /-- table_offset: where its image begins in the lane's table memory (R134; 32) -/
  offset : Nat
  /-- tombstone bits of the partition's slots that R61 chooses for its snapshot, which the lane's tombstone buffer takes in turn (R136; slot_total bits) -/
  window : List (BitVec 8)
  /-- its predicates in the predicate store (R131; ≤ 8) -/
  preds : List Predicate
  deriving DecidableEq, Repr

/-- A pass queued on or running in a trellis lane (R138, R149). -/
structure LanePass where
  /-- lane (R131; 9) -/
  lane : Nat
  /-- collection (chapter 5; 16) -/
  coll : Nat
  /-- generation (chapter 5; 32) -/
  gen : Nat
  /-- partition (chapter 5; 20) -/
  part : Nat
  /-- queries of the pass (R149; 1 to 8) -/
  entries : List PassEntry
  /-- its place in its lane's queue (R83; index) -/
  order : Nat
  /-- the lane has begun it (R138; 1) -/
  started : Bool
  /-- paused for a refresh or retraining step (R152; 1) -/
  paused : Bool
  /-- splice switches it spans (R384; entries) -/
  splices : List Nat
  /-- program scan it serves (R285; run, transfer) -/
  program : Option (Nat × Nat)
  /-- job_id (R134; 32) -/
  job : Nat
  /-- segment list: device addresses of the segments named, ascending by first_slot (R136; ≤ 65,535 × 48) -/
  segs : List Nat
  /-- its images lie in table memory: it is open to no more queries (R137, R149; 1) -/
  filled : Bool
  /-- lane set: the lanes of its job (R149; ≤ 64) -/
  lanes : List Nat
  /-- segment_list: device address of the segment list (R134; 48) -/
  listAddr : Nat
  /-- of a bulk job: bytes that its bulk passes have read (R151; bytes) -/
  bulkRead : Nat
  deriving DecidableEq, Repr

/-- A 1 GiB region of HBM in use (R372). -/
structure Region where
  /-- region number r (R372; 10) -/
  num : Nat
  /-- the stack it is local to; none where it is spread (R372; 3) -/
  stack : Option Nat
  /-- places of its share in the pseudo-channels, 2 MiB each: of a stack-local region the eight of its stack, of a spread one that of each stack (R375; 8 × 10) -/
  units : List Nat
  deriving DecidableEq, Repr

/-- The scan, refine and rerank ledgers (chapter 3). -/
structure Ledgers where
  /-- committed bytes of each stack; reset 0 (R81) (R81; 8 × bytes) -/
  scan : List Nat
  /-- sector reads charged to each round; reset none (R85) (R85; round, reads) -/
  refine : List (Nat × Nat)
  /-- bytes of bulk passes begun on each stack in this round; reset 0 (R151; 8 × bytes) -/
  bulk : List Nat
  /-- candidates charged to the rerank window that opens in each round; reset none (R86) (R86; round, candidates) -/
  rerank : List (Nat × Nat)
  /-- queries admitted in this round; reset 0 (R75; 32) -/
  admitted : Nat
  /-- charges accepted for each coordinator, oldest first: the place is a stack, or 8 + a round of the refine ledger; reset none (R339; coordinator, place, amount) -/
  shares : List (Nat × Nat × Nat)
  deriving DecidableEq, Repr

/-- Ledgers after reset, field by field as INVENTORY.md lists it. -/
def Ledgers.initial : Ledgers where
  scan := List.replicate 8 0
  refine := []
  bulk := List.replicate 8 0
  rerank := []
  admitted := 0
  shares := []


/-- The component table of chapter 16, in its order: ring service, mailbox service, store service 0, memory service,
fabric service, program loader, store service 1, ingest service, log service; with each one's kiosk. -/
def Component.initialTable : List Component :=
  [0, 0, 1, 2, 3, 4, 5, 6, 7].map fun k => ⟨k, .up, false, false⟩

/-- A port DOWN, as at reset (R420). -/
def Port.down : Port :=
  { state := 0, enabled := false, hello := false, trips := [], delay := 0, syncSent := 0, lost := 0, nacks := [], kept := []
    resent := [], again := [], lastTx := 0, lastRx := 0, timedAt := none, farModule := 0, farPort := 0, used := false, retry := false }

/-- A cage with no module in it. -/
def Cage.empty : Cage :=
  { module := false, ident := 0, powerClass := 0, lanes := 0, temp := 0, txPower := [], rxPower := [], txDisable := 255, appSelect := 0
    lowPower := false }

/-- The default timetable, built into the device (R336). -/
def Timetable.builtin : Timetable :=
  { ident := 0, single := true, size := 1, hops := 0, ticks := 12500, cycle := 40
    slots := [⟨0, 0xFF, 0, 250, []⟩, ⟨1, 0xFF, 250, 2000, []⟩, ⟨2, 0xFF, 2250, 2500, []⟩, ⟨3, 0xFF, 4750, 5500, []⟩,
      ⟨4, 0xFF, 10250, 250, []⟩, ⟨5, 0, 10500, 2000, []⟩]
    windows := [
      ⟨0, 0, 0, 40, [8, 9, 10, 11, 12, 13, 14, 15, 40, 41, 42, 43, 44, 45, 46, 47]⟩,
      ⟨1, 0, 0, 40, [16, 17, 18, 19, 48, 49, 50, 51]⟩,
      ⟨2, 0, 0, 40, [20, 21, 22, 23, 52, 53, 54, 55]⟩,
      ⟨3, 0, 0, 40, [24, 25, 26, 27, 28, 29, 30, 31, 56, 57, 58, 59, 60, 61, 62, 63]⟩]
    full := ⟨72000000, 54, 2, 500, 1024, 4096, [4, 40, 400, 0xFFFF], 4000000⟩
    lean := ⟨36000000, 108, 2, 250, 512, 4096, [4, 40, 400, 0xFFFF], 0⟩
    shares := [] }


/-- The Karulo and operator records of a module as shipped: both copies valid. The spec gives no contents: empty bodies
(log 12). -/
def CfgRecord.shipped : List CfgRecord :=
  [0x0001, 0x0002, 0x0003, 0x0020, 0x0021].map fun n =>
    { num := n, seqA := 1, seqB := 1, validA := true, validB := true, bodyA := [], bodyB := [] }

/-- Group time and rounds (R323, R324). -/
structure Clock where
  /-- group time in ticks of 2 ns; 0 at READY (10, R323; 64 bits) -/
  groupTime : Nat
  /-- round number; 0 at READY (10, R324; 64 bits) -/
  round : Nat
  /-- round at which the timetable in force took effect (10, R324; 64 bits) -/
  baseRound : Nat
  /-- start tick of that round (10, R324; 64 bits) -/
  baseTick : Nat
  deriving DecidableEq, Repr

/-- Clock after reset, field by field as INVENTORY.md lists it. -/
def Clock.initial : Clock where
  groupTime := 0
  round := 0
  baseRound := 0
  baseTick := 0

/-- The PCI Express function's configuration state and pins (chapters 13, 20). -/
structure Pcie where
  /-- link at L0; DESIGN CHOICE 0 at reset (log 3) (13, R647; 1 bit) -/
  linkUp : Bool
  /-- negotiated rate (generation); DESIGN CHOICE 0 (log 3) (13, R462; 4 bits) -/
  rate : Nat
  /-- negotiated width; DESIGN CHOICE 0 (log 3) (13, R462; 6 bits) -/
  width : Nat
  /-- Memory Space Enable; PRESUMED 0, PCI Express (log 3) (13, Configuration space; 1 bit) -/
  memSpace : Bool
  /-- Bus Master Enable; PRESUMED 0, PCI Express (log 3) (13, R483; 1 bit) -/
  busMaster : Bool
  /-- MSI-X Enable; PRESUMED 0, PCI Express (log 3) (13, R479; 1 bit) -/
  msixEnable : Bool
  /-- MSI-X Function Mask; PRESUMED 0, PCI Express (log 3) (13, R479; 1 bit) -/
  funcMask : Bool
  /-- Enable Relaxed Ordering; PRESUMED 1, PCI Express (log 3) (13, R464; 1 bit) -/
  relaxed : Bool
  /-- PTM Enable; PRESUMED 0, PCI Express (log 3) (13, R487; 1 bit) -/
  ptmEnable : Bool
  /-- function in D3hot; PRESUMED D0, PCI Express (log 3) (13, R484; 1 bit) -/
  d3hot : Bool
  /-- PME_Status; PRESUMED 0, PCI Express (log 3) (20, R690; 1 bit) -/
  pmeStatus : Bool
  /-- WAKE# asserted; 0 (R690: deasserted at all other times) (20, R690; 1 bit) -/
  wake : Bool
  /-- an FLR is under way: configuration requests answered with Retry Status; 0 (13, R480; 1 bit) -/
  flrBusy : Bool
  /-- Max_Payload_Size of Device Control; PRESUMED 0 (128 bytes), PCI Express (log 3) (13, R463; 3 bits) -/
  maxPayload : Nat
  /-- Max_Read_Request_Size of Device Control; PRESUMED 2 (512 bytes), PCI Express (log 3) (13, R463; 3 bits) -/
  maxRead : Nat
  /-- 10-Bit Tag Requester Enable; PRESUMED 0, PCI Express (log 3) (13, R463; 1 bit) -/
  tenBit : Bool
  /-- AER Uncorrectable Internal Error status (sticky); PRESUMED 0, PCI Express (log 3) (13, R467; 1 bit) -/
  aerInternal : Bool
  deriving DecidableEq, Repr

/-- Pcie after reset, field by field as INVENTORY.md lists it. -/
def Pcie.initial : Pcie where
  linkUp := false
  rate := 0
  width := 0
  memSpace := false
  busMaster := false
  msixEnable := false
  funcMask := false
  relaxed := true
  ptmEnable := false
  d3hot := false
  pmeStatus := false
  wake := false
  flrBusy := false
  maxPayload := 0
  maxRead := 2
  tenBit := false
  aerInternal := false

/-- The setup registers of BAR0 whose values are stored (chapter 13); HIF_STATUS is computed. -/
structure Regs where
  /-- start-up step; 0x1 (13, HIF_STATUS.startup_step; 4 bits) -/
  step : Nat
  /-- 0 (13, HIF_STATUS.ready; 1 bit) -/
  ready : Bool
  /-- 1 (13, HIF_STATUS.untethered; 1 bit) -/
  untethered : Bool
  /-- 0 (13, HIF_STATUS.shelter; 1 bit) -/
  shelter : Bool
  /-- 0 (13, HIF_STATUS.admin_ready; 1 bit) -/
  adminReady : Bool
  /-- 0 (13, HIF_STATUS.asleep; 1 bit) -/
  asleep : Bool
  /-- 0 until start-up step 2 ends (13, HIF_VERSION.fw_major/minor/patch; 24 bits) -/
  fwVersion : BitVec 24
  /-- 1 (value in force) (13, HIF_CONTROL.sleep_enable; 1 bit) -/
  sleepEnable : Bool
  /-- shadow of sleep_enable; none (13, R471; 1 bit) -/
  sleepShadow : Option Bool
  /-- 0 (13, HIF_CONTROL.admin_enable; 1 bit) -/
  adminEnable : Bool
  /-- 0 (13, HIF_ERROR_LOG; 4 bits) -/
  errLog : BitVec 4
  /-- 0 (13, HIF_ERROR_ADDR; 17 bits) -/
  errAddr : BitVec 17
  /-- 4 (value in force) (13, HIF_DOORBELL_CONTROL.watch_interval; 10 bits) -/
  watch : Nat
  /-- shadow of watch_interval; none (13, R471; 10 bits) -/
  watchShadow : Option Nat
  /-- last value written to watch_interval; 4 (13, R471; 10 bits) -/
  watchWritten : Nat
  /-- 0 (13, HIF_DOORBELL_PAGE; 64 bits) -/
  doorbell : BitVec 64
  /-- 0 (13, HIF_MBOX_TO_DEV; 64 bits) -/
  mboxTo : BitVec 64
  /-- 0 (13, HIF_MBOX_FROM_DEV; 64 bits) -/
  mboxFrom : BitVec 64
  /-- 0 (13, HIF_ADMIN_SQ; 64 bits) -/
  adminSq : BitVec 64
  /-- 0 (13, HIF_ADMIN_CQ; 64 bits) -/
  adminCq : BitVec 64
  /-- 0 (13, HIF_ADMIN_RING; 32 bits) -/
  adminRing : BitVec 32
  /-- the cause: 0x01 power-on (13, HIF_RESET_CAUSE; 8 bits) -/
  cause : BitVec 8
  /-- 0 (13, HIF_SCRATCH; 32 bits) -/
  scratch : BitVec 32
  /-- 0 (13, HIF_PTM_CONTROL.capture_enable; 1 bit) -/
  ptmCapture : Bool
  /-- 10 (value in force) (13, HIF_PTM_CONTROL.period; 8 bits) -/
  ptmPeriod : Nat
  /-- shadow of period; none (13, R471; 8 bits) -/
  ptmShadow : Option Nat
  /-- last value written to period; 10 (13, R471; 8 bits) -/
  ptmWritten : Nat
  /-- 0 (13, HIF_PTM_SEQ; 32 bits) -/
  ptmSeq : BitVec 32
  /-- 0 (13, HIF_PTM_GROUP_TIME; 64 bits) -/
  ptmGroup : BitVec 64
  /-- 0 (13, HIF_PTM_HOST_TIME; 64 bits) -/
  ptmHost : BitVec 64
  /-- lower halves of 64-bit registers held until the upper half is written, by offset; none (13, R470; 32 bits each) -/
  held : List (Nat × BitVec 32)
  deriving DecidableEq, Repr

/-- Regs after reset, field by field as INVENTORY.md lists it. -/
def Regs.initial : Regs where
  step := 1
  ready := false
  untethered := true
  shelter := false
  adminReady := false
  asleep := false
  fwVersion := 0
  sleepEnable := true
  sleepShadow := none
  adminEnable := false
  errLog := 0
  errAddr := 0
  watch := 4
  watchShadow := none
  watchWritten := 4
  doorbell := 0
  mboxTo := 0
  mboxFrom := 0
  adminSq := 0
  adminCq := 0
  adminRing := 0
  cause := 1
  scratch := 0
  ptmCapture := false
  ptmPeriod := 10
  ptmShadow := none
  ptmWritten := 10
  ptmSeq := 0
  ptmGroup := 0
  ptmHost := 0
  held := []

/-- The MSI-X table, pending bits and the messages sent (R478, R479). -/
structure Msix where
  /-- Vector Control mask bits; PRESUMED 1, PCI Express (log 3) (13, R479; 64 × 1) -/
  masked : List Bool
  /-- message address and data of each entry; PRESUMED 0, PCI Express (log 3) (13, BAR0; 64 × 96) -/
  table : List (BitVec 96)
  /-- pending bit array; 0 (13, R479; 64 × 1) -/
  pend : List Bool
  /-- vectors whose message was sent, newest first (the model's record of an output, log 4); none (13, R479; -) -/
  sent : List Nat
  deriving DecidableEq, Repr

/-- Msix after reset, field by field as INVENTORY.md lists it. -/
def Msix.initial : Msix where
  masked := List.replicate 64 true
  table := List.replicate 64 0
  pend := List.replicate 64 false
  sent := []

/-- Rings and fetch arbitration (chapter 14). -/
structure Rings where
  /-- live submission rings; none (14, R488; ≤ 256) -/
  sqs : List SubRing
  /-- live completion rings; none (14, R494; ≤ 256) -/
  cqs : List CmpRing
  /-- class weights: High 64, Normal 16, Low 4, Bulk 1 (14, Fetch arbitration; 4 × 8) -/
  weights : List Nat
  /-- weights for the next arbitration cycle; as weights (14, R509; 4 × 8) -/
  nextWeights : List Nat
  /-- class the arbiter serves; 0 (14, R509; 2 bits) -/
  cls : Nat
  /-- share left to that class; its weight (14, R509; 8 bits) -/
  left : Nat
  /-- ring at which each class's search starts; DESIGN CHOICE 1 (log 5) (14, R509; 4 × 8) -/
  nxt : List Nat
  /-- grant under way; none (14, R509; ring, count) -/
  batch : Option (Nat × Nat)
  /-- outstanding commands, in fetch order; none (14, R492; ≤ 131,072) -/
  cmds : List Cmd
  /-- next command number (the model's own, log 6); DESIGN CHOICE 1 (14, R490; index) -/
  nextCid : Nat
  /-- completions in the completion writer's queue while the ring service restarts, in completion order; none (16, R567; -) -/
  waiting : List (Nat × Result)
  /-- number of the next admitted query (the model's own, log 6); DESIGN CHOICE 1 (03, R83; index) -/
  nextAdmit : Nat
  /-- idle watch intervals counted; 0 (14, R505; 10 bits) -/
  idle : Nat
  deriving DecidableEq, Repr

/-- Rings after reset, field by field as INVENTORY.md lists it. -/
def Rings.initial : Rings where
  sqs := []
  cqs := []
  weights := [64, 16, 4, 1]
  nextWeights := [64, 16, 4, 1]
  cls := 0
  left := 64
  nxt := [1, 1, 1, 1]
  batch := none
  cmds := []
  nextCid := 1
  waiting := []
  nextAdmit := 1
  idle := 0

/-- The tether, staging and the reattach report (R523 to R529). -/
structure Tether where
  /-- tether period; default 1 s (14, R523; ms) -/
  period : Nat
  /-- group time of the last renewal; 0 (14, R529; 64 bits) -/
  last : Nat
  /-- cause of the latest untether; 0 power-on or reset (14, R529; 8 bits) -/
  cause : Nat
  /-- group time of the latest untether; 0 (14, R529; 64 bits) -/
  time : Nat
  /-- shelter mode at untether; 0 (14, R529; 1 bit) -/
  shelterThen : Bool
  /-- last renewal before the latest untether; 0 (14, R529; 64 bits) -/
  lastThen : Nat
  /-- staged completions, oldest first; empty (14, R527; ≤ 65,536) -/
  staging : List Staged
  /-- dropped_count; 0 (14, R527; 32 bits) -/
  dropped : Nat
  /-- retry_count; 0 (14, R529; 32 bits) -/
  retry : Nat
  /-- committed_count; 0 (14, R529; 32 bits) -/
  committed : Nat
  /-- attach_count; 0 (since power-on) (14, R529; 32 bits) -/
  attach : Nat
  /-- stack_id of the host stack; DESIGN CHOICE 0 (log 7) (16, R585; 32 bits) -/
  stackId : Nat
  /-- group time from which the expiry of the lease counts; 0 (16, R570; 64 bits) -/
  since : Nat
  /-- stack_version of the host stack; DESIGN CHOICE 0 (log 7) (16, R585; 32 bits) -/
  stackVer : Nat
  deriving DecidableEq, Repr

/-- Tether after reset, field by field as INVENTORY.md lists it. -/
def Tether.initial : Tether where
  period := 1000
  last := 0
  cause := 0
  time := 0
  shelterThen := false
  lastThen := 0
  staging := []
  dropped := 0
  retry := 0
  committed := 0
  attach := 0
  stackId := 0
  since := 0
  stackVer := 0

/-- The Emnil mailbox (chapter 16). -/
structure Mailbox where
  /-- to_dev_head; 0 (16, R575; 12 bits) -/
  toHead : Nat
  /-- to_dev_tail last read; 0 (16, R575; 12 bits) -/
  toTail : Nat
  /-- from_dev_head last read; 0 (16, R575; 12 bits) -/
  fromHead : Nat
  /-- from_dev_tail; 0 (16, R575; 12 bits) -/
  fromTail : Nat
  /-- seq of the next message from the device; 1 (16, R587; 32 bits) -/
  seqOut : Nat
  /-- messages that await a reply, oldest first; none (16, R578; ≤ 256) -/
  awaiting : List Await
  /-- messages waiting for room in the page from the device, oldest first; none (16, R583; bytes) -/
  queue : List OutMsg
  /-- a mailbox word is inconsistent; 0 (16, R712; 1 bit) -/
  badWord : Bool
  /-- an untethered HELLO was refused: takes none until to_dev_tail reads 0; 0 (16, R579; 1 bit) -/
  refused : Bool
  /-- page and ring reads in a run of failures; none (13, R466; addresses) -/
  readFailed : List Nat
  deriving DecidableEq, Repr

/-- Mailbox after reset, field by field as INVENTORY.md lists it. -/
def Mailbox.initial : Mailbox where
  toHead := 0
  toTail := 0
  fromHead := 0
  fromTail := 0
  seqOut := 1
  awaiting := []
  queue := []
  badWord := false
  refused := false
  readFailed := []

/-- The error queue and recovery depths (chapter 19). -/
structure Errors where
  /-- queued records, oldest first; empty (19, R653; ≤ 64) -/
  queue : List ErrRec
  /-- overflow counter; 0 (19, R654; 32 bits) -/
  overflow : Nat
  /-- records queued since power-on; 0 (19, R651; 32 bits) -/
  seq : Nat
  /-- depths of recovering units; none (19, R657; -) -/
  depths : List UnitDepth
  /-- code of the record that caused shelter mode; 0 for none (19, R660; 16 bits) -/
  shelterCause : Nat
  /-- times of corrected errors within 24 hours of each page; none (11, R377; channel, page, times) -/
  pages : List (Nat × Nat × List Nat)
  /-- time of the last uncorrectable word of each core; none (19, R663; core, time) -/
  coreWords : List (Nat × Nat)
  deriving DecidableEq, Repr

/-- Errors after reset, field by field as INVENTORY.md lists it. -/
def Errors.initial : Errors where
  queue := []
  overflow := 0
  seq := 0
  depths := []
  shelterCause := 0
  pages := []
  coreWords := []

/-- HBM, lending and the splice tables (chapter 11). -/
structure Memory where
  /-- T1 bytes by device address; unlisted reads 0, DESIGN CHOICE (log 8) (11, R361; 1,008 GiB) -/
  hbm : List Host.Cell
  /-- bytes of open T2 windows; unlisted reads 0 (R385) (11, R386; ≤ 256 GiB) -/
  t2 : List Host.Cell
  /-- poisoned 32-byte words, by their first device address; none (11, R378; words) -/
  poison : List Nat
  /-- first device address of the driver region; DESIGN CHOICE 0 (log 8) (11, R370; 48 bits) -/
  regionBase : Nat
  /-- driver region in force, GiB; 8 (11, R370; 7 bits) -/
  regionGib : Nat
  /-- regions in use, with their modes; none: the memory service allocates them (log 91) (11, R372; ≤ 1,008) -/
  regions : List Region
  /-- retirement list in service: pseudo-channel, page; none (11, R379; ≤ 4,096) -/
  retired : List (Nat × Nat)
  /-- pages to be mapped at the next round start; none (11, R379; channel, page, message) -/
  retiring : List (Nat × Nat × Nat)
  /-- splice entries in use; none (11, R381; ≤ 8 × 1,024) -/
  splices : List Splice
  /-- spare data lanes used (2 per pseudo-channel); none (19, HBM repair; channel, used) -/
  lanesSpare : List (Nat × Nat)
  /-- post-package repairs made; none (19, R671; channel, row) -/
  pprUsed : List (Nat × Nat)
  /-- spread regions offered, zeroed; none (11, R385; gib, peer, regions) -/
  offers : List (Nat × Nat × List Nat)
  /-- T2 reads asked of lenders whose data has not come; none (11, R387; transfer_id, window, offset, bytes) -/
  t2Reads : List (Nat × Nat × Nat × Nat)
  /-- loans agreed or asked for; none (11, R386; ≤ 16 windows) -/
  loans : List Loan
  /-- pseudo-channels held in this maintenance slot; none (11, R381; ≤ 8 channels) -/
  held : List Nat
  /-- stacks in self-refresh; DESIGN CHOICE none (log 14) (18, Power domains; ≤ 8 stacks) -/
  selfRefresh : List Nat
  /-- retraining under way and steps done; none (11, R381; channel, steps) -/
  retraining : List (Nat × Nat)
  /-- pseudo-channels whose hold in this maintenance slot serves the self-test; none (19, R679; pseudo-channels) -/
  testHeld : List Nat
  /-- pseudo-channels being refreshed; none (05, R152; channels) -/
  refreshing : List Nat
  deriving DecidableEq, Repr

/-- Memory after reset, field by field as INVENTORY.md lists it. -/
def Memory.initial : Memory where
  hbm := []
  t2 := []
  poison := []
  regionBase := 0
  regionGib := 8
  regions := []
  retired := []
  retiring := []
  splices := []
  lanesSpare := []
  pprUsed := []
  offers := []
  t2Reads := []
  loans := []
  held := []
  selfRefresh := []
  retraining := []
  testHeld := []
  refreshing := []

/-- The flash store (chapter 11). -/
structure Store where
  /-- 0 unformatted, 1 compact, 2 full; DESIGN CHOICE 0 (log 9) (16, CAPS.store_format; 8 bits) -/
  format : Nat
  /-- format a conversion under way leads to; none (11, R392; 8 bits) -/
  converting : Option Nat
  /-- seq of the FORMAT under way; none (16, R580; 32 bits) -/
  convMsg : Option Nat
  /-- FORMAT that waits for its collections' drops: format and index_sectors; none (19, R682; format, sectors) -/
  formatting : Option (Nat × Nat)
  /-- index area, sectors; DESIGN CHOICE 0 (log 9) (11, R391; 64 bits) -/
  indexSectors : Nat
  /-- host area, sectors; DESIGN CHOICE 0 (log 9) (11, R391; 64 bits) -/
  hostSectors : Nat
  /-- host-area bytes by byte offset; unlisted reads 0 (R394) (11, R394; host area) -/
  host : List Host.Cell
  /-- host-area sectors that fail reads; none (11, R399; sectors) -/
  failing : List Nat
  /-- sectors marked for retention relocation: flash channel (32: not a failed read), area (0 host, 1 index), sector; none (11, R401, R402; channel, area, sector) -/
  relocate : List (Nat × Nat × Nat)
  /-- the block that each valid sector is programmed in; none (11, R401; area, sector, block) -/
  placed : List (Nat × Nat × Nat)
  /-- blocks that have been programmed; none (11, R401; blocks) -/
  blocks : List FlashBlock
  /-- journal parts not yet checkpointed, oldest first; none (11, The commit journal; 256 GB) -/
  journal : List Journal
  /-- next mutation_id; DESIGN CHOICE 1 (log 6) (11, mutation_id; 64 bits) -/
  nextMutation : Nat
  /-- sanitise under way; none (19, R683; mode, phase, pattern) -/
  sanitise : Option (Nat × Nat × Nat)
  /-- seq of its SANITIZE, 0 when its answer was discarded; none when it resumed (19, R684; 32 bits) -/
  sanMsg : Option Nat
  /-- blocks retired by a sanitise; 0 (19, R684; count) -/
  badBlocks : Nat
  deriving DecidableEq, Repr

/-- Store after reset, field by field as INVENTORY.md lists it. -/
def Store.initial : Store where
  format := 0
  converting := none
  convMsg := none
  formatting := none
  indexSectors := 0
  hostSectors := 0
  host := []
  failing := []
  relocate := []
  placed := []
  blocks := []
  journal := []
  nextMutation := 1
  sanitise := none
  sanMsg := none
  badBlocks := 0

/-- The switch state machine of a module (R346 to R353). -/
structure Switch where
  /-- 0 IDLE, 1 STAGED, 2 ACCEPTED, 3 DRAINING; IDLE (10, Switch state machine; 2 bits) -/
  state : Nat
  /-- switch round s; 0 (10, R347; 64 bits) -/
  atRound : Nat
  /-- timetable_id proposed; 0 (10, R347; 64 bits) -/
  ident : Nat
  /-- drained switch; 0 (10, R346; 1 bit) -/
  drained : Bool
  /-- round p of the proposal; 0 (10, R347; 64 bits) -/
  proposal : Nat
  /-- this module proposed it; 0 (10, R347; 1 bit) -/
  leading : Bool
  /-- acceptances received by the leader; none (10, R349; modules) -/
  accepts : List Nat
  /-- refusals received by the leader; none (10, R349; modules) -/
  refusals : List Nat
  /-- the switch round in the leader's numbering, which a joining member takes; 0 (12, R442; 64 bits) -/
  there : Nat
  /-- seq of the TIMETABLE_LOAD to answer; none (16, R589; 32 bits) -/
  msg : Option Nat
  /-- a proposal that this module refused and that is not settled: timetable_id and switch round; none (10, R326; 64 bits, round) -/
  refused : Option (Nat × Nat)
  deriving DecidableEq, Repr

/-- Switch after reset, field by field as INVENTORY.md lists it. -/
def Switch.initial : Switch where
  state := 0
  atRound := 0
  ident := 0
  drained := false
  proposal := 0
  leading := false
  accepts := []
  refusals := []
  there := 0
  msg := none
  refused := none

/-- Group membership and control traffic (chapter 12). -/
structure Group where
  /-- group size; 1 (12, R442; 16 bits) -/
  size : Nat
  /-- module index; 0 (16, CAPS.module_index; 16 bits) -/
  index : Nat
  /-- leader; itself in a group of one (12, R457; 16 bits) -/
  leader : Nat
  /-- group_id; DESIGN CHOICE 0 (log 10) (16, GROUP_JOIN; 64 bits) -/
  ident : Nat
  /-- seq of a GROUP_JOIN in formation; none (12, R440; 32 bits) -/
  joining : Option Nat
  /-- size of the group being formed; 0 (12, R439; 16 bits) -/
  joinSize : Nat
  /-- module index in it; 0 (12, R439; 16 bits) -/
  joinIndex : Nat
  /-- leader in it; 0 (12, R439; 16 bits) -/
  joinLeader : Nat
  /-- modules that reported all ports MEASURED; none (12, R441; modules) -/
  measured : List Nat
  /-- modules lost to this one; none (12, R456; modules) -/
  lost : List Nat
  /-- round of each member's last HEARTBEAT; none (12, R456; module, round) -/
  heard : List (Nat × Nat)
  /-- last msg_seq used; 0 (12, R436; 32 bits) -/
  msgSeq : Nat
  /-- group-wide messages already seen; none (12, R436; origin, seq) -/
  seen : List (Nat × Nat)
  /-- messages for the next control slots, in order; none (12, R436; -) -/
  toSend : List Ctrl
  /-- messages sent in the last control slot (the model's record of an output, log 4); none (12, R436; port, message) -/
  sent : List (Nat × Ctrl)
  /-- stage each module last announced; none (10, R355; module, stage) -/
  stages : List (Nat × Nat)
  /-- time parent's port; none (12, R430; port) -/
  parent : Option Nat
  /-- rounds without a time parent; 0 (12, R432; rounds) -/
  orphan : Nat
  /-- rounds without a reachable leader; 0 (12, R458; rounds) -/
  noLeader : Nat
  /-- phase correction of group time so far, in 1/64 tick; 0 (12, R430; ticks/64) -/
  phase : Int
  /-- ports announced DOWN; none (12, R453; module, port) -/
  brokenPorts : List (Nat × Nat)
  /-- ports whose routes break from a later round; none (12, R453; round, module, port) -/
  brokenFrom : List (Nat × Nat × Nat)
  /-- ports whose routes are whole from a round; none (12, R455; round, module, port) -/
  upFrom : List (Nat × Nat × Nat)
  /-- placement moves known; none (12, R448; -) -/
  moves : List MoveOp
  /-- COMMITs received and their times; none (12, R447; collection, seq, ticks) -/
  commits : List (Nat × Nat × Nat)
  /-- transfers held for sending or forwarding; none (10, R342; -) -/
  hops : List Hop
  /-- LEAVE messages of a module that has left, for the next control slot of the ports that were TIMED; none (12, R458; port, LEAVE) -/
  parting : List (Nat × Ctrl)
  /-- transfers sent in the last slots (log 4); none (10, R342; port, transfer) -/
  sentHops : List (Nat × Hop)
  /-- transfers discarded for want of an entry; 0 (12, R434; count) -/
  discarded : Nat
  /-- flits of lost blocks of this round to replay; none (12, R425; -) -/
  lostFlits : List Lost
  /-- messages held while the fabric service restarts: port and message; none (16, R571; ≤ 4,096) -/
  heldMsgs : List (Nat × List (BitVec 8))
  /-- leader to take from a later round; none (12, R457; round, module) -/
  leaderFrom : Option (Nat × Nat)
  /-- requests delivered and not yet charged; none (10, R339; -) -/
  requests : List Request
  /-- arrivals counted at group barriers; none (12, BARRIER; handle, barrier, arrivals) -/
  barriers : List (Nat × Nat × Nat)
  /-- programs whose last run here has ended, and the last group barrier at which it had arrived; none (R279; handle, barrier) -/
  barred : List (Nat × Nat)
  deriving DecidableEq, Repr

/-- Group after reset, field by field as INVENTORY.md lists it. -/
def Group.initial : Group where
  size := 1
  index := 0
  leader := 0
  ident := 0
  joining := none
  joinSize := 0
  joinIndex := 0
  joinLeader := 0
  measured := []
  lost := []
  heard := []
  msgSeq := 0
  seen := []
  toSend := []
  sent := []
  stages := []
  parent := none
  orphan := 0
  noLeader := 0
  phase := 0
  brokenPorts := []
  brokenFrom := []
  upFrom := []
  moves := []
  commits := []
  hops := []
  parting := []
  sentHops := []
  discarded := 0
  lostFlits := []
  heldMsgs := []
  leaderFrom := none
  requests := []
  barriers := []
  barred := []

/-- Keys, identity and attestation (chapter 17). -/
structure Keys where
  /-- PUF seed reconstructed; none until step 3 (17, R597; 256 bits) -/
  seed : Option (List (BitVec 8))
  /-- live import keys, oldest first; none (17, R605; ≤ 8) -/
  imports : List ImportKey
  /-- next import_key_id; 1 (17, R605; 32 bits) -/
  nextImport : Nat
  /-- measurement log; empty before measured boot (17, R602; ≤ 512) -/
  log : List LogEntry
  /-- boot_count; DESIGN CHOICE 0 (log 11) (17, R604; 32 bits) -/
  bootCount : Nat
  /-- key_generation; DESIGN CHOICE 0 (log 11) (17, R620; 32 bits) -/
  generation : Nat
  /-- draws of the two media keys; none until FORMAT (17, R621; 2 × 512 bits) -/
  media : Option (Nat × Nat)
  /-- seal counter; DESIGN CHOICE 0 (log 11) (17, R617; 64 bits) -/
  sealCtr : Nat
  /-- end of the reserved block of seal counters; DESIGN CHOICE 0 (log 11) (17, R617; 64 bits) -/
  sealBlock : Nat
  /-- service session open, with its duration; none (19, R667; s) -/
  session : Option Nat
  /-- module serial number; DESIGN CHOICE 0 (log 11) (17, R706; 64 bits) -/
  serial : Nat
  /-- stepping; DESIGN CHOICE 0x00, A0 (log 11) (13, Revision ID; 8 bits) -/
  stepping : Nat
  deriving DecidableEq, Repr

/-- Keys after reset, field by field as INVENTORY.md lists it. -/
def Keys.initial : Keys where
  seed := none
  imports := []
  nextImport := 1
  log := []
  bootCount := 0
  generation := 0
  media := none
  sealCtr := 0
  sealBlock := 0
  session := none
  serial := 0
  stepping := 0

/-- Firmware processors, slots and the firmware log (chapter 16). -/
structure Firmware where
  /-- components: ring service, mailbox service, store service 0, memory service, fabric service, program loader, store service 1, ingest service, log service; all up (16, component table; 9) -/
  comps : List Component
  /-- lodge; up (16, R560; -) -/
  lodge : FwState
  /-- group time of its watchdog's latest expiry in this run; none (16, R644; 64 bits) -/
  lodgeAt : Option Nat
  /-- gatehouse; up (16, R560; -) -/
  gatehouse : FwState
  /-- version of the running image; DESIGN CHOICE 0 (log 11) (16, R593; 32 bits) -/
  running : Nat
  /-- running image's compatibility table; DESIGN CHOICE host stack 0, every version (log 11) (16, R585; ≤ 32 records) -/
  compat : List (Nat × Nat × Nat)
  /-- staged slot: version, table, same gatehouse and lodge images; none (16, R591; -) -/
  staged : Option (Nat × List (Nat × Nat × Nat) × Bool)
  /-- scope 1 activation arranged; 0 (16, R594; 1 bit) -/
  atReset : Bool
  /-- seq of the FW_ACTIVATE under way; none (16, R593; 32 bits) -/
  activating : Option Nat
  /-- recovery report at the head of the firmware log; none (19, R685; -) -/
  report : Option Report
  /-- event that ended the previous run; 0 power loss (19, R685; 8 bits) -/
  lastCause : Nat
  /-- entries of the next report known so far; none (19, R686; -) -/
  abandoned : List ReportEntry
  /-- configuration records of owner Karulo and operator; DESIGN CHOICE all valid, empty bodies (log 12) (19, R673; -) -/
  records : List CfgRecord
  /-- self-test: idle (19, SELFTEST; state, kind, permille, failures) -/
  selftest : Nat × Nat × Nat × Nat
  deriving DecidableEq, Repr

/-- Firmware after reset, field by field as INVENTORY.md lists it. -/
def Firmware.initial : Firmware where
  comps := Component.initialTable
  lodge := .up
  lodgeAt := none
  gatehouse := .up
  running := 0
  compat := [(0, 0, 0xFFFFFFFF)]
  staged := none
  atReset := false
  activating := none
  report := none
  lastCause := 0
  abandoned := []
  records := CfgRecord.shipped
  selftest := (0, 0, 0, 0)

/-- Supply, ledger, clamp and shedding (chapters 18, 20). -/
structure Power where
  /-- 12 V good; DESIGN CHOICE 0 (log 13) (18, R646; 1 bit) -/
  v12 : Bool
  /-- 3.3 V good; DESIGN CHOICE 0 (log 13) (18, R646; 1 bit) -/
  v33 : Bool
  /-- PERST# asserted; DESIGN CHOICE 1 (log 13) (18, R646; 1 bit) -/
  perst : Bool
  /-- start-up hold; 0 (18, R649; 1 bit) -/
  hold : Bool
  /-- thermal cut-off tripped; 0 (18, R641; 1 bit) -/
  cutOff : Bool
  /-- board cap in force; 450 (18, R627; W) -/
  cap : Nat
  /-- cap to apply at the next ledger loop; none (18, R627; W) -/
  capNext : Option Nat
  /-- POWER_CAP messages to answer at the next loop; none (18, R627; seq, flag) -/
  capMsgs : List (Nat × Bool)
  /-- default cap of record 0x0020; 450 as shipped (18, R627; W) -/
  capDefault : Nat
  /-- sense ceiling in force; DESIGN CHOICE 600 (log 13) (18, R628; W) -/
  sense : Nat
  /-- lower reading to apply at the next loop; none (18, R628; W) -/
  senseLow : Option Nat
  /-- thermal ceiling; 600, no limit (18, R639; W) -/
  thermal : Nat
  /-- loops since the last raise; 0 (18, R639; loops) -/
  thermalLoops : Nat
  /-- PWRBRK# asserted after its filter; 0 (18, R634; 1 bit) -/
  pwrbrk : Bool
  /-- tensor clock; DESIGN CHOICE 2, 0.3 GHz (log 13) (18, R630; 0.15 GHz) -/
  tensor : Nat
  /-- voltage stage; 0 (18, R632; 3 bits) -/
  voltage : Nat
  /-- cap stage; 0 (18, R633; 3 bits) -/
  capStage : Nat
  /-- consecutive loops at 0.3 GHz above the ceiling; 0 (18, R633; loops) -/
  over2 : Nat
  /-- consecutive loops above the ceiling; 0 (18, R633; loops) -/
  over5 : Nat
  /-- consecutive loops at or below the ceiling less 50 W; 0 (18, R633; loops) -/
  under : Nat
  /-- thermal stages that sensors hold; none (18, R640; sensor, stage) -/
  thermalStages : List (Nat × Nat)
  /-- host-area and upkeep programs at half rate; 0 (18, Thermal limits; 1 bit) -/
  flashThrottle : Bool
  /-- stage whose additions are applied; 0 (18, R635; 3 bits) -/
  applied : Nat
  /-- admissions use the lean plan; 0 (10, R354; 1 bit) -/
  leanPlan : Bool
  /-- stage last announced; 0 (18, R635; 3 bits) -/
  announced : Nat
  /-- window clusters limited to one issue in four; 0 (18, R631; 1 bit) -/
  clampLimit : Bool
  /-- walk steps and lane passes withheld; 0 (18, R642; 1 bit) -/
  clampHold : Bool
  /-- lowest input of the last loop; 0 (20, SMB_INPUT_MV; mV) -/
  input : Nat
  /-- P of the last loop; 0 (20, SMB_POWER; W) -/
  watts : Nat
  /-- ceiling reported by the last loop; 0 before step 1 ends (20, SMB_CEILING; W) -/
  ceilingReg : Nat
  /-- temperatures of the last loop, 0.125 °C; 0x8000 (20, SMB_TEMP_DIE, HBM, FLASH, CAGE; 4 × 16) -/
  temps : List Int
  /-- 450 (20, SMB_CAP; W) -/
  capReg : Nat
  /-- 0 (20, SMB_STATUS.cap_refused; 1 bit) -/
  capRefused : Bool
  /-- value of the last loop: startup_step 1, untethered (20, SMB_STATUS; 16 bits) -/
  statusReg : BitVec 16
  deriving DecidableEq, Repr

/-- Power after reset, field by field as INVENTORY.md lists it. -/
def Power.initial : Power where
  v12 := false
  v33 := false
  perst := true
  hold := false
  cutOff := false
  cap := 450
  capNext := none
  capMsgs := []
  capDefault := 450
  sense := 600
  senseLow := none
  thermal := 600
  thermalLoops := 0
  pwrbrk := false
  tensor := 2
  voltage := 0
  capStage := 0
  over2 := 0
  over5 := 0
  under := 0
  thermalStages := []
  flashThrottle := false
  applied := 0
  leanPlan := false
  announced := 0
  clampLimit := false
  clampHold := false
  input := 0
  watts := 0
  ceilingReg := 0
  temps := [-32768, -32768, -32768, -32768]
  capReg := 450
  capRefused := false
  statusReg := 0x0012

/-- Clusters, cores, programs and lanes (chapters 1, 5, 9). -/
structure Compute where
  /-- clusters whose clock is gated; DESIGN CHOICE none (log 14) (01, R22; ≤ 64) -/
  asleep : List Nat
  /-- clusters out of service; DESIGN CHOICE none (log 14) (01, R21; ≤ 64) -/
  out : List Nat
  /-- clusters under core repair and the step reached; none (19, R664; cluster, core, stage) -/
  repairing : List (Nat × Nat × Nat)
  /-- enabled cores of each cluster; none until start-up builds the sets (01, R20; 64 × 64 cores) -/
  enabled : List (List Nat)
  /-- clusters that a self-test has taken; none (19, R679; clusters) -/
  underTest : List Nat
  /-- clusters whose interrupted test step is to be repeated; none (19, R679; clusters) -/
  testAgain : List Nat
  /-- core repair map: defective physical cores; DESIGN CHOICE none (log 14) (01, R20; cluster, core) -/
  defective : List (Nat × Nat)
  /-- dies in deep sleep; 0 (18, R626; 2 × 1) -/
  dieSleep : List Bool
  /-- dies that wake to run skipped housekeeping; none (18, R626; dies) -/
  housekeeping : List Nat
  /-- loaded programs; none (09, R307; ≤ 1,024) -/
  programs : List Program
  /-- next handle (nonzero); DESIGN CHOICE 1 (log 15) (09, Program images; 32 bits) -/
  nextHandle : Nat
  /-- invocations under way; none (09, R314; -) -/
  runs : List Run
  /-- next run number (the model's own, log 6); DESIGN CHOICE 1 (09, R314; index) -/
  nextRun : Nat
  /-- next job_id (device-assigned); DESIGN CHOICE 0 (log 6) (05, R134; 32 bits) -/
  nextJob : Nat
  /-- lane passes in queue order; none (05, R138; 512 queues) -/
  passes : List LanePass
  /-- ledgers; empty (03, R81; -) -/
  ledger : Ledgers
  deriving DecidableEq, Repr

/-- Compute after reset, field by field as INVENTORY.md lists it. -/
def Compute.initial : Compute where
  asleep := []
  out := []
  repairing := []
  enabled := []
  underTest := []
  testAgain := []
  defective := []
  dieSleep := [false, false]
  housekeeping := []
  programs := []
  nextHandle := 1
  runs := []
  nextRun := 1
  nextJob := 0
  passes := []
  ledger := Ledgers.initial

/-- The whole machine: every piece of state the spec gives the block, and the queue of waiting commands.
INVENTORY.md, '## State', lists each field with the rule that names it and its reset value. -/
structure State where
  /-- commands waiting, first in first out; empty -/
  pending : List Instr
  /-- group time and rounds -/
  clock : Clock
  /-- PCI Express function and pins -/
  pcie : Pcie
  /-- setup registers -/
  regs : Regs
  /-- MSI-X -/
  msix : Msix
  /-- rings, arbitration, outstanding commands -/
  rings : Rings
  /-- tether and staging -/
  tether : Tether
  /-- mailbox -/
  mail : Mailbox
  /-- bytes the device has written into host memory, by bus address (log 4); none -/
  host : List Host.Cell
  /-- error queue and depths -/
  errors : Errors
  /-- HBM, lending, splices -/
  mem : Memory
  /-- flash store -/
  store : Store
  /-- collections; none -/
  colls : List Collection
  /-- active timetable; the default timetable (R650) -/
  active : Timetable
  /-- staged timetable; none -/
  staged : Option Timetable
  /-- plans and windows kept for queries admitted under earlier images; none -/
  former : List Former
  /-- switch state machine -/
  sw : Switch
  /-- group state -/
  group : Group
  /-- hawser ports; DOWN -/
  ports : List Port
  /-- QSFP-DD cages; DESIGN CHOICE empty (log 17) -/
  cages : List Cage
  /-- keys and attestation -/
  keys : Keys
  /-- firmware -/
  fw : Firmware
  /-- power, shedding, SMBus -/
  power : Power
  /-- clusters, programs, lanes -/
  comp : Compute
  /-- number of free values drawn so far (log 2); DESIGN CHOICE 0 -/
  free : Nat
  deriving DecidableEq, Repr

/-- The machine right after power-on reset (chapter 18, Resets; reset columns of chapters 13 and 20). -/
def State.reset : State where
  pending := []
  clock := Clock.initial
  pcie := Pcie.initial
  regs := Regs.initial
  msix := Msix.initial
  rings := Rings.initial
  tether := Tether.initial
  mail := Mailbox.initial
  host := []
  errors := Errors.initial
  mem := Memory.initial
  store := Store.initial
  colls := []
  active := Timetable.builtin
  staged := none
  former := []
  sw := Switch.initial
  group := Group.initial
  ports := List.replicate 8 Port.down
  cages := List.replicate 4 Cage.empty
  keys := Keys.initial
  fw := Firmware.initial
  power := Power.initial
  comp := Compute.initial
  free := 0

/-- Why the machine stops with a fault. -/
inductive Fault where
  /-- Behaviour that the spec calls undefined and to which it gives no effect (R2). Raised by the meanings whose
  driver, board or operator breaks a rule so; safe: the model stops where the hardware may do anything. -/
  | undefinedBreach (rule : String)
  deriving DecidableEq, Repr

/-- Why a command has no meaning in a state. -/
inductive Refusal where
  /-- The command has no meaning in the model yet; raised by exec's own arms; safe: the model stops. -/
  | notModelled (mnemonic : String)
  deriving DecidableEq, Repr

end Sys2Proof.Machine
end

