-- ==== Sys2Proof/Machine/Ops.lean ====
section
/-!
DEFINITION. The named operations over State: byte strings, memories, MSI-X, error records and their escalation,
mailbox messages from the device, completion entries, and the outcome forms that every meaning uses.
-/

namespace Sys2Proof.Machine

/-! ### Byte strings (R4: little-endian) -/

/-- The value of a little-endian byte string. -/
def leNat : Bytes → Nat
  | [] => 0
  | b :: r => b.toNat + 256 * leNat r

/-- The byte at an offset; 0 past the end. -/
def byteAt (b : Bytes) (off : Nat) : Nat := (b.getD off 0).toNat

/-- The little-endian field of n bytes at an offset. -/
def field (b : Bytes) (off n : Nat) : Nat := leNat ((b.drop off).take n)

/-- A value as n little-endian bytes. -/
def toLe : Nat → Nat → Bytes
  | 0, _ => []
  | n + 1, v => BitVec.ofNat 8 v :: toLe n (v / 256)

/-- n zero bytes. -/
def zeros (n : Nat) : Bytes := List.replicate n 0

/-- A byte string cut or zero-filled to n bytes. -/
def padTo (n : Nat) (b : Bytes) : Bytes := b.take n ++ zeros (n - b.length)

/-- n bytes at an offset, zero-filled past the end. -/
def slice (b : Bytes) (off n : Nat) : Bytes := padTo n (b.drop off)

/-- Every byte of n from an offset is zero. -/
def zeroAt (b : Bytes) (off n : Nat) : Bool := (slice b off n).all (· == 0)

/-- The bits of a list of flags as a number, the first flag in bit 0. -/
def bitsNat : List Bool → Nat
  | [] => 0
  | b :: r => b.toNat + 2 * bitsNat r

/-- A signed value in n bits as its unsigned code. -/
def wrapInt (n : Nat) (v : Int) : Nat := (v % (2 ^ n : Nat)).toNat

/-- A code of n bits read as two's complement. -/
def signedOf (n v : Nat) : Int := if v % 2 ^ n < 2 ^ (n - 1) then (v % 2 ^ n : Nat) else (v % 2 ^ n : Nat) - (2 ^ n : Nat)

/-- Bits [hi:lo] of a value (R3). -/
def bits (v hi lo : Nat) : Nat := v / 2 ^ lo % 2 ^ (hi + 1 - lo)

/-- n rounded up to a multiple of m. -/
def roundUp (n m : Nat) : Nat := (n + m - 1) / m * m

/-- a / b rounded up. -/
def ceilDiv (a b : Nat) : Nat := (a + b - 1) / b

/-- A counter that stops at its greatest value. -/
def satAdd (top a b : Nat) : Nat := min top (a + b)

/-! ### Lists of records -/

/-- The records that satisfy a condition changed by f. -/
def updWhere {α : Type} (p : α → Bool) (f : α → α) (l : List α) : List α := l.map fun x => if p x then f x else x

/-- The i-th element changed by f. -/
def updAt {α : Type} (i : Nat) (f : α → α) (l : List α) : List α := l.modify i f

/-- The value of a key in an association list; 0 when absent. -/
def assoc (l : List (Nat × Nat)) (k : Nat) : Nat := ((l.find? fun p => p.1 == k).map (·.2)).getD 0

/-- An association list with a key's value set. -/
def setAssoc (l : List (Nat × Nat)) (k v : Nat) : List (Nat × Nat) := (k, v) :: l.filter fun p => p.1 != k

/-- The elements of a list with each repeated element kept once, at its first place. -/
def distinct (l : List Nat) : List Nat := l.foldl (fun acc x => if acc.contains x then acc else acc ++ [x]) []

/-- The sum of f over a list. -/
def sumBy {α : Type} (f : α → Nat) (l : List α) : Nat := (l.map f).sum

/-! ### Memories: sorted cells that list no zero byte (log 8) -/

/-- The byte at an address; an unlisted address reads 0. -/
def Mem.get : List Host.Cell → Nat → Byte
  | [], _ => 0
  | (a, v) :: r, k => if a == k then v else Mem.get r k

/-- A byte written, keeping the addresses rising and no listed byte 0. -/
def Mem.put : List Host.Cell → Nat → Byte → List Host.Cell
  | [], k, v => if v == 0 then [] else [(k, v)]
  | (a, w) :: r, k, v =>
    if k < a then (if v == 0 then (a, w) :: r else (k, v) :: (a, w) :: r)
    else if k == a then (if v == 0 then r else (k, v) :: r)
    else (a, w) :: Mem.put r k v

/-- A byte string written at consecutive addresses. -/
def Mem.write : List Host.Cell → Nat → Bytes → List Host.Cell
  | m, _, [] => m
  | m, a, b :: r => Mem.write (Mem.put m a b) (a + 1) r

/-- n bytes read at consecutive addresses. -/
def Mem.read (m : List Host.Cell) (a n : Nat) : Bytes := (List.range n).map fun i => Mem.get m (a + i)

/-- A range of n bytes set to zero. -/
def Mem.clear (m : List Host.Cell) (a n : Nat) : List Host.Cell := m.filter fun c => c.1 < a || a + n ≤ c.1

/-- The canonical form: addresses strictly rising, and no byte listed that an unlisted address reads as. -/
def Mem.wf (m : List Host.Cell) : Bool :=
  decide (m.Pairwise fun x y => x.1 < y.1) && m.all fun c => c.2 != 0

/-- The byte of the host's memory at a bus address, as a command's image gives it; 0 outside the image. -/
def hostByte : HostImage → Nat → Byte
  | [], _ => 0
  | (base, b) :: r, a => if base ≤ a && a < base + b.length then b.getD (a - base) 0 else hostByte r a

/-- n bytes of the host's memory. -/
def hostRead (h : HostImage) (a n : Nat) : Bytes := (List.range n).map fun i => hostByte h (a + i)

/-- A read of n bytes of the host's memory at an address has succeeded: runs of its failures end (R466). -/
def State.readOk (s : State) (a n : Nat) : State :=
  { s with mail.readFailed := s.mail.readFailed.filter fun x => !(a ≤ x && x < a + n) }

/-- Bytes written to the host's memory (log 4). -/
def State.hostWrite (s : State) (a : Nat) (b : Bytes) : State := { s with host := Mem.write s.host a b }

/-! ### CRC-32 (R412), in the bit order of IEEE 802.3 (log 19) -/

/-- One byte's worth of shifts of the reflected CRC register. -/
def crcShift : Nat → Nat → Nat
  | 0, c => c
  | n + 1, c => crcShift n (if c % 2 == 1 then (c / 2) ^^^ 0xEDB88320 else c / 2)

/-- CRC-32 of a byte string: initial value all ones, result complemented. -/
def crc32 (b : Bytes) : Nat := (b.foldl (fun c x => crcShift 8 (c ^^^ x.toNat)) 0xFFFFFFFF) ^^^ 0xFFFFFFFF

/-! ### Outcomes -/

/-- The outcome of an event: its effect where its conditions hold. A command that names an event which is none of the
present state (no such command, run or pass, a time not reached) is passed over: nothing happens (log 90). -/
def event (s : State) (ok : Bool) (effect : State) : Host.Outcome State Fault Refusal :=
  .next (if ok then effect else s)

/-! ### Time (R323): 500 ticks to the microsecond -/

/-- Group time moved up to an instant that has been reached (log 20). -/
def State.advance (s : State) (t : Nat) : State := { s with clock.groupTime := max s.clock.groupTime t }

def ticksPerMs : Nat := 500000

/-- The block with no command waiting: one tick of group time passes once it is READY, and nothing else happens, since
whatever falls due is a command of its own (log 1). -/
def State.idle (s : State) : State := if s.regs.ready then { s with clock.groupTime := s.clock.groupTime + 1 } else s

/-- The start tick of a round under the timetable in force (R324). -/
def State.roundTick (s : State) (r : Nat) : Nat := s.clock.baseTick + (r - s.clock.baseRound) * s.active.ticks

/-! ### MSI-X (R479) -/

/-- The sending conditions of a vector. -/
def State.msixReady (s : State) (v : Nat) : Bool :=
  s.pcie.msixEnable && !s.pcie.funcMask && !s.msix.masked.getD v true && s.pcie.busMaster && !s.pcie.d3hot
    && !s.regs.untethered

/-- A vector's message sent, or its pending bit set. -/
def State.signal (s : State) (v : Nat) : State :=
  if s.msixReady v then { s with msix.sent := v :: s.msix.sent }
  else { s with msix.pend := s.msix.pend.set v true }

/-! ### Firmware that is up -/

/-- A component runs: neither it nor its kiosk restarts (R561), nor is its restart held for the lodge (R573). -/
def State.compUp (s : State) (k : Nat) : Bool := (s.fw.comps.map (·.state)).getD k .up == .up

/-- The component whose turn it is in an activation: the first that has not moved, once those before it run again
(R593). -/
def State.moving (s : State) : Option Nat :=
  if s.fw.activating.isSome && s.fw.comps.all (fun c => !c.moved || c.state == .up) then s.fw.comps.findIdx? fun c => !c.moved else none

/-- Whether a host stack lies in a compatibility table (R585). -/
def inTable (table : List (Nat × Nat × Nat)) (stack ver : Nat) : Bool := table.any fun r => r.1 == stack && r.2.1 ≤ ver && ver ≤ r.2.2

/-- Whether a host stack lies in the running image's table. -/
def State.compatible (s : State) (stack ver : Nat) : Bool := inTable s.fw.compat stack ver

/-- Whether the tethered host stack is supported. Beyond that the device's behaviour is undefined (R586, R595). -/
def State.supported (s : State) : Bool := s.regs.untethered || s.compatible s.tether.stackId s.tether.stackVer

/-- The outcome of what a driver asks: undefined where its host stack is not supported. -/
def asked (s : State) (ok : Bool) (effect : State) : Host.Outcome State Fault Refusal :=
  if s.supported then event s ok effect else .fault (.undefinedBreach "R586")

/-- A component runs and holds no new work for its activation (R593). -/
def State.serves (s : State) (k : Nat) : Bool := s.compUp k && s.moving != some k

/-- Component numbers, in the order of chapter 16's table. -/
def Component.ringService : Nat := 0
def Component.mailboxService : Nat := 1
def Component.store0 : Nat := 2
def Component.memory : Nat := 3
def Component.fabric : Nat := 4
def Component.loader : Nat := 5
def Component.store1 : Nat := 6
def Component.ingest : Nat := 7
def Component.log : Nat := 8

/-- The owner number of the gatehouse and of the lodge, beside the nine components. -/
def Component.gatehouse : Nat := 9
def Component.lodge : Nat := 10

/-! ### Messages from the device (R575 to R583) -/

/-- The 32-byte Emnil header before its crc. -/
def mailHeader (type seq len replyTo status flags : Nat) : Bytes :=
  toLe 4 0x4C4E4D45 ++ [1, 0] ++ toLe 2 type ++ toLe 4 seq ++ toLe 4 len ++ toLe 4 replyTo ++ toLe 2 status
    ++ toLe 2 flags ++ zeros 8

/-- A message with its crc in place (bytes 0x18 to 0x1B). -/
def withCrc (m : Bytes) : Bytes := m.take 0x18 ++ toLe 4 (crc32 m) ++ m.drop 0x1C

/-- Cells in use of a counter pair, modulo 4,032 (R575). -/
def cellsUsed (tail head : Nat) : Nat := (tail + 4032 - head) % 4032

/-- Message bytes written from the cell at the device's tail, and the tail advanced over n cells. -/
def State.writeCells (s : State) (b : Bytes) (n : Nat) : State :=
  let at0 := s.regs.mboxFrom.toNat + 0x40 + 64 * (s.mail.fromTail % 63)
  { s.hostWrite at0 b with mail.fromTail := (s.mail.fromTail + n) % 4032 }

/-- Whether the page from the device has room for a message of n bytes, the PAD before it included (R576, R577). -/
def State.mailRoom (s : State) (len : Nat) : Bool :=
  let n := ceilDiv len 64
  let pos := s.mail.fromTail % 63
  let pad := if pos + n > 63 then 63 - pos else 0
  cellsUsed s.mail.fromTail s.mail.fromHead + pad + n ≤ 63

/-- A PAD where the next message would run past cell 62 (R576). -/
def State.padCells (s : State) (len : Nat) : State :=
  let pos := s.mail.fromTail % 63
  if pos + ceilDiv len 64 > 63 then
    s.writeCells (withCrc (mailHeader 0 0 (64 * (63 - pos)) 0 0 0)) (63 - pos)
  else s

/-- The watcher is awake (R477, R506). -/
def State.wakeWatcher (s : State) : State := { s with regs.asleep := false }

/-- A message written whole: its bytes, then from_dev_tail, then vector 0 (R577); a sleeping watcher wakes (R506). -/
def State.putMessage (s : State) (m : OutMsg) : State :=
  let len := 32 + m.body.length
  let s1 := s.padCells len
  let bytes := withCrc (mailHeader m.type s1.mail.seqOut len m.replyTo m.status m.flags ++ m.body)
  let s2 := s1.writeCells bytes (ceilDiv len 64)
  let s3 := s2.hostWrite (s2.regs.mboxFrom.toNat + 4) (toLe 4 s2.mail.fromTail)
  { s3.signal 0 with mail.seqOut := s3.mail.seqOut + 1 }.wakeWatcher

/-- The queued messages written while there is room, oldest first. The fuel is the length of the queue. -/
def State.drainQueue : Nat → State → State
  | 0, s => s
  | n + 1, s =>
    match s.mail.queue with
    | [] => s
    | m :: r => if s.mailRoom (32 + m.body.length) then drainQueue n { s.putMessage m with mail.queue := r } else s

/-- A record's detail bytes, which no code's layout gives: free, but that a record of an uncorrectable word names the page (R378)
in the first two (log 102). -/
def ErrRec.detail (r : ErrRec) : Bytes :=
  let open_ := (List.range 16).map (Config.freeByte r.free)
  match r.page with
  | some p => toLe 2 p ++ open_.drop 2
  | none => open_

/-- The 64 bytes of an error record (R651). -/
def ErrRec.bytes (r : ErrRec) : Bytes :=
  toLe 4 r.seq ++ toLe 2 r.code ++ toLe 1 r.severity ++ toLe 1 r.flags ++ toLe 8 r.time ++ toLe 1 r.unitKind
    ++ toLe 1 r.depth ++ toLe 2 r.unit ++ toLe 4 r.overflow ++ toLe 8 r.address ++ toLe 4 r.tag ++ toLe 1 r.ring ++ [0]
    ++ toLe 2 r.collection ++ r.detail ++ zeros 8

/-- Error records sent as ERROR_REPORT while there is room, oldest first, each once (R653, R583). -/
def State.sendReports : List ErrRec → State → State
  | [], s => s
  | r :: rest, s =>
    if r.reported then sendReports rest s
    else if s.mailRoom 96 then
      let s1 := s.putMessage ⟨0x90, 0, 0, 2, r.bytes⟩
      let q := updWhere (fun x => x.seq == r.seq) (fun x => { x with reported := true }) s1.errors.queue
      sendReports rest { s1 with errors.queue := q }
    else s

/-- What the device sends through the mailbox now: nothing while untethered or while the mailbox service restarts;
the waiting messages, then the unreported records unless the log service restarts. -/
def State.flushMail (s : State) : State :=
  if s.regs.untethered || !s.compUp Component.mailboxService then s
  else
    let s1 := drainQueue s.mail.queue.length s
    if s1.mail.queue.isEmpty && s1.compUp Component.log then sendReports s1.errors.queue s1 else s1

/-- A message handed to the mailbox; while untethered an answer is discarded (R525), and an unsolicited message waits
for a tether (R583). -/
def State.send (s : State) (m : OutMsg) : State :=
  if s.regs.untethered && m.flags < 2 then s else { s with mail.queue := s.mail.queue ++ [m] }.flushMail

/-- The reply to the message of a given seq: ACCEPTED with its body (R580). -/
def State.reply (s : State) (type seq : Nat) (body : Bytes) : State :=
  { s with mail.awaiting := s.mail.awaiting.filter fun a => a.seq != seq }.send ⟨type, seq, 0, 1, body⟩

/-- A refusal (R582): result code, field_offset and reason. -/
def State.refuse (s : State) (type seq code off reason : Nat) : State :=
  { s with mail.awaiting := s.mail.awaiting.filter fun a => a.seq != seq }.send
    ⟨type, seq, code, 1, toLe 4 off ++ toLe 4 reason ++ zeros 8⟩

/-- The reply of a message that is answered later, where one waits. -/
def State.replyLater (s : State) (type : Nat) (seq : Option Nat) (body : Bytes) : State :=
  match seq with
  | none => s
  | some q => if s.mail.awaiting.any (·.seq == q) then s.reply type q body else s

/-- A refusal of a message that is answered later, where one waits. -/
def State.refuseLater (s : State) (type : Nat) (seq : Option Nat) (code off reason : Nat) : State :=
  match seq with
  | none => s
  | some q => if s.mail.awaiting.any (·.seq == q) then s.refuse type q code off reason else s

/-! ### Error records (R651 to R658) -/

/-- What raises a record: code, default severity, unit, address, command and collection. -/
structure RecArgs where
  code : Nat
  severity : Nat
  unitKind : Nat := 0
  unit : Nat := 0
  address : Nat := 0
  tag : Nat := 0
  ring : Nat := 0
  collection : Nat := 0xFFFF
  page : Option Nat := none

/-- The units that contain a unit (R656): a component its kiosk, a core its cluster, a pseudo-channel its stack.
Cores are numbered 68 to a cluster (log 21). -/
def containers (s : State) (kind unit : Nat) : List (Nat × Nat) :=
  match kind with
  | 1 => [(2, (s.fw.comps.map (·.kiosk)).getD unit 0)]
  | 6 => [(5, unit / 68)]
  | 7 => [(8, unit / 64)]
  | _ => []

/-- Codes that report a failure of a unit and so start or deepen its recovery; a core's uncorrectable word only
deepens one that CORE_FAILED has started (R664, log 22). -/
def failureCodes : List Nat := [0x0011, 0x0019, 0x0020, 0x0028, 0x0029, 0x002A, 0x0030]

/-- The depth of a unit; 0 while it is not recovering. -/
def State.depthOf (s : State) (u : Nat × Nat) : Nat :=
  ((s.errors.depths.find? fun d => d.kind == u.1 && d.unit == u.2).map (·.depth)).getD 0

/-- One error against a unit (R657): depth 1, or one more, at most 3; its recovery is under way again. -/
def State.deepen (s : State) (u : Nat × Nat) : State :=
  { s with errors.depths := ⟨u.1, u.2, min 3 (s.depthOf u + 1), false⟩ ::
      s.errors.depths.filter fun d => !(d.kind == u.1 && d.unit == u.2) }

/-- The units against which a record counts: kinds 1 to 10 recover; none for a code that reports no failure. -/
def State.struck (s : State) (a : RecArgs) : List (Nat × Nat) :=
  if a.unitKind == 0 || a.unitKind > 10 then []
  else if failureCodes.contains a.code || (a.code == 0x0018 && s.depthOf (a.unitKind, a.unit) > 0) then
    (a.unitKind, a.unit) :: containers s a.unitKind a.unit
  else []

/-- A record put into the queue of 64, or dropped (R654, R655). -/
def State.enqueueRecord (s : State) (r : ErrRec) : State :=
  if s.errors.queue.length < 64 then
    { s with errors.queue := s.errors.queue ++ [{ r with seq := s.errors.seq + 1, overflow := s.errors.overflow }]
             errors.seq := s.errors.seq + 1 }
  else
    let lost := satAdd 0xFFFFFFFF s.errors.overflow 1
    match s.errors.queue.find? fun x => x.severity < r.severity && x.flags / 4 % 2 == 0 with
    | none => { s with errors.overflow := lost }
    | some v =>
      { s with errors.queue := (s.errors.queue.filter fun x => x.seq != v.seq) ++
                 [{ r with seq := s.errors.seq + 1, overflow := lost }]
               errors.seq := s.errors.seq + 1
               errors.overflow := lost }

/-- The record that RecArgs describes, at a severity, flags and depth. -/
def State.mkRecord (s : State) (a : RecArgs) (severity flags depth : Nat) : ErrRec :=
  { seq := 0, code := a.code, severity, flags, time := s.clock.groupTime, unitKind := a.unitKind, depth, unit := a.unit
    overflow := 0, address := a.address, tag := a.tag, ring := a.ring, collection := a.collection, free := s.free, page := a.page
    reported := false }

/-- Step 1 of entry into shelter mode (R659): the flag, its cause, and PME from D3hot (R484, R690). -/
def State.shelterFlag (s : State) (code : Nat) : State :=
  if s.regs.shelter then s
  else if s.pcie.d3hot then
    { s with regs.shelter := true, errors.shelterCause := code, pcie.pmeStatus := true, pcie.wake := true }
  else { s with regs.shelter := true, errors.shelterCause := code }

/-- An error record queued, with the escalation of R657 and R658. -/
def State.record (s : State) (a : RecArgs) : State :=
  let units := s.struck a
  let recovering := units.any fun u => u == (a.unitKind, a.unit) && s.depthOf u > 0
  let s1 := units.foldl State.deepen s
  let sev := if recovering then min 3 (a.severity + 1) else a.severity
  let nested := units.find? fun u => s1.depthOf u == 3
  let flags := (if recovering then 3 else 0) + (if sev == 3 then 4 else 0)
  let s2 := { s1.enqueueRecord (s1.mkRecord a sev flags (s1.depthOf (a.unitKind, a.unit))) with free := s1.free + 1 }
  let s3 := match nested with
    | some u =>
      ({ s2.enqueueRecord (s2.mkRecord { code := 0x0044, severity := 3, unitKind := u.1, unit := u.2 } 3 4 3) with
          free := s2.free + 1 }).shelterFlag 0x0044
    | none => if sev == 3 then s2.shelterFlag a.code else s2
  s3.flushMail

/-- A unit's recovery has ended; the 1 s after it runs (chapter 19, Nested recovery). -/
def State.endRecovery (s : State) (u : Nat × Nat) : State :=
  let ds := updWhere (fun d => d.kind == u.1 && d.unit == u.2) (fun d => { d with ended := true }) s.errors.depths
  { s with errors.depths := ds }

/-! ### Commands and completion entries (chapters 14 and 15) -/

/-- A command under way: outstanding, and its completion not yet waiting for the ring service. -/
def State.cmd? (s : State) (cid : Nat) : Option Cmd := s.rings.cmds.find? fun c => c.cid == cid && !c.finished

/-- A command's record changed. -/
def State.updCmd (s : State) (cid : Nat) (f : Cmd → Cmd) : State :=
  { s with rings.cmds := updWhere (fun c => c.cid == cid) f s.rings.cmds }

def State.sq? (s : State) (n : Nat) : Option SubRing := s.rings.sqs.find? fun r => r.num == n
def State.cq? (s : State) (n : Nat) : Option CmpRing := s.rings.cqs.find? fun r => r.num == n
def State.updSq (s : State) (n : Nat) (f : SubRing → SubRing) : State :=
  { s with rings.sqs := updWhere (fun r => r.num == n) f s.rings.sqs }
def State.updCq (s : State) (n : Nat) (f : CmpRing → CmpRing) : State :=
  { s with rings.cqs := updWhere (fun r => r.num == n) f s.rings.cqs }

/-- The position past which a submission ring of a number counts its fetches: past whatever fences still cover on an earlier
ring of the number, whose descriptors were dropped (R501, R512). -/
def State.coverEnd (s : State) (ring : Nat) : Nat :=
  (s.rings.cmds.flatMap fun c => match c.body with
    | .fence f => (f.unfetched.filter fun u => u.1 == ring).map (·.2)
    | _ => []).foldl max 0

/-- The 32 bytes of a completion entry: the words of chapter 15 and the ring word of chapter 14. -/
def entryBytes (r : Result) (tag head sq : Nat) (phase : Bool) : Bytes :=
  toLe 1 r.status ++ toLe 1 r.detail ++ toLe 1 r.fault ++ [0] ++ toLe 4 r.a ++ toLe 8 r.b ++ toLe 8 r.c ++ toLe 4 tag
    ++ toLe 2 head ++ toLe 1 sq ++ [BitVec.ofNat 8 phase.toNat]

/-- A status with every word zero (R555). -/
def Result.of (status : Nat) : Result := ⟨status, 0, 0, 0, 0, 0⟩

/-- INVALID_DESCRIPTOR with its detail and word_a (R535). -/
def Result.invalid (detail a : Nat) : Result := ⟨3, detail, 0, a, 0, 0⟩

/-- A completion ring's vector, where its count is reached or its entries wait no time (R498). -/
def State.coalesce (s : State) (n : Nat) : State :=
  match s.cq? n with
  | none => s
  | some q =>
    if q.unsignalled > 0 && (q.unsignalled ≥ q.count || q.time == 0) then (s.updCq n fun x => { x with unsignalled := 0 }).signal q.vector
    else s

/-- A completion entry written at the ring's write position, which advances; the phase inverts at the wrap (R494). -/
def State.writeEntry (s : State) (q : CmpRing) (r : Result) (tag sq : Nat) : State :=
  let head := ((s.sq? sq).map (·.head)).getD 0
  let s1 := s.hostWrite (q.base + 32 * q.wpos) (entryBytes r tag head sq q.phase)
  let s2 := s1.updCq q.num fun x =>
    { x with wpos := if x.wpos + 1 == x.size then 0 else x.wpos + 1
             phase := if x.wpos + 1 == x.size then !x.phase else x.phase
             used := x.used + 1, unsignalled := x.unsignalled + 1
             since := if x.unsignalled == 0 then s.clock.groupTime else x.since }
  s2.coalesce q.num

/-- A completion staged (R527, R528); the head shadow of a deleted ring is free (log 2). -/
def State.stage (s : State) (c : Cmd) (r : Result) : State :=
  let s1 :=
    if s.tether.staging.length < 65536 then
      { s with tether.staging := s.tether.staging ++
          [⟨entryBytes r c.hdr.tag (Config.freeNat s.free) c.ring false, c.cq, s.clock.groupTime⟩]
               free := s.free + 1 }
    else { s with tether.dropped := satAdd 0xFFFFFFFF s.tether.dropped 1 }
  let s2 := if r.status == 2 then { s1 with tether.retry := s1.tether.retry + 1 } else s1
  s2

/-- A command taken off the list of outstanding commands, and off what fences still cover (R513). -/
def State.dropCmd (s : State) (cid : Nat) : State :=
  { s with rings.cmds := (s.rings.cmds.filter fun c => c.cid != cid).map fun c =>
      match c.body with
      | .fence f => { c with body := .fence { f with covered := f.covered.filter fun x => x != cid } }
      | _ => c }

/-- Where an unreachable command's result must reach the host, it ends so (R526, the table of commands at untether). A query that
shelter mode ends keeps SHELTER: DEDUCED from R109's "every waiting and every admitted query" (log 109). -/
def unreachableResult (c : Cmd) (r : Result) : Result :=
  match c.body with
  | .query _ => if r.status == 10 then r else .of 2
  | .store w => if w.kind = .read then .of 2 else r
  | .move m => if m.src.tier == 4 || m.dst.tier == 4 then .of 2 else r
  | _ => r

/-- The journal parts of a mutation that completes; an abandon part stands until replay has met it (R188, R403). -/
def State.journalDone (s : State) (c : Cmd) : State :=
  match c.body with
  | .mutation m => { s with store.journal := updWhere (fun j => j.mutationId == m.mutationId) (fun j => { j with done := j.kind != 5 }) s.store.journal }
  | _ => s

/-- A completion entry posted at once, or staged for a command that an untether left unreachable. -/
def State.post (s : State) (c : Cmd) (r : Result) : State :=
  let s1 := (s.dropCmd c.cid).journalDone c
  if c.unreachable then s1.stage c (unreachableResult c r)
  else
    match s1.cq? c.cq with
    | none => s1.stage c r
    | some q =>
      (s1.updSq c.ring fun x => { x with recent := (c.hdr.tag :: x.recent).take 1024 }).writeEntry q r c.hdr.tag c.ring

/-- The result header (R548, R550): count, tie_excess, status, flags, nar_count, partitions scanned, epochs dropped, member,
snapshot and admitting round. -/
def resultHeader (count ties status flags nar parts epochs member snapshot admission : Nat) : Bytes :=
  toLe 2 count ++ toLe 1 ties ++ toLe 1 status ++ toLe 4 flags ++ toLe 4 nar ++ toLe 4 parts ++ toLe 2 epochs ++ toLe 2 member
    ++ zeros 4 ++ toLe 8 snapshot ++ toLe 8 admission ++ zeros 24

/-- The snapshot that a QUERY_BATCH reports (R550): the one used, or the explicit one of a batch never admitted. -/
def QueryWork.shown (q : QueryWork) : Nat := if q.phase == .waiting then q.plan.snapshotReq else q.snapshot

/-- The headers of the members of a QUERY_BATCH that ended with another status than DONE (R550). -/
def State.memberHeaders (s : State) (q : QueryWork) (status : Nat) : State :=
  let admission := if q.phase == .waiting then 0xFFFFFFFFFFFFFFFF else q.admitRound
  q.members.foldl (fun s m =>
    let st := m.status.getD status
    if st == 0 then s
    else s.hostWrite (q.plan.resultAddr + m.idx * q.plan.resultLen) (resultHeader 0 0 st 0 0 0 0 m.idx q.shown admission)) s

/-- A query's result as its completion entry carries it: of a QUERY_BATCH with seal 0, the members that ended DONE and the
snapshot (R555). -/
def QueryWork.result (q : QueryWork) (r : Result) : Result :=
  if q.plan.batch && q.plan.sealing == 0 then
    { r with a := if r.status == 3 then r.a else (q.members.filter fun m => m.status.getD r.status == 0).length, b := q.shown, c := 0 }
  else r

/-- What a query's end writes for the members of a batch, while the host can be reached, and its completion words. -/
def State.endQuery (s : State) (c : Cmd) (r : Result) : State × Result :=
  match c.body with
  | .query q => (if q.plan.batch && !c.unreachable then s.memberHeaders q r.status else s, q.result r)
  | _ => (s, r)

/-- A command completes: its entry is posted, or waits in the completion writer's queue while the ring service
restarts (R567). -/
def State.complete (s : State) (cid : Nat) (r : Result) : State :=
  match s.cmd? cid with
  | none => s
  | some c =>
    let (s1, r1) := s.endQuery c r
    if s1.compUp Component.ringService || c.unreachable then s1.post c r1
    else { s1.updCmd cid (fun c => { c with finished := true }) with rings.waiting := s1.rings.waiting ++ [(cid, r1)] }

/-- The next n free values drawn (log 2). -/
def State.draw (s : State) (n : Nat) : State := { s with free := s.free + n }

/-! ### Units that a self-test has taken (R679) -/

/-- A self-test that has ended holds no unit. -/
def State.releaseTests (s : State) : State := { s with comp.underTest := [], comp.testAgain := [], mem.testHeld := [] }

/-- Work has come for clusters under test: the test releases them, and its interrupted step is to be repeated. -/
def State.interruptTests (s : State) (clusters : List Nat) : State :=
  let hit := s.comp.underTest.filter clusters.contains
  { s with comp.underTest := s.comp.underTest.filter (fun c => !clusters.contains c)
           comp.testAgain := s.comp.testAgain ++ hit.filter fun c => !s.comp.testAgain.contains c }

end Sys2Proof.Machine
end

