-- ==== Sys2Proof/Machine/Numeric.lean ====
section
/-!
DEFINITION. Chapter 7: the formats, their codes and containers, rounding and every conversion; and the exact values of
chapter 8 that they start from.
-/

namespace Sys2Proof.Machine

/-! ### Formats (R201, R208, R211, R214) -/

/-- Exponent width, fraction width and bias of a K format. -/
structure KParams where
  ew : Nat
  fw : Nat
  bias : Nat
  deriving DecidableEq, Repr

/-- The K format table of R201; none for the other formats. -/
def Fmt.k? : Fmt → Option KParams
  | .k4 => some ⟨2, 1, 1⟩
  | .k6 => some ⟨3, 2, 3⟩
  | .k8 => some ⟨4, 3, 8⟩
  | .k12 => some ⟨5, 6, 16⟩
  | .k16 => some ⟨6, 9, 32⟩
  | .k24 => some ⟨7, 16, 64⟩
  | _ => none

/-- The format codes of R214; a reserved code names none. -/
def Fmt.ofCode : Nat → Option Fmt
  | 0 => some .k4 | 1 => some .k6 | 2 => some .k8 | 3 => some .k12 | 4 => some .k16 | 5 => some .k24
  | 6 => some .i4 | 7 => some .i8 | 8 => some .u8 | 9 => some .f32 | 10 => some .u32
  | _ => none

def Fmt.code : Fmt → Nat
  | .k4 => 0 | .k6 => 1 | .k8 => 2 | .k12 => 3 | .k16 => 4 | .k24 => 5 | .i4 => 6 | .i8 => 7 | .u8 => 8 | .f32 => 9
  | .u32 => 10

/-- Bits of a code. -/
def Fmt.bits : Fmt → Nat
  | .k4 => 4 | .k6 => 6 | .k8 => 8 | .k12 => 12 | .k16 => 16 | .k24 => 24 | .i4 => 4 | .i8 => 8 | .u8 => 8 | .f32 => 32
  | .u32 => 32

/-- Bits of an element's container (R211). -/
def Fmt.container : Fmt → Nat
  | .k4 => 4 | .k6 => 6 | .k8 => 8 | .k12 => 16 | .k16 => 16 | .k24 => 32 | .i4 => 4 | .i8 => 8 | .u8 => 8 | .f32 => 32
  | .u32 => 32

/-- The element at an index of a row of containers (R211, R212). -/
def elemAt (f : Fmt) (b : Bytes) (i : Nat) : Nat :=
  Machine.field b (i * f.container / 8) 5 / 2 ^ (i * f.container % 8) % 2 ^ f.bits

/-- The bytes that n elements of one row take, padding included (R213). -/
def rowBytes (f : Fmt) (n : Nat) : Nat :=
  if f = .k6 then ceilDiv n 4 * 3 else ceilDiv (n * f.container) 8

/-- A row of codes in their containers, unused bits and padding zero (R212, R213). -/
def packRow (f : Fmt) (codes : List Nat) : Bytes :=
  toLe (rowBytes f codes.length) (codes.foldr (fun c acc => c % 2 ^ f.bits + 2 ^ f.container * acc) 0)

/-- The first n codes of a row. -/
def unpackRow (f : Fmt) (b : Bytes) (n : Nat) : List Nat := (List.range n).map (elemAt f b)

/-! ### Exact values -/

/-- m × 2^e on a coarser or equal grid g ≤ e, as an integer. -/
def onGrid (m : Int) (e g : Int) : Int := m * (2 ^ (e - g).toNat : Nat)

def Val.zero : Val := .fin 0 0

def Val.neg : Val → Val
  | .nar => .nar
  | .fin m e => .fin (-m) e

def Val.abs : Val → Val
  | .nar => .nar
  | .fin m e => .fin m.natAbs e

def Val.add : Val → Val → Val
  | .fin m e, .fin n f => let g := min e f; .fin (onGrid m e g + onGrid n f g) g
  | _, _ => .nar

def Val.sub (a b : Val) : Val := a.add b.neg

def Val.mul : Val → Val → Val
  | .fin m e, .fin n f => .fin (m * n) (e + f)
  | _, _ => .nar

/-- Whether a < b, for values that are real. -/
def Val.lt : Val → Val → Bool
  | .fin m e, .fin n f => let g := min e f; onGrid m e g < onGrid n f g
  | _, _ => false

def Val.isNar : Val → Bool
  | .nar => true
  | _ => false

/-- Leading 96 significant bits of num / den × 2^exp, with the rest folded into bit 0 (R216). -/
def quotient (num den : Nat) (exp : Int) : Nat × Int :=
  if num == 0 || den == 0 then (0, exp) else
  let sh : Nat := 97 + den.log2 - num.log2
  let big := num * 2 ^ sh
  let q := big / den
  let drop : Nat := q.log2 - 95
  let top := q / 2 ^ drop
  let rest := q % 2 ^ drop != 0 || big % den != 0
  ((if rest then top ||| 1 else top), exp - sh + drop)

/-- Leading 96 significant bits of the square root of m × 2^e, with the rest folded into bit 0 (R216). -/
def rootBits (m : Nat) (e : Int) : Nat × Int :=
  if m == 0 then (0, 0) else
  let odd : Nat := if e % 2 == 0 then 0 else 1
  let big := m * 2 ^ (odd + 192)
  let r := big.sqrt
  let drop : Nat := r.log2 - 95
  let rest := r * r != big || r % 2 ^ drop != 0
  let top := r / 2 ^ drop
  ((if rest then top ||| 1 else top), (e - odd) / 2 - 96 + drop)

/-! ### Rounding (R215) -/

/-- round_sig: the significand in [2^(p-1), 2^p) and the exponent of its leading bit. Modes: 0 to nearest even, 1 toward
zero, 2 to odd, 3 stochastic with r. -/
def roundSig (mag : Nat) (exp : Int) (p mode r : Nat) : Nat × Int :=
  let h := mag.log2
  let sh := h + 1 - p
  let keep := if h + 1 < p then mag * 2 ^ (p - 1 - h) else mag / 2 ^ sh
  let rem := if h + 1 ≤ p then 0 else mag % 2 ^ sh
  let half := 2 ^ (sh - 1)
  let d := if sh ≥ 32 then rem / 2 ^ (sh - 32) else rem * 2 ^ (32 - sh)
  let up := rem != 0 && ((mode == 0 && (rem > half || (rem == half && keep % 2 == 1))) || (mode == 3 && r < d))
  let odd := rem != 0 && mode == 2
  let kept := if up then keep + 1 else if odd then keep ||| 1 else keep
  if kept == 2 ^ p then (kept / 2, h + exp + 1) else (kept, h + exp)

/-- What a conversion reports: OUT_SAT, OUT_NAR and FLUSHED. -/
structure ConvFlags where
  sat : Bool := false
  nar : Bool := false
  flushed : Bool := false
  deriving DecidableEq, Repr

/-- encode_k (R218). -/
def encodeK (f : KParams) (v : Val) (mode r ovf : Nat) : Nat × ConvFlags :=
  let sbit := 2 ^ (f.ew + f.fw)
  let nar := sbit + 2 ^ f.fw - 1
  match v with
  | .nar => (nar, { nar := true })
  | .fin m exp =>
    if m == 0 then (0, {}) else
    let (sig, e) := roundSig m.natAbs exp (f.fw + 1) mode r
    let s := if m < 0 then sbit else 0
    let emax : Int := 2 ^ f.ew - 1 - f.bias
    let emin : Int := 1 - f.bias
    if e > emax then
      if ovf == 1 then (nar, { nar := true }) else (s + (2 ^ f.ew - 1) * 2 ^ f.fw + 2 ^ f.fw - 1, { sat := true })
    else if e < emin then (0, { flushed := true })
    else (s + (e + f.bias).toNat * 2 ^ f.fw + (sig - 2 ^ f.fw), {})

/-- An exact value rounded to an integer, to nearest even (mode 0) or toward zero (R221). -/
def roundInt (m : Int) (exp : Int) (mode : Nat) : Int :=
  if exp ≥ 0 then m * (2 ^ exp.toNat : Nat) else
  let d : Nat := 2 ^ (-exp).toNat
  let q := m.natAbs / d
  let rem := m.natAbs % d
  let up := mode == 0 && (2 * rem > d || (2 * rem == d && q % 2 == 1))
  let a := if up then q + 1 else q
  if m < 0 then -(a : Int) else a

/-- Conversion to an integer target of a range (R221, R222), as an unsigned code of n bits. -/
def encodeInt (n : Nat) (lo hi : Int) (v : Val) (mode : Nat) : Nat × ConvFlags :=
  match v with
  | .nar => (0, { nar := true })
  | .fin m e =>
    let x := roundInt m e mode
    if x < lo then (wrapInt n lo, { sat := true }) else if x > hi then (wrapInt n hi, { sat := true }) else (wrapInt n x, {})

/-- Conversion to binary32 (R224), with gradual underflow; FLUSHED is of K targets alone (R218, R255). -/
def encodeF32 (v : Val) (mode ovf : Nat) : Nat × ConvFlags :=
  match v with
  | .nar => (0x7FC00000, { nar := true })
  | .fin m exp =>
    if m == 0 then (0, {}) else
    let s := if m < 0 then 0x80000000 else 0
    let h : Int := m.natAbs.log2 + exp
    if h < -126 then
      let x := (roundInt m.natAbs (exp + 149) mode).toNat
      (if x == 0 then 0 else s + x, {})
    else
      let (sig, e) := roundSig m.natAbs exp 24 mode 0
      if e > 127 then
        if ovf == 1 then (s + 0x7F800000, { nar := true }) else (s + 0x7F7FFFFF, { sat := true })
      else (s + (e + 127).toNat * 2 ^ 23 + (sig - 2 ^ 23), {})

/-- Conversion of an exact value or NaR to any format. u32 is no conversion target (R225): whatever asks for one takes a free code
(log 87), and it is taken as an integer range of its own here only that the function be total. -/
def encode (f : Fmt) (v : Val) (mode r ovf : Nat) : Nat × ConvFlags :=
  match f.k? with
  | some p => encodeK p v mode r ovf
  | none =>
    match f with
    | .i4 => encodeInt 4 (-8) 7 v mode
    | .i8 => encodeInt 8 (-128) 127 v mode
    | .u8 => encodeInt 8 0 255 v mode
    | .u32 => encodeInt 32 0 0xFFFFFFFF v mode
    | _ => encodeF32 v mode ovf

/-! ### Decoding (R202 to R205, R208, R219) -/

/-- A K code as an exact value or NaR. -/
def decodeK (f : KParams) (c : Nat) : Val :=
  let s := c / 2 ^ (f.ew + f.fw) % 2
  let e : Nat := c / 2 ^ f.fw % 2 ^ f.ew
  let frac := c % 2 ^ f.fw
  if e == 0 then (if s == 1 && frac == 2 ^ f.fw - 1 then .nar else .zero)
  else
    let mag : Int := 2 ^ f.fw + frac
    .fin (if s == 1 then -mag else mag) ((e : Int) - f.bias - f.fw)

/-- A binary32 pattern as an exact value; infinities and NaN give NaR. -/
def decodeF32 (c : Nat) : Val :=
  let e : Nat := c / 2 ^ 23 % 256
  let frac : Nat := c % 2 ^ 23
  let neg := c / 2 ^ 31 % 2 == 1
  let sign (m : Int) := if neg then -m else m
  if e == 255 then .nar
  else if e == 0 then .fin (sign frac) (-149)
  else .fin (sign (2 ^ 23 + frac)) ((e : Int) - 150)

/-- The value of a code of any format. -/
def decode (f : Fmt) (c : Nat) : Val :=
  match f.k? with
  | some p => decodeK p c
  | none =>
    match f with
    | .i4 => .fin (signedOf 4 c) 0
    | .i8 => .fin (signedOf 8 c) 0
    | .u8 => .fin (Int.ofNat (c % 256)) 0
    | .u32 => .fin (Int.ofNat (c % 2 ^ 32)) 0
    | _ => decodeF32 c

/-- An element of an input vector as it is read: a binary32 zero or subnormal reads as zero (R223). -/
def decodeInput (f : Fmt) (c : Nat) : Val :=
  if f = .f32 && c / 2 ^ 23 % 256 == 0 then .zero else decode f c

/-- A binary32 element that is NaN or infinite, or a K element that is NaR (R68, R173). -/
def inputRefused (f : Fmt) (c : Nat) : Bool := (decodeInput f c).isNar

/-- A vector converted to a K format, rne and saturating (R69, R174, R175). -/
def convVec (f g : Fmt) (codes : List Nat) : List Nat :=
  codes.map fun c => (encode g (decodeInput f c) 0 0 0).1

/-- Whether a scale is finite, normal and nonzero (R210). -/
def scaleGood (c : BitVec 32) : Bool :=
  let e := c.toNat / 2 ^ 23 % 256
  e != 0 && e != 255

/-! ### Norms (R33, R174) -/

/-- The sum of squares of a vector's values. -/
def normSq (f : Fmt) (codes : List Nat) : Val :=
  codes.foldl (fun acc c => let x := decodeInput f c; acc.add (x.mul x)) .zero

/-- Whether a vector's norm is zero. -/
def zeroNorm (f : Fmt) (codes : List Nat) : Bool :=
  match normSq f codes with
  | .fin m _ => m == 0
  | .nar => false

/-- x / sqrt(n), as the square root of x² / n with the sign of x, reduced under R216. -/
def overRoot (x n : Val) : Val :=
  match x, n with
  | .fin m e, .fin k g =>
    if m == 0 || k ≤ 0 then .zero else
    -- x / √n = √(m² 2^(2e) / (k 2^g)); 400 bits more than k has keep the quotient's own remainder below the 96 kept
    let ex : Nat := 400 + k.natAbs.log2
    let num := m.natAbs * m.natAbs * 2 ^ ex
    let q := num / k.natAbs
    let sticky := num % k.natAbs != 0
    let (r, re) := rootBits (4 * q + (if sticky then 1 else 0)) (2 * e - g - ex - 2)
    .fin (if m < 0 then -(r : Int) else r) re
  | _, _ => .nar

/-- A vector divided by its norm and converted once to a K format (R174). A zero-norm vector keeps its elements. -/
def normalise (f g : Fmt) (codes : List Nat) : List Nat :=
  let n := normSq f codes
  if zeroNorm f codes then convVec f g codes
  else codes.map fun c => (encode g (overRoot (decodeInput f c) n) 0 0 0).1

/-! ### Exact distances (R242, R101, R110 to R113) -/

/-- dist of two vectors before rounding: squared L2 for metric 1, the negated inner product otherwise. -/
def distVals (metric : Nat) (a b : List Val) : Val :=
  let terms := (a.zip b).map fun p => if metric == 1 then let d := p.1.sub p.2; d.mul d else (p.1.mul p.2).neg
  terms.foldl Val.add .zero

/-- dist of two vectors of one K format before rounding. -/
def distExact (metric : Nat) (f : Fmt) (a b : List Nat) : Val := distVals metric (a.map (decode f)) (b.map (decode f))

/-- rank_key (R110). -/
def rankKey (nar : Bool) (f : Nat) : Nat :=
  if nar then 0xFFFFFFFF
  else if f == 0x80000000 then 0x80000000
  else if f ≥ 0x80000000 then 0xFFFFFFFF - f
  else f + 0x80000000

/-- A distance as reported: never negative zero (R112). -/
def cleanZero (f : Nat) : Nat := if f == 0x80000000 then 0 else f

/-- A distance rounded once to binary32 with its NaR indication (R242). -/
def dist (metric : Nat) (f : Fmt) (a b : List Nat) : Bool × Nat :=
  let v := distExact metric f a b
  (v.isNar, (encodeF32 v 0 0).1)

/-- mix64 (R246). -/
def mix64 (a b : Nat) : Nat :=
  let w := 2 ^ 64
  let z0 := (a % w) ^^^ (b * 0x9E3779B97F4A7C15 % w)
  let z1 := (z0 ^^^ (z0 / 2 ^ 30)) * 0xBF58476D1CE4E5B9 % w
  let z2 := (z1 ^^^ (z1 / 2 ^ 27)) * 0x94D049BB133111EB % w
  z2 ^^^ (z2 / 2 ^ 31)

end Sys2Proof.Machine
end

