-- ==== Sys2Proof/Machine/Select.lean ====
section
/-!
DEFINITION. Chapter 4: selection keys, ordered lists, merging, the select unit, and what a result reports.
-/

namespace Sys2Proof.Machine

/-! ### Order (R113) -/

/-- An element put into an ascending list before the first larger one. -/
def insertBy {α : Type} (lt : α → α → Bool) (x : α) : List α → List α
  | [] => [x]
  | y :: r => if lt x y then x :: y :: r else y :: insertBy lt x r

/-- A list sorted by insertion; equal elements keep their order. -/
def sortBy {α : Type} (lt : α → α → Bool) (l : List α) : List α := l.foldl (fun acc x => insertBy lt x acc) []

/-- Whether one selection key lies below another: rank key first, then ID. -/
def keyLt (k1 i1 k2 i2 : Nat) : Bool := k1 < k2 || (k1 == k2 && i1 < i2)

def Entry.lt (a b : Entry) : Bool := keyLt a.key a.id b.key b.id

/-- Numbers in ascending order, each once. -/
def sortNats (l : List Nat) : List Nat := distinct (sortBy (fun a b => a < b) l)

/-! ### Merging (R119) -/

/-- The first entry of each ID in an ascending list, which is that ID's smallest; and whether an entry was removed. -/
def dropDups : List Nat → List Entry → List Entry × Bool
  | _, [] => ([], false)
  | seen, e :: r =>
    if seen.contains e.id then ((dropDups seen r).1, true)
    else let t := dropDups (e.id :: seen) r; (e :: t.1, t.2)

/-- The merge of lists with capacity n, and whether a duplicate was removed (R119, R121). -/
def mergeEntries (n : Nat) (lists : List (List Entry)) : List Entry × Bool :=
  let t := dropDups [] (sortBy Entry.lt lists.flatten)
  (t.1.take n, t.2)

/-! ### The select unit (R114 to R116) -/

/-- A select unit set up with a capacity and a threshold. -/
def SelUnit.setUp (cap : Nat) (low : Bool) (thrKey thrId : Nat) : SelUnit :=
  { cap, low, thrKey, thrId, held := [], narCount := 0, seen := [] }

/-- One entry fed to a select unit: NaR entries are counted and never held; a larger held entry gives way. -/
def SelUnit.feed (u : SelUnit) (e : SelEntry) : SelUnit :=
  if e.key == 0xFFFFFFFF then { u with narCount := satAdd 0xFFFFFFFF u.narCount 1 }
  else if !u.low && !keyLt u.thrKey u.thrId e.key e.id then u
  else if u.held.any (fun h => h.key == e.key && h.id == e.id) || u.seen.contains (e.key, e.id) then u
  else
    let l := insertBy (fun a b : SelEntry => keyLt a.key a.id b.key b.id) e u.held
    { u with held := l.take u.cap, seen := u.seen ++ (l.drop u.cap).map fun x => (x.key, x.id) }

/-- The tie count that a full unit reports (R116). -/
def SelUnit.ties (u : SelUnit) : Nat :=
  if u.held.length < u.cap then 0
  else match u.held.getLast? with
    | none => 0
    | some h => (u.seen.filter fun x => x.1 == h.key).length

/-! ### The final list (R100, R124 to R128) -/

/-- What the final round reports of a final source. -/
structure Final where
  entries : List Entry
  count : Nat
  tieExcess : Nat
  tieAtK : Bool
  fewer : Bool
  deriving DecidableEq, Repr

/-- The k best entries of a deduplicated finite source, with the ties left out. -/
def finalList (k : Nat) (source : List Entry) : Final :=
  let l := sortBy Entry.lt source
  let top := l.take k
  let ties := match top.getLast? with
    | some e => if top.length == k then ((l.drop k).filter fun x => x.key == e.key).length else 0
    | none => 0
  { entries := top, count := top.length, tieExcess := min 255 ties, tieAtK := ties > 0, fewer := top.length < k }

end Sys2Proof.Machine
end

