-- ==== Sys2Proof/Machine/Index.lean ====
section
/-!
DEFINITION. Chapters 2, 3, 5 and 6 on one collection: what a snapshot sees, codes and partitions, the walk, filters,
what a lane computes for a slot, and how slots, tombstones and generations are written.
-/

namespace Sys2Proof.Machine

/-! ### Code forms and sizes (R32, R39, slot layout) -/

/-- Code length L in bytes (R32). -/
def Collection.codeLen (c : Collection) : Nat :=
  match c.form with
  | 0 => c.m
  | 1 => c.m / 2
  | 2 => c.dim
  | _ => c.dim / 2

def Collection.slotSize (c : Collection) : Nat := c.codeLen + 16

/-- Codebook entries per subspace, K. -/
def Collection.bookSize (c : Collection) : Nat := if c.form == 0 then 256 else 16

/-- Whether the code form is a PQ form. -/
def Collection.pq (c : Collection) : Bool := c.form ≤ 1

/-- Slots that one segment can hold. -/
def Collection.segMax (c : Collection) : Nat := (16777216 - 64) / c.slotSize

/-- Bytes of a full vector, and the index-area sectors or part of one that it takes (R39). -/
def Collection.fullBytes (c : Collection) : Nat := if c.full = .k16 then 2 * c.dim else c.dim
def Collection.fullReads (c : Collection) : Nat := ceilDiv c.fullBytes 4096

/-- Index-area sectors of n full vectors (R39). -/
def Collection.fullSectors (c : Collection) (n : Nat) : Nat :=
  if c.fullBytes ≤ 4096 then ceilDiv n (4096 / max 1 c.fullBytes) else n * c.fullReads

/-! ### Generations and snapshots (R43, R52 to R61) -/

/-- The generation a snapshot walks: the largest publishing sequence at or below it (R43). -/
def Collection.genAt (c : Collection) (snap : Nat) : Option Generation :=
  (c.gens.filter fun g => g.publishSeq ≤ snap).foldl
    (fun best g => match best with
      | none => some g
      | some b => if b.publishSeq ≤ g.publishSeq then some g else some b) none

def Generation.part? (g : Generation) (p : Nat) : Option Partition := g.parts.find? fun x => x.num == p

/-- A sequence tag at or below a snapshot. -/
def tagged (q : Option Nat) (snap : Nat) : Bool :=
  match q with
  | none => false
  | some n => n ≤ snap

/-- Whether a slot index of a segment is tombstoned at a snapshot (R61): a tombstone of the same partition in a
generation that holds the segment. -/
def Collection.dead (c : Collection) (snap : Nat) (seg : Segment) (j : Nat) : Bool :=
  c.tombs.any fun t =>
    t.part == seg.part && t.slot == seg.firstSlot + j && seg.gens.contains t.gen && tagged t.seq snap

/-- The slots of a segment with their places. -/
def Segment.places (seg : Segment) : List (Nat × Slot) := (List.range seg.slots.length).zip seg.slots

/-- The slots that a snapshot sees (R54 to R57): segment number, place and slot, over the generation it walks. -/
def Collection.visible (c : Collection) (snap : Nat) : List (Nat × Nat × Slot) :=
  match c.genAt snap with
  | none => []
  | some g =>
    ((List.range c.segs.length).zip c.segs).flatMap fun (i, seg) =>
      if seg.gens.contains g.num && tagged seg.seq snap then
        (seg.places.filter fun p => !c.dead snap seg p.1).map fun p => (i, p.1, p.2)
      else []

/-- The slot that holds an ID live at a sequence. -/
def Collection.liveSlot (c : Collection) (seq id : Nat) : Option (Nat × Nat × Slot) :=
  (c.visible seq).find? fun x => x.2.2.id == id

/-- The number of live IDs at the latest sequence (R713). -/
def Collection.liveCount (c : Collection) : Nat := (c.visible c.latest).length

/-- Whether a snapshot is admissible in a round that starts at a tick (R58, R409): never superseded, or within the
horizon of its supersession, and not below the sequence at mount. -/
def Collection.admissible (c : Collection) (snap tick : Nat) : Bool :=
  if snap ≥ c.latest then snap == c.latest
  else if snap < c.mountSeq then false
  else match c.superseded.find? fun p => p.1 == snap with
    | some p => tick < p.2 + c.horizon * ticksPerMs
    | none => false

/-- S_max(S): the largest number of slots that a partition of the generation holds in segments at or below S (R80). -/
def Collection.sMax (c : Collection) (g : Generation) (snap : Nat) : Nat :=
  (g.parts.map fun p =>
    sumBy (fun seg => seg.slots.length)
      (c.segs.filter fun seg => seg.part == p.num && seg.gens.contains g.num && tagged seg.seq snap)).foldl max 0

/-- Bytes that partitions hold in segments at or below a snapshot (R80, second sentence). -/
def Collection.partBytes (c : Collection) (g : Generation) (snap part : Nat) : Nat :=
  c.slotSize * sumBy (fun seg => seg.slots.length)
    (c.segs.filter fun seg => seg.part == part && seg.gens.contains g.num && tagged seg.seq snap)

/-! ### Fixed-point K8 (R244, R139): every K8 value is a multiple of 2^-10 -/

/-- The value of a K8 code × 2^10; a zero-reading code and NaR give 0. -/
def fixed10 (c : Nat) : Int :=
  match decode .k8 c with
  | .fin m e => onGrid m e (-10)
  | .nar => 0

/-! ### Distances in a collection (R101, R111) -/

/-- The rank key of the exact distance of two vectors of a format, NaR when an operand is a zero-norm vector of a
cosine collection. -/
def Collection.exactKey (c : Collection) (zero : Bool) (f : Fmt) (a b : List Nat) : Nat × Nat :=
  let d := dist c.metric f a b
  let nar := d.1 || (c.metric == 3 && zero)
  (rankKey nar d.2, cleanZero d.2)

/-! ### The walk (R89) -/

/-- The walk's three sets; frontier and best list are ascending by (key, partition). -/
structure WalkSets where
  seen : List Nat
  frontier : List (Nat × Nat)
  best : List (Nat × Nat)

def pairLt (a b : Nat × Nat) : Bool := keyLt a.1 a.2 b.1 b.2

/-- visit of R89: the best list keeps the np smallest entries. -/
def WalkSets.visit (key : Nat → Nat) (np : Nat) (w : WalkSets) (p : Nat) : WalkSets :=
  { seen := p :: w.seen
    frontier := insertBy pairLt (key p, p) w.frontier
    best := (insertBy pairLt (key p, p) w.best).take np }

/-- One batch of expansions: every unseen neighbour of the popped partitions is visited, in order. -/
def WalkSets.expand (key : Nat → Nat) (nbrs : Nat → List Nat) (np : Nat) (w : WalkSets) (batch : List (Nat × Nat)) :
    WalkSets :=
  (batch.flatMap fun b => nbrs b.2).foldl (fun w p => if w.seen.contains p then w else w.visit key np p) w

/-- The walk's loop; the fuel bounds its rounds, each of which pops at least one partition. -/
def walkLoop (key : Nat → Nat) (nbrs : Nat → List Nat) (np budget : Nat) : Nat → Nat → WalkSets → WalkSets
  | 0, _, w => w
  | fuel + 1, used, w =>
    match w.frontier, w.best.getLast? with
    | [], _ => w
    | f :: _, last =>
      let converged := match last with
        | some b => w.best.length == np && pairLt b f
        | none => false
      if used ≥ budget || converged then w
      else
        let n := min 64 (min (budget - used) w.frontier.length)
        let w1 := { w with frontier := w.frontier.drop n }
        walkLoop key nbrs np budget fuel (used + n) (w1.expand key nbrs np (w.frontier.take n))

/-- The probe set (R89), which is every partition or the walk's best list, and the partitions whose records the walk reads. -/
def Collection.walked (c : Collection) (g : Generation) (zero : Bool) (q8 : List Nat) (budget np : Nat) : List Nat × List Nat :=
  let nums := sortNats (g.parts.map (·.num))
  if np ≥ g.parts.length then (nums, nums)
  else
    let key (p : Nat) : Nat := match g.part? p with
      | some r => (c.exactKey zero .k8 q8 r.centroid).1
      | none => 0xFFFFFFFF
    let nbrs (p : Nat) : List Nat := match g.part? p with
      | some r => r.neighbours
      | none => []
    let start := (nums.take 64).foldl (WalkSets.visit key np) ⟨[], [], []⟩
    let w := walkLoop key nbrs np budget budget 0 start
    (w.best.map (·.2), w.seen)

/-- The probe set of a query (R89). -/
def Collection.probeSet (c : Collection) (g : Generation) (zero : Bool) (q8 : List Nat) (budget np : Nat) : List Nat :=
  (c.walked g zero q8 budget np).1

/-- The walk budget of a plan (chapter 3's plan table). -/
def Plan.budget (p : Plan) : Nat := if p.walkBudget == 0 then min 131072 (max 64 (2 * p.probe)) else p.walkBudget

/-- The candidate count c. -/
def Plan.cand (p : Plan) : Nat := if p.refine == 0 then p.k else p.refine

/-- Scan passes (R80). -/
def Plan.passes (p : Plan) : Nat := ceilDiv p.cand (64 * p.probe)

/-! ### Codes (R175 to R177) -/

/-- The partition of a vector from its K8 form (R176). -/
def Collection.assign (c : Collection) (g : Generation) (zero : Bool) (k8 : List Nat) : Nat :=
  (c.probeSet g zero k8 256 1).headD 0

/-- Entry b(j, k) of a codebook held as m × K × (d/m) codes, as fixed-point values (R721). -/
def Collection.bookEntry (c : Collection) (g : Generation) (j k : Nat) : List Int :=
  let w := c.dim / c.m
  ((g.codebook.drop ((j * c.bookSize + k) * w)).take w).map fixed10

/-- The sum of squares of differences of fixed-point values. -/
def sqDist (a b : List Int) : Int := ((a.zip b).map fun p => (p.1 - p.2) * (p.1 - p.2)).sum

/-- The index of the smallest value, the first on ties. -/
def argMin : List Int → Nat
  | [] => 0
  | x :: r => (r.foldl (fun (st : Nat × Nat × Int) y =>
      if y < st.2.2 then (st.1 + 1, st.1, y) else (st.1 + 1, st.2.1, st.2.2)) (1, 0, x)).2.1

/-- The code of a K8 form in a partition (R177). -/
def Collection.encodeSlot (c : Collection) (g : Generation) (centroid k8 : List Nat) : Bytes :=
  match c.form with
  | 2 => packRow .k8 k8
  | 3 => packRow .k4 (k8.map fun x => (encode .k4 (decode .k8 x) 0 0 0).1)
  | f =>
    let res := (k8.zip centroid).map fun p => fixed10 p.1 - fixed10 p.2
    let w := c.dim / c.m
    let subs := (List.range c.m).map fun j =>
      argMin ((List.range c.bookSize).map fun k => sqDist ((res.drop (j * w)).take w) (c.bookEntry g j k))
    if f == 0 then subs.map fun x => BitVec.ofNat 8 x else packRow .i4 subs

/-- The full vector of an input vector (R174). -/
def Collection.fullOf (c : Collection) (v : Vec) : List Nat :=
  if c.metric == 3 then normalise v.fmt c.full v.codes else convVec v.fmt c.full v.codes

/-- The K8 form of a full vector (R175). -/
def Collection.k8Of (c : Collection) (full : List Nat) : List Nat :=
  if c.full = .k8 then full else convVec c.full .k8 full

/-- Whether an input vector becomes a zero-norm vector (R33). -/
def Collection.isZeroNorm (c : Collection) (v : Vec) : Bool := c.metric == 3 && zeroNorm v.fmt v.codes

/-! ### Filters (R70, R71, R545, R546) -/

/-- The value of a numbered field of an attribute word: its w-bit pattern, and its value with the field's sign. -/
def FieldDef.read (f : FieldDef) (attr : Nat) : Nat × Int :=
  let p := bits attr f.hi f.lo
  (p, if f.signed then signedOf (f.hi + 1 - f.lo) p else p)

/-- An operand as the signed or unsigned 64-bit value it stands for. -/
def FieldDef.operand (f : FieldDef) (x : Nat) : Int := if f.signed then signedOf 64 x else x

/-- One predicate on an attribute word, after negation. -/
def Predicate.holds (p : Predicate) (map : List FieldDef) (allows : List AllowList) (attr : Nat) : Bool :=
  match map[p.field]? with
  | none => p.negate
  | some f =>
    let (pat, v) := f.read attr
    let w := f.hi + 1 - f.lo
    let r := match p.kind with
      | 0 => v == f.operand p.a
      | 1 => f.operand p.a ≤ v && v ≤ f.operand p.b
      | 2 => pat &&& (p.a % 2 ^ w) == p.b % 2 ^ w
      | _ => match allows[p.allowIndex]? with
        | some l => (l.bits.getD (pat / 8) 0).getLsbD (pat % 8)
        | none => false
    r != p.negate

def Filter.passes (f : Filter) (map : List FieldDef) (attr : Nat) : Bool :=
  f.preds.all fun p => p.holds map f.allows attr

/-! ### Lookup tables (R139, R140) -/

/-- A query's table for a partition: entries by subspace, step exponent e and binary32 base. -/
structure LookupTable where
  entries : List (List Nat)
  e : Int
  base : Nat

/-- t(j, k) × 2^20. -/
def Collection.tableValue (c : Collection) (g : Generation) (q p : List Int) (j k : Nat) : Int :=
  let w := c.dim / c.m
  let b := c.bookEntry g j k
  let qj := (q.drop (j * w)).take w
  if c.metric == 1 then sqDist (((q.zip p).map fun x => x.1 - x.2).drop (j * w) |>.take w) b
  else -((qj.zip b).map fun x => x.1 * x.2).sum

/-- The smallest f with S ≤ 65,535 × 2^f, from −16 up. -/
def stepExp (span : Nat) : Int :=
  match (List.range 128).find? fun i => span * 2 ^ 16 ≤ 65535 * 2 ^ i with
  | some i => (i : Int) - 16
  | none => 112

/-- T / 2^f truncated. -/
def shiftDown (t : Nat) (f : Int) : Nat := if f ≥ 0 then t / 2 ^ f.toNat else t * 2 ^ (-f).toNat

/-- The quantised table of R139. -/
def Collection.lookup (c : Collection) (g : Generation) (q8 centroid : List Nat) : LookupTable :=
  let q := q8.map fixed10
  let p := centroid.map fixed10
  let t := (List.range c.m).map fun j => (List.range c.bookSize).map fun k => c.tableValue g q p j k
  let mins := t.map fun r => r.foldl min (r.headD 0)
  let above := (t.zip mins).map fun x => x.1.map fun v => (v - x.2).toNat
  let span := (above.map fun r => r.foldl max 0).foldl max 0
  let f : Int := if span == 0 then -106 else stepExp span
  let k0 : Int := if c.metric == 1 then 0 else -((q.zip p).map fun x => x.1 * x.2).sum
  { entries := above.map fun r => r.map fun v => shiftDown v f
    e := f - 20
    base := (encodeF32 (.fin (k0 + mins.sum) (-20)) 0 0).1 }

/-- The subcodes of a PQ code. -/
def Collection.subcodes (c : Collection) (code : Bytes) : List Nat :=
  if c.form == 0 then code.map (·.toNat) else unpackRow .i4 code c.m

/-- The approximate distance of a PQ slot (R140). -/
def Collection.pqDist (c : Collection) (t : LookupTable) (code : Bytes) : Nat :=
  let s := ((t.entries.zip (c.subcodes code)).map fun x => x.1.getD x.2 0).sum
  (encodeF32 ((decodeF32 t.base).add (.fin s t.e)) 0 0).1

/-! ### The guard-bit datapath (R244) -/

/-- gsum: (−1)^neg × sig × 2^exp. -/
structure GSum where
  neg : Bool
  sig : Nat
  exp : Int
  deriving DecidableEq, Repr

/-- align of R244. -/
def gAlign (mag : Nat) (exp g : Int) : Nat :=
  if exp ≥ g then mag * 2 ^ (exp - g).toNat else if g - exp ≥ 64 then 0 else mag / 2 ^ (g - exp).toNat

/-- gb_step of R244. -/
def gbStep (a : GSum) (tneg : Bool) (tmag : Nat) (texp : Int) : GSum :=
  if tmag == 0 then a else
  let tt := texp + tmag.log2
  let top := if a.sig == 0 then tt else max (a.exp + 19) tt
  let g := top - 22
  let va : Int := if a.sig == 0 then 0 else gAlign a.sig a.exp g
  let vt : Int := gAlign tmag texp g
  let s := (if a.neg then -va else va) + (if tneg then -vt else vt)
  if s == 0 then ⟨false, 0, 0⟩ else
  let m := s.natAbs
  let h := m.log2
  if h > 19 then ⟨s < 0, m / 2 ^ (h - 19), g + h - 19⟩ else ⟨s < 0, m * 2 ^ (19 - h), g - (19 - h)⟩

/-- raw_sum of R244 as an exact value; metric 1 takes the squared-distance form. -/
def rawSum (metric : Nat) (q x : List Nat) : Val :=
  let a := (q.zip x).foldl (fun acc p =>
    let qv := fixed10 p.1
    let xv := fixed10 p.2
    let t := if metric == 1 then (qv - xv) * (qv - xv) else qv * xv
    gbStep acc (t < 0) t.natAbs (-20)) ⟨false, 0, 0⟩
  .fin (if a.neg then -(a.sig : Int) else a.sig) a.exp

/-- A raw code as K8 codes (R141, R142). -/
def Collection.rawCodes (c : Collection) (code : Bytes) : List Nat :=
  if c.form == 2 then unpackRow .k8 code c.dim
  else (unpackRow .k4 code c.dim).map fun x => (encode .k8 (decode .k4 x) 0 0 0).1

/-- The approximate rank key and distance of a slot (step 4 of R143, R145, R146). -/
def Collection.score (c : Collection) (t : LookupTable) (q8 : List Nat) (zeroQuery : Bool) (kind : SegKind) (code : Bytes) :
    Nat × Nat :=
  if kind = .zeroNorm || (c.metric == 3 && zeroQuery) then (0xFFFFFFFF, 0)
  else if c.pq then let d := c.pqDist t code; (rankKey false d, cleanZero d)
  else
    let codes := c.rawCodes code
    let nar := if c.form == 2 then codes.any (fun x => (decode .k8 x).isNar)
      else (unpackRow .k4 code c.dim).any fun x => (decode .k4 x).isNar
    let v := rawSum c.metric q8 codes
    let d := (encodeF32 (if c.metric == 1 then v else v.neg) 0 0).1
    (rankKey nar d, cleanZero d)

/-! ### Generations' structures (R715, R716) -/

/-- The neighbour list of a partition over a set of partitions (R715). -/
def neighbourList (parts : List (Nat × List Nat)) (p : Nat) (centroid : List Nat) : List Nat :=
  let others := (parts.filter fun x => x.1 != p).map fun x =>
    (rankKey false (dist 1 .k8 centroid x.2).2, x.1)
  sortNats (((sortBy pairLt others).take 32).map (·.2))

/-- Every partition's list over a generation's own partitions. -/
def withNeighbours (parts : List Partition) : List Partition :=
  let cs := parts.map fun p => (p.num, p.centroid)
  parts.map fun p => { p with neighbours := neighbourList cs p.num p.centroid }

/-! ### Writing slots (R40, R133, R145) -/

/-- A slot to be written: its partition, kind and contents. -/
structure NewSlot where
  part : Nat
  kind : SegKind
  slot : Slot
  /-- a later entry of the batch carries its ID, so it is never visible (R36, second paragraph) -/
  dead : Bool := false

/-- Slots of one partition and kind cut into segments of the greatest size, with slot indices from first. -/
def cutSegments (c : Collection) (owner gen part stack home first : Nat) (kind : SegKind) (seq : Option Nat) :
    Nat → List Slot → List Segment
  | 0, _ => []
  | fuel + 1, slots =>
    if slots.isEmpty then []
    else
      let n := min c.segMax slots.length
      { owner, seq, part, gens := [gen], firstSlot := first, kind
        lane := 64 * stack + home, slots := slots.take n, addr := 0, refArray := 0 }
        :: cutSegments c owner gen part stack home (first + n) kind seq fuel (slots.drop n)

/-- Tombstones, under the segments' own sequence, for those of a partition's new slots that are never visible. -/
def deadTombs (owner gen part first : Nat) (seq : Option Nat) (news : List NewSlot) : List Tomb :=
  ((List.range news.length).zip news).filterMap fun x =>
    if x.2.dead then some { gen, part, slot := first + x.1, seq, owner } else none

/-- New slots written into a generation's partitions as segments of an owner, and slot_total raised in every generation that shares
the partition. -/
def Collection.writeSlots (c : Collection) (owner gen : Nat) (seq : Option Nat) (news : List NewSlot) : Collection :=
  let groups := sortNats (news.map (·.part))
  groups.foldl (fun c p =>
    [SegKind.insert, SegKind.moved, SegKind.zeroNorm].foldl (fun c k =>
      let mine := news.filter fun n => n.part == p && n.kind = k
      let slots := mine.map (·.slot)
      match (c.gens.find? fun g => g.num == gen).bind fun g => g.part? p with
      | none => c
      | some r =>
        let segs := cutSegments c owner gen p r.stack r.home r.slotTotal k seq slots.length slots
        let bump (q : Partition) : Partition :=
          if q.num == p && q.owner == r.owner then { q with slotTotal := q.slotTotal + slots.length } else q
        let gens := c.gens.map fun g => { g with parts := g.parts.map bump }
        { c with segs := c.segs ++ segs, gens := gens
                 tombs := c.tombs ++ deadTombs owner gen p r.slotTotal seq mine }) c) c

/-- A tombstone for a slot of a segment (R61). -/
def tombOf (gen owner : Nat) (seq : Option Nat) (seg : Segment) (j : Nat) : Tomb :=
  { gen, part := seg.part, slot := seg.firstSlot + j, seq, owner }

/-- The newest generation. -/
def Collection.lastGen (c : Collection) : Nat := (c.gens.map (·.num)).foldl max 0

/-- The present slot total of a collection (R195): the slot totals of the newest generation's partitions. The spec does not say which
generations the total covers: DEDUCED, those of the generation that a retraining replaces (log 93). -/
def Collection.presentSlots (c : Collection) : Nat :=
  ((c.gens.find? fun g => g.num == c.lastGen).map fun g => sumBy (fun p : Partition => p.slotTotal) g.parts).getD 0

/-- The NewSlot of an insert entry against a generation (R174 to R177, R145). -/
def Collection.place (c : Collection) (g : Generation) (id attr : Nat) (v : Vec) (payload : Option Payload) : NewSlot :=
  let full := c.fullOf v
  let k8 := c.k8Of full
  let zero := c.isZeroNorm v
  let part := c.assign g zero k8
  let centroid := ((g.part? part).map (·.centroid)).getD []
  { part, kind := if zero then .zeroNorm else .insert
    slot := { code := c.encodeSlot g centroid k8, id, attr, full, ref := 0, payload } }

/-! ### Partitions that cannot be read (R196, R197) -/

/-- Whether a probe set meets a partition that is lost, or one rebuilt after the snapshot (R196, R197). -/
def Generation.unreadable (g : Generation) (snap : Nat) (probes : List Nat) : Bool :=
  probes.any fun p => ((g.part? p).any (·.lost)) || g.lostBelow.any fun x => x.1 == p && snap < x.2

end Sys2Proof.Machine
end

