-- ==== Sys2Proof/Machine/Operands.lean ====
section
/-!
DEFINITION. The operand forms: descriptor headers and bodies (chapter 15), tensor descriptors (chapter 11), filter
blocks, mutation entries and chunk envelopes, with the checks that R12 to R15 and R534 make of them.
-/

namespace Sys2Proof.Machine

/-! ### The common header (R530 to R533) -/

/-- The first failed check of a list, in order: whether it fails, and the status it gives (R534). -/
def firstBad (l : List (Bool × Result)) : Option Result := (l.find? (·.1)).map (·.2)

/-- word_a where no item is at fault (R535). -/
def noItem : Nat := 0xFFFFFFFF

/-- Opcodes in which flags[0] is ATOMIC (R531). -/
def atomicOps : List Nat := [0x20, 0x21, 0x22, 0x23, 0x31]

/-- Opcodes of interface generation 1. -/
def opcodes : List Nat := [0x00, 0x10, 0x11, 0x20, 0x21, 0x22, 0x23, 0x30, 0x31, 0x32, 0x40, 0x41, 0x50, 0x51]

/-- The unassigned or reserved body bytes of an opcode: offset and length (chapter 15's body tables). -/
def reservedBody (op : Nat) : List (Nat × Nat) :=
  match op with
  | 0x00 => [(0x10, 72)]
  | 0x10 | 0x11 => [(0x54, 4)]
  | 0x20 => [(0x1F, 1), (0x24, 52)]
  | 0x21 | 0x22 | 0x23 => [(0x1C, 60)]
  | 0x30 | 0x31 | 0x32 => [(0x24, 52)]
  | 0x40 => [(0x16, 2), (0x28, 48)]
  | 0x41 => [(0x18, 64)]
  | 0x50 => [(0x11, 3), (0x18, 64)]
  | _ => [(0x30, 40)]

/-- Whether a descriptor of a listed opcode holds a nonzero reserved bit or byte (R14, R533). -/
def reservedBad (op : Nat) (d : Bytes) : Bool :=
  byteAt d 1 / 16 != 0 || byteAt d 2 / 2 != 0 || (byteAt d 2 % 2 != 0 && !atomicOps.contains op) || byteAt d 3 != 0
    || !zeroAt d 0x0A 6 || (reservedBody op).any (fun r => !zeroAt d r.1 r.2) || !zeroAt d 0x58 40

/-- R12 and R14, for an opcode that is listed. -/
def headerFault (op : Nat) (d : Bytes) : Option Result :=
  firstBad [(byteAt d 1 % 16 != 1, .of 4), (reservedBad op d, .invalid 2 noItem)]

/-- The header of a descriptor whose opcode its row gives. -/
def headerOf (op : Nat) (d : Bytes) : Header :=
  { opcode := op, tag := field d 4 4, collection := field d 8 2, atomic := byteAt d 2 % 2 == 1 }

/-! ### Host bus addresses (R536, R363) -/

/-- Whether n bytes at an address break R536 for a structure with an alignment. -/
def addrBad (a n align : Nat) : Bool := a == 0 || a % align != 0 || a + n > 2 ^ 47

/-- As addrBad, where 0 names nothing. -/
def addrBadOpt (a n align : Nat) : Bool := a != 0 && addrBad a n align

/-! ### Tensor descriptors (R364 to R369, R723) -/

def parseTensor (b : Bytes) : TensorDesc :=
  { tier := byteAt b 0, format := byteAt b 1, rank := byteAt b 2, rsv3 := byteAt b 3
    scale := BitVec.ofNat 32 (field b 4 4), address := field b 8 8
    dims := [field b 0x10 4, field b 0x14 4, field b 0x18 4, field b 0x1C 4]
    strides := [field b 0x20 8, field b 0x28 8, field b 0x30 8], rsvTail := field b 0x38 8 }

def TensorDesc.fmt? (t : TensorDesc) : Option Fmt := if t.format < 16 then Fmt.ofCode t.format else none

/-- Strides of all four dimensions; dimension 0 is contiguous. -/
def TensorDesc.step (t : TensorDesc) (k : Nat) : Nat := if k == 0 then 1 else t.strides.getD (k - 1) 0

def TensorDesc.dim (t : TensorDesc) (k : Nat) : Nat := t.dims.getD k 1

/-- The element offset of an index. -/
def TensorDesc.offset (t : TensorDesc) (i : List Nat) : Nat :=
  ((List.range 4).map fun k => i.getD k 0 * t.step k).sum

/-- The element offset of the last element. -/
def TensorDesc.last (t : TensorDesc) : Nat := t.offset (t.dims.map fun d => d - 1)

/-- Bytes from the address to the end of the last element's container. -/
def TensorDesc.span (t : TensorDesc) (f : Fmt) : Nat := rowBytes f (t.last + 1)

/-- Elements of a tensor. -/
def TensorDesc.count (t : TensorDesc) : Nat := t.dims.foldl (· * ·) 1

/-- Bytes of a tensor's elements, row by row. -/
def TensorDesc.bytes (t : TensorDesc) (f : Fmt) : Nat := rowBytes f (t.dim 0) * (t.dim 1 * t.dim 2 * t.dim 3)

/-- All indices of a block of extents, dimension 0 fastest. -/
def indices (ext : List Nat) : List (List Nat) :=
  (List.range (ext.getD 3 1)).flatMap fun i3 => (List.range (ext.getD 2 1)).flatMap fun i2 =>
    (List.range (ext.getD 1 1)).flatMap fun i1 => (List.range (ext.getD 0 1)).map fun i0 => [i0, i1, i2, i3]

/-- The rules of R210 and R365 that need no address: true when a field is at fault. -/
def TensorDesc.fieldBad (t : TensorDesc) : Bool :=
  t.tier > 4 || t.fmt?.isNone || t.rank == 0 || t.rank > 4 || t.rsv3 != 0 || t.rsvTail != 0 || !scaleGood t.scale
    || t.dims.any (· == 0)
    || ((List.range 4).any fun k => k ≥ t.rank && (t.dim k != 1 || (k > 0 && t.step k != 0)))
    || (match t.fmt? with
        | some .k4 | some .i4 => (List.range 4).any fun k => k > 0 && t.step k % 2 != 0
        | some .k6 => (List.range 4).any fun k => k > 0 && t.step k % 4 != 0
        | _ => false)

/-- R366's density. -/
def TensorDesc.dense (t : TensorDesc) : Bool :=
  (List.range t.rank).all fun k => k == 0 || t.step k == t.step (k - 1) * t.dim (k - 1)

/-- R368's ordering of a destination. -/
def TensorDesc.ordered (t : TensorDesc) : Bool :=
  (List.range t.rank).all fun k => k == 0 || t.step k ≥ t.step (k - 1) * t.dim (k - 1)

/-- The driver region as a range of device addresses (R370). -/
def State.inDriverRegion (s : State) (a n : Nat) : Bool :=
  s.mem.regionBase ≤ a && a + n ≤ s.mem.regionBase + s.mem.regionGib * 2 ^ 30

/-- Open windows at the borrower: base and bytes (R386, R723). -/
def State.windows (s : State) : List (Nat × Nat) :=
  (s.mem.loans.filter fun l => l.borrow && l.opened).map fun l => (0x400000000000 + l.window * 0x4000000000, l.gib * 2 ^ 30)

/-- Whether a range lies in one open window. -/
def State.inWindow (s : State) (a n : Nat) : Bool := s.windows.any fun w => w.1 ≤ a && a + n ≤ w.1 + w.2

/-- The output and scratch tensors of loaded programs: address and bytes (R369). -/
def State.programTensors (s : State) : List (Nat × Nat) :=
  s.comp.programs.flatMap fun p => (p.tensors.filter fun t => (t.role == 2 || t.role == 3) && t.desc.tier == 1).map fun t =>
    (t.desc.address, (t.desc.fmt?.map t.desc.span).getD 0)

/-- An address fault of a tensor that a command names (R707): its elements lie outside the ranges of R361, outside the
open windows, off a 4 KiB boundary in tier 3, or in T1 outside what R369 permits. source: it is only read. -/
def State.tensorAddrBad (s : State) (t : TensorDesc) (source : Bool) : Bool :=
  match t.fmt? with
  | none => false
  | some f =>
    if t.tier > 4 || t.rank == 0 || t.rank > 4 || t.dims.any (· == 0) then false else
    let n := t.span f
    let a := t.address
    match t.tier with
    | 1 => !(s.inDriverRegion a n || (source && s.programTensors.any fun r => r.1 ≤ a && a + n ≤ r.1 + r.2))
    | 2 => !s.inWindow a n
    | 3 => a % 4096 != 0 || a + n > s.store.hostSectors * 4096
    | 4 => a < 0x800000000000 || a + n > 0x1000000000000
    | _ => false

/-- Whether every value of one format is exact in another (R220), or the formats are one. -/
def exactTarget (a b : Fmt) : Bool :=
  a = b || match a with
    | .k4 => [Fmt.k6, .k8, .k12, .k16, .k24, .f32].contains b
    | .k6 => [Fmt.k8, .k12, .k16, .k24, .f32].contains b
    | .k8 => [Fmt.k12, .k16, .k24, .f32].contains b
    | .k12 => [Fmt.k16, .k24, .f32].contains b
    | .k16 => [Fmt.k24, .f32].contains b
    | .k24 => b = .f32
    | _ => false

/-- The fields of one tensor of a MOVE_TENSOR beside its address (R365 to R367). -/
def TensorDesc.moveBad (t : TensorDesc) (source : Bool) : Bool :=
  t.fieldBad || t.tier == 0 || (t.tier == 3 && !t.dense)
    || (t.tier == 3 && !source && ((t.fmt?.map t.span).getD 0) % 4096 != 0)

/-- What R368 asks of a pair: equal dims and scales, an equal or exact target format, an ordered destination, no
overlap. -/
def pairBad (src dst : TensorDesc) : Bool :=
  match src.fmt?, dst.fmt? with
  | some f, some g =>
    src.dims != dst.dims || src.scale != dst.scale || !exactTarget f g || !dst.ordered
      || (src.tier == dst.tier && src.address < dst.address + dst.span g && dst.address < src.address + src.span f)
  | _, _ => true

/-- The fault of a MOVE_TENSOR's two descriptors (R707): address faults before others. The spec does not say which of
the two a fault of the pair names in word_a: a free value (log 23). -/
def State.moveFault (s : State) (src dst : TensorDesc) : Option Result :=
  firstBad [(s.tensorAddrBad src true || src.address ≥ 2 ^ 56, .invalid 5 0),
    (s.tensorAddrBad dst false || dst.address ≥ 2 ^ 56, .invalid 5 1),
    (src.moveBad true, .invalid 8 0), (dst.moveBad false, .invalid 8 1),
    (pairBad src dst, .invalid 8 (Config.freeNat s.free % 2))]

/-! ### Query bodies (chapter 15, QUERY and QUERY_BATCH; R67, R68) -/

def planOf (batch : Bool) (d : Bytes) : Plan :=
  { metric := byteAt d 0x50, k := field d 0x48 2, probe := field d 0x3C 4, walkBudget := field d 0x40 4
    refine := field d 0x4A 2, rerank := field d 0x38 4, operand := none, filter := ⟨[], []⟩
    snapshotReq := field d 0x28 8, deadline := byteAt d 0x52, sealing := byteAt d 0x53, resultAddr := field d 0x18 8
    resultLen := field d 0x44 4, batch }

/-- Bytes that a result region needs (R543). -/
def Plan.resultBytes (p : Plan) : Nat :=
  (if p.sealing == 0 then 64 else 96) + 16 * p.k + (if p.sealing == 2 then 4104 * p.k else 0)

/-- The formats a host vector may take. -/
def hostFormat (code : Nat) : Option Fmt := if [2, 4, 9].contains code then Fmt.ofCode code else none

/-- Bytes of a vector of a format. -/
def vecBytes (f : Fmt) (dim : Nat) : Nat := dim * (f.container / 8)

/-- Check 3 of a query: ranges, then addresses, then agreement with the collection (R724). -/
def State.queryBodyFault (s : State) (c : Collection) (batch : Bool) (d : Bytes) : Option Result :=
  let p := planOf batch d
  let n := field d 0x4E 2
  let members := if batch then n else 1
  let fmt := hostFormat (byteAt d 0x51)
  let dim := field d 0x4C 2
  let size := vecBytes (fmt.getD .k8) dim
  firstBad [
    (fmt.isNone || (if batch then n == 0 || n > 1024 else n != 0) || p.k == 0 || p.k > 4096 || p.probe == 0
      || p.probe > 65536 || p.walkBudget > 131072 || (p.refine != 0 && (p.refine < p.k || p.refine > 4096))
      || p.metric > 3 || p.deadline > 3 || p.sealing > 2 || p.resultLen < p.resultBytes
      || (batch && p.resultLen % 64 != 0), .invalid 4 noItem),
    (addrBad (field d 0x10 8) ((members - 1) * roundUp size 64 + size) 64
      || addrBad p.resultAddr (members * p.resultLen) 64 || addrBadOpt (field d 0x20 8) 0xE0 64
      || addrBadOpt (field d 0x30 8) 64 64, .invalid 5 noItem),
    (dim != c.dim || (p.metric != 0 && p.metric != c.metric) || (p.sealing == 2 && !c.payloads)
      || (p.sealing == 0 && c.sealRequired)
      || (p.rerank != 0 && !s.comp.programs.any (fun q => q.handle == p.rerank && q.bound == some c.cid && q.kind == 2)),
      .invalid 6 noItem)]

/-- The i-th member's vector of a query (R542). -/
def memberVec (d : Bytes) (h : HostImage) (fmt : Fmt) (i : Nat) : Vec :=
  let dim := field d 0x4C 2
  let size := vecBytes fmt dim
  { fmt, codes := unpackRow fmt (hostRead h (field d 0x10 8 + i * roundUp size 64) size) dim }

/-! ### The filter block (R70, R71, R545 to R547) -/

def parsePredicate (b : Bytes) : Predicate :=
  { kind := byteAt b 0, field := byteAt b 1, negate := byteAt b 2 % 2 == 1, allowIndex := byteAt b 3
    a := field b 8 8, b := field b 0x10 8 }

/-- Whether an operand's upper bits are its field's extension (R545). -/
def FieldDef.extended (f : FieldDef) (x : Nat) : Bool :=
  let w := f.hi + 1 - f.lo
  if f.signed then signedOf 64 x == signedOf w x else x < 2 ^ w

/-- A predicate entry's faults. -/
def predicateBad (map : List FieldDef) (allowFields : List Nat) (b : Bytes) : Bool :=
  let p := parsePredicate b
  byteAt b 2 / 2 != 0 || !zeroAt b 4 4 || p.kind > 3 || match map[p.field]? with
    | none => true
    | some f =>
      if p.kind == 3 then
        p.a != 0 || p.b != 0 || p.allowIndex > 1 || allowFields[p.allowIndex]? != some p.field
      else
        p.allowIndex != 0 || !f.extended p.a || (p.kind == 0 && p.b != 0) || (p.kind != 0 && !f.extended p.b)

/-- The fault of a filter block (check 5). -/
def State.filterFault (s : State) (c : Collection) (b : Bytes) : Option Result :=
  let np := byteAt b 0
  let na := byteAt b 1
  let fields := (List.range na).map fun i => byteAt b (2 + i)
  let addrs := (List.range na).map fun i => field b (8 + 8 * i) 8
  let width (n : Nat) : Nat := match c.fields[n]? with
    | some f => f.hi + 1 - f.lo
    | none => 0
  firstBad ([
    (np > 8 || na > 2 || !zeroAt b 4 4 || !zeroAt b 0x18 8, .invalid 8 noItem),
    ((List.range 2).any (fun i => i ≥ na && (byteAt b (2 + i) != 0 || field b (8 + 8 * i) 8 != 0)), .invalid 8 noItem),
    (fields.any (fun n => c.fields[n]?.isNone || width n > 16), .invalid 8 noItem),
    ((fields.zip addrs).any (fun x => x.2 % 64 != 0 || x.2 ≥ 2 ^ 48 || !s.inDriverRegion x.2 (ceilDiv (2 ^ width x.1) 8)),
      .invalid 5 noItem)]
    ++ (List.range 8).map fun i =>
      let e := slice b (0x20 + 24 * i) 24
      (if i < np then predicateBad c.fields fields e else !zeroAt e 0 24, Result.invalid 8 i))

/-- The filter of a block, its allow-lists not yet read. -/
def filterOf (b : Bytes) : Filter :=
  { preds := (List.range (byteAt b 0)).map fun i => parsePredicate (slice b (0x20 + 24 * i) 24)
    allows := (List.range (byteAt b 1)).map fun i => ⟨byteAt b (2 + i), field b (8 + 8 * i) 8, []⟩ }

/-- The rerank operand's fault (R541): present exactly with a program, valid, and of slot 0's format and dims. -/
def State.operandFault (s : State) (p : Plan) (addr : Nat) (h : HostImage) : Option Result :=
  let t := parseTensor (hostRead h addr 64)
  let want := ((s.comp.programs.find? fun q => q.handle == p.rerank).bind fun q =>
    q.tensors.find? fun e => e.role == 1 && e.argSlot == 0).map (·.desc)
  firstBad [((addr != 0) != (p.rerank != 0), .invalid 8 noItem),
    (addr != 0 && (t.fieldBad || t.tier == 0 || s.tensorAddrBad t true
      || want.map (fun w => (w.format, w.dims)) != some (t.format, t.dims)), .invalid 8 noItem)]

/-- Check 5 of a query: its vectors, its filter block and its rerank operand. -/
def State.queryHostFault (s : State) (c : Collection) (batch : Bool) (d : Bytes) (h : HostImage) : Option Result :=
  let p := planOf batch d
  let fmt := (hostFormat (byteAt d 0x51)).getD .k8
  let members := if batch then field d 0x4E 2 else 1
  let bad := (List.range members).find? fun i => (memberVec d h fmt i).codes.any (inputRefused fmt)
  match bad with
  | some i => some (.invalid 7 (if batch then i else noItem))
  | none =>
    let filter := field d 0x20 8
    match if filter == 0 then none else s.filterFault c (hostRead h filter 0xE0) with
    | some r => some r
    | none => s.operandFault p (field d 0x30 8) h

/-- A member of a query from its vector, in its forms (R69). -/
def newMember (c : Collection) (i : Nat) (v : Vec) : Member :=
  let conv (g : Fmt) : List Nat := if c.metric == 3 then normalise v.fmt g v.codes else convVec v.fmt g v.codes
  { idx := i, vec := v, q8 := conv .k8, q16 := conv .k16, probes := [], exhaustive := false, lists := [], cand := []
    refined := [], refLeft := [], reranked := none, narRefine := 0, narRerank := 0, dupMerged := false
    epochDropped := 0, rerankSkipped := false, status := none, order := 0, full := [], transit := [], asked := [], querySlot := 0, faultAt := noItem }

/-- Whether a member's query vector is a zero-length vector of a cosine collection (R69, R111). -/
def Member.zeroLength (c : Collection) (m : Member) : Bool := c.metric == 3 && zeroNorm m.vec.fmt m.vec.codes

/-- The work of a query that passed its checks. -/
def State.newQuery (s : State) (c : Collection) (batch : Bool) (d : Bytes) (h : HostImage) : QueryWork :=
  let p := planOf batch d
  let fmt := (hostFormat (byteAt d 0x51)).getD .k8
  let filter := field d 0x20 8
  let op := field d 0x30 8
  { plan := { p with
      filter := if filter == 0 then ⟨[], []⟩ else filterOf (hostRead h filter 0xE0)
      operand := if op == 0 then none else some (parseTensor (hostRead h op 64)) }
    members := (List.range (if batch then field d 0x4E 2 else 1)).map fun i => newMember c i (memberVec d h fmt i)
    phase := .waiting, fetchRound := s.clock.round, snapshot := 0, gen := 0, admitRound := 0, bound := 0, admitNo := 0
    lean := false, bMax := 0, windowRound := 0, refineRound := 0 }

/-! ### Envelopes (R158, R159) -/

/-- A chunk envelope at a bus address, as it was read. -/
structure Envelope where
  suite : Nat
  flags : Nat
  aad : Bytes
  cipher : Bytes
  id : Nat
  attr : Nat
  keyId : Nat
  nonce : Bytes
  tag : Bytes
  bad : Bool
  deriving DecidableEq, Repr

def readEnvelope (h : HostImage) (a : Nat) : Envelope :=
  let b := hostRead h a 64
  let aadLen := field b 2 2
  let ctLen := field b 4 4
  let bad := !(byteAt b 0 == 1 || byteAt b 0 == 2) || byteAt b 1 / 4 != 0 || aadLen > 1024 || ctLen == 0 || ctLen > 65536
    || !zeroAt b 0x38 8
  { suite := byteAt b 0, flags := byteAt b 1
    aad := slice b 0 8 ++ (if byteAt b 1 / 2 % 2 == 1 then slice b 8 16 else []) ++
      (if bad then [] else hostRead h (a + 64) aadLen)
    cipher := if bad then [] else hostRead h (a + 64 + roundUp aadLen 64) ctLen
    id := field b 8 8, attr := field b 0x10 8, keyId := field b 0x18 4, nonce := slice b 0x1C 12, tag := slice b 0x28 16
    bad }

/-- Bytes that an envelope takes in host memory. -/
def envelopeBytes (h : HostImage) (a : Nat) : Nat :=
  let b := hostRead h a 64
  64 + roundUp (field b 2 2) 64 + field b 4 4

/-- An envelope's address fault (R536). -/
def envelopeAddrBad (h : HostImage) (a : Nat) : Bool :=
  addrBad a 64 64 || (!(readEnvelope h a).bad && addrBad a (envelopeBytes h a) 64)

/-- The key of a collection that the engines hold and that check 6 may use (R162, R613). -/
def Collection.key? (c : Collection) (id : Nat) : Option CollKey := c.keys.find? fun k => k.keyId == id && !k.withdrawn

/-- The root key, while it is held and not withdrawn. -/
def Collection.root? (c : Collection) : Option CollKey := c.keys.find? fun k => k.root && !k.withdrawn

/-- The plaintext of an envelope under its key; none when the tag fails. -/
def Collection.openEnvelope (c : Collection) (e : Envelope) : Option Bytes :=
  (c.key? e.keyId).bind fun k => Config.gcmOpen e.suite k.key e.nonce e.aad e.cipher e.tag

/-! ### Mutation bodies -/

/-- One insert entry as read: ID, attribute word, envelope of its payload, vector, and its fault. -/
structure InsertItem where
  id : Nat
  attr : Nat
  env : Option Envelope
  vec : Vec
  fault : Option Result
  deriving DecidableEq, Repr

/-- The reserved ID (R34). -/
def reservedId : Nat := 0xFFFFFFFFFFFFFFFF

def readInsert (c : Collection) (h : HostImage) (fmt : Fmt) (dim a i : Nat) : InsertItem :=
  let b := hostRead h a 32
  let pay := field b 0x10 8
  let env := if pay == 0 then none else some (readEnvelope h pay)
  let vec : Vec := { fmt, codes := unpackRow fmt (hostRead h (a + 32) (vecBytes fmt dim)) dim }
  let id := field b 0 8
  let attr := field b 8 8
  let envBad := match env with
    | none => false
    | some e => e.bad || e.flags % 2 == 0 || e.id != id || e.attr != attr
  { id, attr, env, vec
    fault := firstBad [(!zeroAt b 0x18 8, .invalid 8 i), (id == reservedId, .invalid 7 i),
      (pay != 0 && envelopeAddrBad h pay, .invalid 5 i), (envBad, .invalid 8 i),
      (env.isSome && !c.payloads, .invalid 6 i), (vec.codes.any (inputRefused fmt), .invalid 7 i)] }

/-- Bytes of journal per batch entry of a kind (chapter 6, journal record sizes). -/
def MutKind.entryBytes : MutKind → Nat
  | .insert | .embed => 48
  | .delete => 16
  | .setAttr => 24

/-- The atomic size of a mutation of n entries (R181). -/
def atomicSize (k : MutKind) (n : Nat) : Nat := 64 + n * k.entryBytes

/-- The atomic limit of the store as it stands (R181, R392). -/
def State.atomicLimit (s : State) : Nat := if s.store.format == 1 && s.store.converting.isNone then 262144 else 4096

/-- Checks 6 and 7 for a command's envelopes: the key of each, the root key where a payload is kept, then the tags
(R162, R616, R161). -/
def Collection.envelopeFault (c : Collection) (envs : List (Nat × Envelope)) : Option Result :=
  if envs.any fun e => (c.key? e.2.keyId).isNone || (e.2.flags % 2 == 1 && c.root?.isNone) then some (.of 7)
  else match envs.find? fun e => (c.openEnvelope e.2).isNone with
    | some e => some ⟨0x0D, 0, 0, e.1, 0, 0⟩
    | none => none

/-- The faults that checks 3, 4 and 5 find in an INSERT, and its items. -/
def State.insertFault (s : State) (c : Collection) (d : Bytes) (h : HostImage) : Option Result × List InsertItem :=
  let n := field d 0x18 4
  let dim := field d 0x1C 2
  let fmt := hostFormat (byteAt d 0x1E)
  let f := fmt.getD .k8
  let step := field d 0x20 4
  let a := field d 0x10 8
  match firstBad [
    (n == 0 || n > 65536 || fmt.isNone || step % 64 != 0 || step < 32 + vecBytes f dim, .invalid 4 noItem),
    (addrBad a ((n - 1) * step + 32 + vecBytes f dim) 64, .invalid 5 noItem),
    (dim != c.dim || c.home != s.group.index, .invalid 6 noItem),
    (byteAt d 2 % 2 == 1 && atomicSize .insert n > s.atomicLimit, .of 0x0B)] with
  | some r => (some r, [])
  | none =>
    let items := (List.range n).map fun i => readInsert c h f dim (a + i * step) i
    match items.findSome? (·.fault) with
    | some r => (some r, items)
    | none =>
      (c.envelopeFault (((List.range n).zip items).filterMap fun x => x.2.env.map fun e => (x.1, e)), items)

/-- The faults of a DELETE or SET_ATTR, and its entries. -/
def State.idsFault (s : State) (c : Collection) (k : MutKind) (d : Bytes) (h : HostImage) :
    Option Result × List MutEntry :=
  let n := field d 0x18 4
  let w := if k = .delete then 8 else 16
  let a := field d 0x10 8
  match firstBad [(n == 0 || n > 65536, .invalid 4 noItem), (addrBad a (n * w) 64, .invalid 5 noItem),
    (c.home != s.group.index, .invalid 6 noItem),
    (byteAt d 2 % 2 == 1 && atomicSize k n > s.atomicLimit, .of 0x0B)] with
  | some r => (some r, [])
  | none =>
    let es := (List.range n).map fun i =>
      let b := hostRead h (a + i * w) w
      ({ id := field b 0 8, attr := if w == 16 then field b 8 8 else 0, vec := none, payload := none, record := none } : MutEntry)
    match (List.range n).find? fun i => ((es.map (·.id)).getD i 0) == reservedId with
    | some i => (some (.invalid 7 i), es)
    | none => (none, es)

/-! ### Tokenizing (R169) -/

/-- The rank of a token pair: its first index in the merge list. -/
def Tokenizer.rank (t : Tokenizer) (x y : Nat) : Option Nat := t.merges.findIdx? fun p => p.1 == x && p.2 == y

/-- The best rank of a token list. -/
def Tokenizer.best (t : Tokenizer) : List Nat → Option Nat
  | x :: y :: r =>
    match t.rank x y, Tokenizer.best t (y :: r) with
    | some a, some b => some (min a b)
    | some a, none => some a
    | none, o => o
  | _ => none

/-- Every occurrence of one merge joined, left to right. After a merge the next position is the one behind the joined
token, as the pseudocode's p = p + 1 gives. -/
def Tokenizer.mergeAll (t : Tokenizer) (m : Nat) : Nat → List Nat → List Nat
  | 0, l => l
  | fuel + 1, x :: y :: r =>
    if t.rank x y == some m then (256 + m) :: mergeAll t m fuel r else x :: mergeAll t m fuel (y :: r)
  | _, l => l

/-- The merge loop; each round shortens the list, so its first length is fuel enough. -/
def Tokenizer.loop (t : Tokenizer) : Nat → List Nat → List Nat
  | 0, l => l
  | fuel + 1, l =>
    match t.best l with
    | none => l
    | some m => Tokenizer.loop t fuel (t.mergeAll m l.length l)

/-- The token sequence of a plaintext and whether it was truncated (R169). -/
def Tokenizer.run (t : Tokenizer) (plain : Bytes) : List Nat × Bool :=
  let l := t.loop plain.length (plain.map (·.toNat))
  let head := t.bos != 0xFFFFFFFF
  let tail := t.eos != 0xFFFFFFFF
  let room := t.maxTokens - head.toNat - tail.toNat
  ((if head then [t.bos] else []) ++ l.take room ++ (if tail then [t.eos] else []), l.length > room)

/-- The faults of an EMBED_INSERT, and its envelopes in list order. -/
def State.embedFault (s : State) (c : Collection) (d : Bytes) (h : HostImage) : Option Result × List Envelope :=
  let n := field d 0x18 4
  let a := field d 0x10 8
  match firstBad [(n == 0 || n > 4096, .invalid 4 noItem), (addrBad a (8 * n) 64, .invalid 5 noItem),
    (c.tokenizer.isNone || c.embed == 0 || c.home != s.group.index, .invalid 6 noItem),
    (byteAt d 2 % 2 == 1 && atomicSize .embed n > s.atomicLimit, .of 0x0B)] with
  | some r => (some r, [])
  | none =>
    let addrs := (List.range n).map fun i => field (hostRead h (a + 8 * i) 8) 0 8
    let envs := addrs.map (readEnvelope h)
    let bad := (List.range n).findSome? fun i =>
      let ad := addrs.getD i 0
      let e := readEnvelope h ad
      firstBad [(envelopeAddrBad h ad, .invalid 5 i), (e.bad, .invalid 8 i), (e.id == reservedId, .invalid 7 i),
        (e.flags % 2 == 1 && !c.payloads, .invalid 6 i)]
    match bad with
    | some r => (some r, envs)
    | none => (c.envelopeFault ((List.range n).zip envs), envs)

/-! ### Program arguments (R312, R707) -/

/-- Whether a block entry of a program's pool names a tensor as its destination (R283, R311). -/
def poolWrites (pool : List Bytes) (tensor : Nat) : Bool := pool.any fun e => byteAt e 0x1F == 2 && byteAt e 1 == tensor

/-- Whether a program writes the argument of a slot. -/
def Program.writesArg (p : Program) (slot : Nat) : Bool :=
  ((List.range p.tensors.length).zip p.tensors).any fun x => x.2.role == 1 && x.2.argSlot == slot && poolWrites p.pool x.1

/-- The fault of a RUN_PROGRAM's body and argument descriptors. -/
def State.runFault (s : State) (d : Bytes) (h : HostImage) : Option Result :=
  let handle := field d 0x10 4
  let mask := field d 0x14 2
  let a := field d 0x20 8
  match s.comp.programs.find? fun p => p.handle == handle with
  | none => some (.invalid 4 noItem)
  | some p =>
    let slots := sortNats ((p.tensors.filter fun t => t.role == 1).map (·.argSlot))
    match slots.find? fun i => !mask.testBit i with
    | some i => some (.invalid 4 i)
    | none =>
      let used := (List.range 16).filter fun i => mask.testBit i
      let desc (i : Nat) : TensorDesc := parseTensor (hostRead h (a + 64 * i) 64)
      firstBad ([(mask != 0 && addrBad a 1024 64, .invalid 5 noItem), (mask == 0 && a != 0, .invalid 5 noItem)]
        ++ used.map (fun i => (s.tensorAddrBad (desc i) true || (desc i).address ≥ 2 ^ 56, .invalid 5 i))
        ++ used.map fun i =>
          let t := desc i
          let want := (p.tensors.find? fun e => e.role == 1 && e.argSlot == i).map (·.desc)
          (t.moveBad (!p.writesArg i) || (want.any fun w => w.format != t.format || w.dims != t.dims), .invalid 8 i))

end Sys2Proof.Machine
end

