-- ==== Sys2Proof/Machine/Fetch.lean ====
section
/-!
DEFINITION. Chapter 14: when a ring is eligible, the arbiter's grants, what fences cover, and the fetch of a
descriptor.
-/

namespace Sys2Proof.Machine

/-! ### Eligibility (R492, R497, R508, R513, R568) -/

/-- Descriptors that a ring holds. -/
def SubRing.pending (r : SubRing) : Nat := (r.tail + r.size - r.head) % r.size

/-- Credit of a completion ring (R497): size − 1, less entries not yet freed, less outstanding commands bound to it. -/
def State.credit (s : State) (q : CmpRing) : Nat :=
  q.size - 1 - q.used - (s.rings.cmds.filter fun c => c.cq == q.num && !c.unreachable).length

/-- Whether a FENCE holds its ring (R513). -/
def State.held (s : State) (ring : Nat) : Bool :=
  s.rings.cmds.any fun c => c.ring == ring && !c.unreachable && match c.body with
    | .fence _ => true
    | _ => false

/-- Plaintext bytes of pending EMBED_INSERTs (R180). -/
def State.pendingPlain (s : State) : Nat :=
  sumBy (fun c => match c.body with
    | .mutation m => if c.admitted then 0 else sumBy (fun k => k.plain.length) m.chunks
    | _ => 0) s.rings.cmds

/-- The limit of R180, 4 GiB of pending plaintext, is reached where a further EMBED_INSERT, of up to 4,096 chunks of 64 KiB, could
pass it (log 24). -/
def State.plainFull (s : State) : Bool := s.pendingPlain + 2 ^ 28 > 2 ^ 32

/-- R492's limits on outstanding commands. -/
def State.roomOutstanding (s : State) (ring : Nat) : Bool :=
  s.rings.cmds.length < 131072 && (ring == 0 || (s.rings.cmds.filter fun c => c.ring != 0).length < 130048)

/-- R508 for a ring whose next descriptor has a given opcode. -/
def State.eligible (s : State) (op : Nat) (r : SubRing) : Bool :=
  r.pending > 0 && !r.badWord && !r.stopped && (op == 0x50 || !s.held r.num) && s.roomOutstanding r.num
    && (op != 0x23 || !s.plainFull) && ((s.cq? r.cq).any fun q => s.credit q > 0)

/-- Eligibility of every ring as the fetch of one ring's descriptor sees it. The next descriptors of the other rings
lie in host memory: which of them are EMBED_INSERTs, and blocked while the limit of R180 is reached, is free (log 24). -/
def State.eligibleFor (s : State) (ring op : Nat) (r : SubRing) : Bool :=
  if r.num == ring then s.eligible op r else s.eligible (if Config.embedNext r.num r.fetches then 0x23 else 0) r

/-! ### The arbiter (R509) -/

/-- The next eligible ring of a class at or after a number, wrapping. -/
def nextEligible (rings : List SubRing) (ok : SubRing → Bool) (cls start : Nat) : Option SubRing :=
  let l := sortBy (fun a b : SubRing => a.num < b.num) (rings.filter fun r => r.num != 0 && r.cls == cls && ok r)
  match l.find? fun r => r.num ≥ start with
  | some r => some r
  | none => l.head?

/-- The arbiter's place: class, share left, weights in force, and the granted batch. -/
structure Arb where
  cls : Nat
  left : Nat
  weights : List Nat
  batch : Nat × Nat
  nxt : List Nat

/-- The search for a grant from a class onward; a class without an eligible ring, or with no share left, gives way to
the next, and the weights of the next cycle apply when it wraps. -/
def State.search (s : State) (ok : SubRing → Bool) : Nat → Nat → Nat → List Nat → Option Arb
  | 0, _, _, _ => none
  | fuel + 1, cls, left, weights =>
    let found := if left == 0 then none else nextEligible s.rings.sqs ok cls (s.rings.nxt.getD cls 1)
    match found with
    | some r =>
      let n := min 8 (min r.pending left)
      some ⟨cls, left - n, weights, (r.num, n), s.rings.nxt.set cls (r.num + 1)⟩
    | none =>
      let w := if cls == 3 then s.rings.nextWeights else weights
      let c := (cls + 1) % 4
      s.search ok fuel c (w.getD c 1) w

/-- The grant that the arbiter's next fetch belongs to: the batch under way, ring 0 first of all, or a new search. -/
def State.nextGrant (s : State) (ok : SubRing → Bool) : Option Arb :=
  let cont : Option Arb := match s.rings.batch with
    | some (r, n) =>
      if n > 0 && (s.rings.sqs.any fun x => x.num == r && ok x) then
        some ⟨s.rings.cls, s.rings.left, s.rings.weights, (r, n), s.rings.nxt⟩
      else none
    | none => none
  match cont with
  | some a => some a
  | none =>
    match s.rings.sqs.find? fun x => x.num == 0 && ok x with
    | some r => some ⟨s.rings.cls, s.rings.left, s.rings.weights, (0, min 8 r.pending), s.rings.nxt⟩
    | none => s.search ok 6 s.rings.cls s.rings.left s.rings.weights

/-- Whether the device fetches this ring's next descriptor now: the host path is up, the ring service runs, and the
ring is the arbiter's next grant. -/
def State.mayFetch (s : State) (ring op : Nat) : Bool :=
  !s.regs.untethered && s.serves Component.ringService
    && ((s.nextGrant (s.eligibleFor ring op)).any fun a => a.batch.1 == ring)

/-! ### The fetch (R490, R497, R512, R515, R516) -/

/-- A fetch moves the arbiter on: one descriptor of the granted batch is taken. -/
def State.arbStep (s : State) (ring op : Nat) : State :=
  match s.nextGrant (s.eligibleFor ring op) with
  | none => s
  | some a => { s with rings.cls := a.cls, rings.left := a.left, rings.weights := a.weights, rings.nxt := a.nxt
                       rings.batch := if a.batch.2 ≤ 1 then none else some (a.batch.1, a.batch.2 - 1) }

/-- A fetched command joins the fences that cover its position, unless it is an ABORT (R512, R515); a later FENCE cuts
what earlier fences cover on its ring. What counts as a FENCE or an ABORT is the opcode byte alone, also where the descriptor fails the
checks of R12 or R14, on which the spec is silent: DESIGN CHOICE (log 116). -/
def FenceWork.onFetch (f : FenceWork) (ring pos op cid : Nat) : FenceWork :=
  if f.unfetched.any fun u => u.1 == ring && pos < u.2 then
    if op == 0x51 then { f with unfetched := f.unfetched.map fun u => if u.1 == ring then (ring, min u.2 pos) else u }
    else if op == 0x50 then f
    else { f with covered := f.covered ++ [cid], total := f.total + 1 }
  else f

/-- A descriptor taken from its ring: the head advances, and the command becomes outstanding. -/
def State.take (s : State) (r : SubRing) (hdr : Header) (body : CmdBody) (admitted : Bool) : State :=
  let cid := s.rings.nextCid
  let s1 := ((s.arbStep r.num hdr.opcode).readOk r.base (128 * r.size)).updSq r.num fun x =>
    { x with head := (x.head + 1) % x.size, fetches := x.fetches + 1, doomed := x.doomed.filter fun p => p != x.fetches }
  let cmd : Cmd := { cid, ring := r.num, cq := r.cq, hdr, body, admitted, fetchTime := s.clock.groupTime, held := none
                     unreachable := false, finished := false }
  let cmds := s1.rings.cmds.map fun c => match c.body with
    | .fence f => { c with body := .fence (f.onFetch r.num r.fetches hdr.opcode cid) }
    | _ => c
  { s1 with rings.cmds := cmds ++ [cmd], rings.nextCid := cid + 1 }

/-- The faults that every descriptor meets before its own checks: an earlier ABORT of it, R12, R14, shelter mode (R661)
and ring 0 (R493). -/
def State.commonFault (s : State) (r : SubRing) (op : Nat) (d : Bytes) : Option Result :=
  if r.doomed.contains r.fetches then some (.of 1)
  else match headerFault op d with
    | some e => some e
    | none =>
      firstBad [(s.regs.shelter && !([0x00, 0x50, 0x51].contains op), .of 0x0A),
        (r.num == 0 && !([0x00, 0x50, 0x51].contains op), .invalid 3 noItem)]

/-- A descriptor fetched and completed at once with a status. -/
def State.fetchDone (s : State) (r : SubRing) (op : Nat) (d : Bytes) (res : Result) : State :=
  (s.take r (headerOf op d) .plain true).complete s.rings.nextCid res

/-- The fetch of a descriptor: completed at once where a check fails, and otherwise left with its work. -/
def State.fetchWith (s : State) (r : SubRing) (op : Nat) (d : Bytes) (fault : Option Result) (body : CmdBody)
    (admitted : Bool) : State :=
  match s.commonFault r op d with
  | some e => s.fetchDone r op d e
  | none =>
    match fault with
    | some e => s.fetchDone r op d e
    | none => s.take r (headerOf op d) body admitted

/-- The outcome of a fetch row: it is passed over where the arbiter does not grant the ring, or where the descriptor has
another opcode than the row's. -/
def fetchEvent (s : State) (ring op : Nat) (desc : Bytes) (effect : SubRing → State) : Host.Outcome State Fault Refusal :=
  match s.sq? ring with
  | none => .next s
  | some r => asked s (s.mayFetch ring op && byteAt desc 0 == op) (effect r)

/-- The collection that a descriptor names (check 2, R29, R64). -/
def State.coll? (s : State) (id : Nat) : Option Collection := s.colls.find? fun c => c.cid == id

/-- A collection's record changed. -/
def State.updColl (s : State) (id : Nat) (f : Collection → Collection) : State :=
  { s with colls := updWhere (fun c => c.cid == id) f s.colls }

/-- The collection on which commands may act: it exists and is not dropping. -/
def State.usable (s : State) (id : Nat) : Option Collection :=
  s.colls.find? fun c => c.cid == id && c.load != .dropping && id < 0x1000

end Sys2Proof.Machine
end

