-- ==== Sys2Proof/Machine/Flags.lean ====
section
/-!
DEFINITION. The status bits and readings that follow from state: shedding stages and ceilings (chapter 18), HIF_STATUS
and the other computed registers of BAR0 (chapter 13), and the SMBus registers (chapter 20).
-/

namespace Sys2Proof.Machine

/-! ### Shedding stages and the power ceiling (R627 to R634, R639, R640) -/

/-- The thermal stage: the highest that a sensor holds (R640). -/
def State.thermalStage (s : State) : Nat := (s.power.thermalStages.map (·.2)).foldl max 0

/-- The PWRBRK# stage (R634). -/
def State.pwrbrkStage (s : State) : Nat := if s.power.pwrbrk then 3 else 0

/-- The shedding stage in force: the highest of the four sources. -/
def State.shed (s : State) : Nat := max (max s.power.voltage s.power.capStage) (max s.pwrbrkStage s.thermalStage)

/-- The power ceiling in force: the lowest of the board cap, the sense ceiling, the thermal ceiling, and 250 W while
PWRBRK# is asserted. -/
def State.ceiling (s : State) : Nat :=
  let c := min s.power.cap (min s.power.sense s.power.thermal)
  if s.power.pwrbrk then min c 250 else c

/-- Which sources hold a stage: [0] voltage, [1] cap, [2] PWRBRK#, [3] thermal (POWER_CAP reply). -/
def State.stageSources (s : State) : Nat :=
  bitsNat [s.power.voltage > 0, s.power.capStage > 0, s.power.pwrbrk, s.thermalStage > 0]

/-! ### Computed registers of BAR0 (chapter 13) -/

/-- Whether the module belongs to a group of more than one. -/
def State.groupMember (s : State) : Bool := s.group.size > 1

/-- The module index as the host sees it: 0 in a group of one. -/
def State.moduleIndex (s : State) : Nat := if s.groupMember then s.group.index else 0

/-- HIF_STATUS.staged_pending (R473). -/
def State.stagedPending (s : State) : Bool :=
  s.regs.sleepShadow.isSome || s.regs.watchShadow.isSome || s.regs.ptmShadow.isSome || s.staged.isSome

/-- HIF_STATUS. -/
def State.hifStatus (s : State) : Nat :=
  bitsNat [s.regs.ready, s.regs.untethered, s.regs.shelter, s.stagedPending] + 64 * s.regs.adminReady.toNat
    + 128 * s.regs.asleep.toNat + 256 * s.groupMember.toNat + 512 * s.shed + 0x10000 * s.regs.step

/-- The host path runs (R474). -/
def State.hostPathRuns (s : State) : Bool := !s.regs.untethered || s.regs.adminReady

/-- A bit of HIF_ERROR_LOG set by an access at an offset: HIF_ERROR_ADDR holds the first such access while the log was
all clear (chapter 13). host_read_failed, bit 3, names no access. -/
def State.errorLog (s : State) (bit : Nat) (off : Nat) : State :=
  let addr := if s.regs.errLog == 0 && bit < 3 then BitVec.ofNat 17 off else s.regs.errAddr
  { s with regs.errLog := s.regs.errLog ||| BitVec.ofNat 4 (2 ^ bit), regs.errAddr := addr }

/-- The 32-bit word at a register offset of BAR0 as a read returns it: the last value written of a staged field
(R471), zero of a write-only field and of a reserved offset (R468). -/
def State.regWord (s : State) (off : Nat) : Nat :=
  let half (v : BitVec 64) : Nat := if off % 8 == 0 then v.toNat % 2 ^ 32 else v.toNat / 2 ^ 32
  match off with
  | 0x000 => 0x00811ED9
  | 0x004 => 0x01000000 + s.regs.fwVersion.toNat
  | 0x008 => s.hifStatus
  | 0x00C => s.regs.adminEnable.toNat + 2 * (s.regs.sleepShadow.getD s.regs.sleepEnable).toNat
  | 0x010 => s.regs.errLog.toNat
  | 0x014 => s.regs.errAddr.toNat
  | 0x01C => s.regs.watchWritten
  | 0x020 | 0x024 => half s.regs.doorbell
  | 0x028 | 0x02C => half s.regs.mboxTo
  | 0x030 | 0x034 => half s.regs.mboxFrom
  | 0x038 | 0x03C => half s.regs.adminSq
  | 0x040 | 0x044 => half s.regs.adminCq
  | 0x048 => s.regs.adminRing.toNat
  | 0x04C => s.regs.cause.toNat
  | 0x050 => s.regs.scratch.toNat
  | 0x060 => s.regs.ptmCapture.toNat + 256 * s.regs.ptmWritten
  | 0x064 => s.regs.ptmSeq.toNat
  | 0x068 | 0x06C => half s.regs.ptmGroup
  | 0x070 | 0x074 => half s.regs.ptmHost
  | _ => 0

/-- A word of the MSI-X table: message address, upper address, data and Vector Control. -/
def State.msixWord (s : State) (off : Nat) : Nat :=
  let v := off / 16
  let e := (s.msix.table.getD v 0).toNat
  match off % 16 / 4 with
  | 0 => e % 2 ^ 32
  | 1 => e / 2 ^ 32 % 2 ^ 32
  | 2 => e / 2 ^ 64
  | _ => (s.msix.masked.getD v true).toNat

/-- The word of BAR0 at an offset that is a multiple of 4 (R468). -/
def State.bar0Word (s : State) (off : Nat) : Nat :=
  if off < 0x78 then s.regWord off
  else if 0x8000 ≤ off && off < 0x8400 then s.msixWord (off - 0x8000)
  else if off == 0x9000 then bitsNat (s.msix.pend.take 32)
  else if off == 0x9004 then bitsNat (s.msix.pend.drop 32)
  else 0

/-! ### SMBus registers (chapter 20, R696 to R701, R727) -/

/-- SMB_STATUS as the ledger loop takes it from its sources; bit 8, cap_refused, is held beside it. -/
def State.smbStatusNow (s : State) : BitVec 16 :=
  BitVec.ofNat 16 (bitsNat [s.regs.ready, s.regs.untethered, s.regs.shelter, s.groupMember] + 16 * s.regs.step
    + 512 * bitsNat [s.power.voltage > 0, s.power.capStage > 0, s.power.pwrbrk, s.thermalStage > 0] + 8192 * s.shed)

/-- A Read Word of an SMBus register; a reserved one reads 0x0000 (R697). -/
def State.smbRead (s : State) (n : Nat) : Nat :=
  match n with
  | 0x00 => 0x1ED9
  | 0x01 => 0x0081
  | 0x02 => s.power.statusReg.toNat + 256 * s.power.capRefused.toNat
  | 0x03 => wrapInt 16 (s.power.temps.getD 0 0)
  | 0x04 => wrapInt 16 (s.power.temps.getD 1 0)
  | 0x05 => wrapInt 16 (s.power.temps.getD 2 0)
  | 0x06 => wrapInt 16 (s.power.temps.getD 3 0)
  | 0x07 => s.power.watts
  | 0x08 => s.power.input
  | 0x09 => s.power.capReg
  | 0x0A => s.power.ceilingReg
  | 0x0C | 0x0D | 0x0E | 0x0F => s.keys.serial / 2 ^ (16 * (n - 0x0C)) % 2 ^ 16
  | _ => 0

end Sys2Proof.Machine
end

