-- ==== Sys2Proof/Machine/Medium.lean ====
section
/-!
DEFINITION. The flash medium under the store (R401): which block each sector is programmed in, how often a block was read and
erased and when it was programmed, and what the store service relocates in its maintenance bursts. The spec leaves the number of blocks
and the choice of a block to the translation layer: both are free (log 110).
-/

namespace Sys2Proof.Machine

/-- A number of days in ticks. -/
def days (n : Nat) : Nat := n * 86400 * 1000 * ticksPerMs

/-- The blocks that hold sectors of a range of an area (0 host, 1 index). -/
def State.blocksOf (s : State) (area first n : Nat) : List Nat :=
  distinct ((s.store.placed.filter fun x => x.1 == area && first ≤ x.2.1 && x.2.1 < first + n).map (·.2.2))

/-- The sectors of a block that are valid. -/
def State.sectorsIn (s : State) (block : Nat) : List (Nat × Nat) :=
  (s.store.placed.filter fun x => x.2.2 == block).map fun x => (x.1, x.2.1)

/-- Sectors of a range that are valid no more: overwritten or trimmed. -/
def State.flashDrop (s : State) (area first n : Nat) : State :=
  { s with store.placed := s.store.placed.filter fun x => !(x.1 == area && first ≤ x.2.1 && x.2.1 < first + n) }

/-- A block's record when sectors are programmed in it: new, or erased before, it is programmed now. -/
def FlashBlock.program (b : FlashBlock) (now : Nat) : FlashBlock :=
  if b.erased then { b with reads := 0, programmed := now, patrolled := now, erased := false } else b

/-- Sectors of a range programmed in a block. -/
def State.programIn (s : State) (area first n block : Nat) : State :=
  let s1 := s.flashDrop area first n
  let now := s.clock.groupTime
  let known := s1.store.blocks.any fun b => b.num == block
  let blocks := if known then updWhere (fun b => b.num == block) (·.program now) s1.store.blocks
    else s1.store.blocks ++ [{ num := block, reads := 0, programmed := now, patrolled := now, erases := 0, erased := false }]
  { s1 with store.blocks := blocks, store.placed := s1.store.placed ++ (List.range n).map fun i => (area, first + i, block) }

/-- Sectors of a range programmed in a block of the translation layer's choice. -/
def State.flashProgram (s : State) (area first n : Nat) : State :=
  if n == 0 then s else (s.draw 1).programIn area first n (Config.freeNat s.free)

/-- A sector marked for retention relocation, unless it is already. -/
def State.markSector (s : State) (area sector : Nat) : State :=
  if s.store.relocate.any fun x => x.2 == (area, sector) then s
  else { s with store.relocate := s.store.relocate ++ [(32, area, sector)] }

/-- Sectors of a range read: their blocks count the read, and one whose hard decode failed, which is free, is marked (the LDPC and
retention rows). -/
def State.flashRead (s : State) (area first n : Nat) : State :=
  let hit := s.blocksOf area first n
  let soft := (s.store.placed.filter fun x => x.1 == area && first ≤ x.2.1 && x.2.1 < first + n && (Config.freeByte s.free x.2.1).getLsbD 0)
  let s1 := { s.draw 1 with store.blocks := updWhere (fun b => hit.contains b.num) (fun b => { b with reads := b.reads + 1 }) s.store.blocks }
  soft.foldl (fun s x => s.markSector x.1 x.2.1) s1

/-- A block whose sectors are to be relocated: read 100,000 times since its last program, or programmed more than 90 days ago. -/
def FlashBlock.worn (b : FlashBlock) (now : Nat) : Bool := !b.erased && (b.reads ≥ 100000 || b.programmed + days 90 < now)

/-- The least and the most erased block, where their erase counts differ by more than 500. -/
def State.uneven (s : State) : Option (FlashBlock × FlashBlock) :=
  let least := s.store.blocks.foldl (fun (a : Option FlashBlock) b => if a.all fun x => b.erases < x.erases then some b else a) none
  let most := s.store.blocks.foldl (fun (a : Option FlashBlock) b => if a.all fun x => b.erases > x.erases then some b else a) none
  match least, most with
  | some a, some b => if b.erases > a.erases + 500 then some (a, b) else none
  | _, _ => none

/-- What a burst may relocate, with the block it goes to where wear levelling fixes it. -/
def State.toRelocate (s : State) : List (Nat × Nat × Nat × Option Nat) :=
  let marked := s.store.relocate.map fun x => (x.1, x.2.1, x.2.2, none)
  let old := (s.store.blocks.filter fun b => b.worn s.clock.groupTime).flatMap fun b => (s.sectorsIn b.num).map fun x => (32, x.1, x.2, none)
  let cold := match s.uneven with
    | none => []
    | some (a, b) => (s.sectorsIn a.num).map fun x => (32, x.1, x.2, some b.num)
  marked ++ old ++ cold

/-- A sector relocated: its content stays, in another block. -/
def State.relocateOne (s : State) (x : Nat × Nat × Nat × Option Nat) : State :=
  let s1 := { s with store.relocate := s.store.relocate.filter fun y => y.2 != (x.2.1, x.2.2.1) }
  match x.2.2.2 with
  | some b => s1.programIn x.2.1 x.2.2.1 1 b
  | none => s1.flashProgram x.2.1 x.2.2.1 1

/-- Blocks that hold no valid sector are erased. -/
def State.eraseEmpty (s : State) : State :=
  { s with store.blocks := s.store.blocks.map fun b =>
      if b.erased || s.store.placed.any (fun x => x.2.2 == b.num) then b else { b with erased := true, erases := b.erases + 1 } }

/-- Blocks patrolled in a burst: those whose seven days are over, and others as the store service chooses (free). -/
def State.patrol (s : State) : State :=
  let due (b : FlashBlock) : Bool := !b.erased && (b.patrolled + days 7 ≤ s.clock.groupTime || (Config.freeByte s.free b.num).getLsbD 0)
  let list := s.store.blocks.filter due
  let s1 := { s.draw 1 with store.blocks := updWhere due (fun b => { b with patrolled := s.clock.groupTime }) s.store.blocks }
  list.foldl (fun s b => (s.sectorsIn b.num).foldl (fun s x => s.flashRead x.1 x.2 1) s) s1

/-- The medium's part of a burst: as many relocations as it takes (free), erases and patrol reads. -/
def State.mediumBurst (s : State) : State × List (Nat × Nat × Nat × Option Nat) :=
  let l := s.toRelocate
  let gone := l.take (Config.freeNat s.free % (l.length + 1))
  (((gone.foldl State.relocateOne (s.draw 1)).eraseEmpty).patrol, gone)

end Sys2Proof.Machine
end

