-- ==== Sys2Proof/Machine/Layout.lean ====
section
/-!
DEFINITION. Where things lie: HBM regions, their interleave over the pseudo-channels and the pages (R132, R133, R372 to R375), the
places of index structures and programs in T1 (R38), of full vectors and payload records in the index area (R39), and the room of
R66 and R722. Which free place the device takes is its own choice: the model takes the lowest (log 91).
-/

namespace Sys2Proof.Machine

/-! ### Ranges -/

/-- Two ranges of addresses share a byte. -/
def overlap (a b : Nat × Nat) : Bool := a.1 < b.1 + b.2 && b.1 < a.1 + a.2

/-- The lowest place of n units in [lo, hi) on a multiple of an alignment, clear of the used ranges. -/
def firstFree (used : List (Nat × Nat)) (align lo hi n : Nat) : Option Nat :=
  let starts := sortNats (lo :: used.filterMap fun r => let e := roundUp (r.1 + r.2) align; if lo ≤ e && e < hi then some e else none)
  starts.find? fun a => a + n ≤ hi && !used.any (overlap (a, n))

/-! ### Regions and interleave (R372 to R375) -/

def State.region? (s : State) (r : Nat) : Option Region := s.mem.regions.find? fun x => x.num == r

/-- Places of 2 MiB that the regions in use take on each pseudo-channel of a stack. -/
def State.unitsOn (s : State) (k : Nat) : List Nat :=
  s.mem.regions.flatMap fun r => match r.stack with
    | some j => if j == k then r.units else []
    | none => [r.units.getD k 0]

/-- The lowest n free places on the pseudo-channels of a stack: 2,016 MiB hold 1,008. -/
def State.freeUnits (s : State) (k n : Nat) : List Nat :=
  let used := s.unitsOn k
  ((List.range 1008).filter fun u => !used.contains u).take n

/-- The places that a further region of a mode takes, where R375 leaves room for it. -/
def State.unitsFor (s : State) (stack : Option Nat) : Option (List Nat) :=
  match stack with
  | some k => let l := s.freeUnits k 8; if l.length == 8 then some l else none
  | none => let l := (List.range 8).flatMap fun k => s.freeUnits k 1; if l.length == 8 then some l else none

/-- A region allocated in a mode, which holds until it is freed. -/
def State.openRegion (s : State) (stack : Option Nat) (num : Nat) : Option State :=
  (s.unitsFor stack).map fun units =>
    { s with mem.regions := insertBy (fun x y : Region => x.num < y.num) { num, stack, units } s.mem.regions }

/-- The lowest region number that is neither in use nor the driver region's. -/
def State.freeRegion (s : State) : Option Nat :=
  (List.range 1008).find? fun r => (s.region? r).isNone && !overlap (r * 2 ^ 30, 2 ^ 30) (s.mem.regionBase, s.mem.regionGib * 2 ^ 30)

/-- The pseudo-channel on which an offset of a region lies, and the byte of that pseudo-channel's share (R373, R374). -/
def Region.place (r : Region) (o : Nat) : Nat × Nat :=
  match r.stack with
  | some k => (64 * k + o / 2 ^ 24, o % 2 ^ 24)
  | none => let g := o / 4096; (g % 512, g / 512 * 4096 + o % 4096)

/-- The byte of the pseudo-channel's physical space that a byte of its share of a region is. -/
def Region.physical (r : Region) (channel byte : Nat) : Nat :=
  r.units.getD (if r.stack.isSome then byte / 2 ^ 21 else channel / 64) 0 * 2 ^ 21 + byte % 2 ^ 21

/-- The pseudo-channel and the page on which a device address of T1 lies; none in a region that is not in use. -/
def State.pageOf (s : State) (a : Nat) : Option (Nat × Nat) :=
  (s.region? (a / 2 ^ 30)).map fun r => let p := r.place (a % 2 ^ 30); (p.1, r.physical p.1 p.2 / 65536)

/-- The device addresses of a page in a region, as runs: 64 KiB together where it is stack-local, 16 granules of 4 KiB spaced 2 MiB
apart where it is spread. -/
def Region.pageRuns (r : Region) (channel page : Nat) : List (Nat × Nat) :=
  let j := page % 32
  match r.stack with
  | some k =>
    if k == channel / 64 then
      match r.units.findIdx? fun u => u == page / 32 with
      | some i => [(r.num * 2 ^ 30 + channel % 64 * 2 ^ 24 + i * 2 ^ 21 + j * 65536, 65536)]
      | none => []
    else []
  | none =>
    if r.units.getD (channel / 64) 1008 == page / 32 then
      (List.range 16).map fun i => (r.num * 2 ^ 30 + ((16 * j + i) * 512 + channel) * 4096, 4096)
    else []

/-- The device addresses of a page, as runs. A relief page has none (R362). -/
def State.pageRuns (s : State) (channel page : Nat) : List (Nat × Nat) := s.mem.regions.flatMap fun r => r.pageRuns channel page

/-! ### What lies in T1 (R38) -/

/-- Bytes of a partition record. -/
def Collection.recordBytes (c : Collection) : Nat := c.dim + 0xC0

/-- The range of a segment: its header and its slots (R132). -/
def Collection.segRange (c : Collection) (g : Segment) : Nat × Nat := (g.addr, 64 + g.slots.length * c.slotSize)

/-- Bytes of a segment's reference array: six for each slot of a moved or zero-norm segment. -/
def Segment.refBytes (g : Segment) : Nat := if g.kind = .insert then 0 else 6 * g.slots.length

/-- The stack-local ranges of a collection: segments, reference arrays and tombstone chunk copies. -/
def Collection.localRanges (c : Collection) : List (Nat × Nat) :=
  ((c.segs.map c.segRange) ++ (c.segs.map fun g : Segment => (g.refArray, g.refBytes)) ++ c.chunks.map fun k : ChunkCopy => (k.addr, 4096)).filter
    fun r => r.1 != 0

def State.localRanges (s : State) : List (Nat × Nat) := s.colls.flatMap Collection.localRanges

/-- The spread ranges of a collection's generations: partition records, each once, and codebooks. -/
def Collection.graphRanges (c : Collection) : List (Nat × Nat) :=
  ((c.gens.flatMap fun g => (g.bookAddr, g.codebook.length) :: g.parts.map fun p => (p.addr, c.recordBytes))).filter fun r => r.1 != 0

/-- T1 ranges that programs and invocations hold. -/
def State.t1Held (s : State) : List (Nat × Nat) :=
  s.comp.programs.map (fun p => (p.base, p.bytes))
    ++ s.comp.runs.flatMap fun r => match r.why with
      | .command _ => []
      | _ => r.args.map fun a => (a.2.address, (a.2.fmt?.map a.2.span).getD 0)

/-- The spread regions lent or offered to other modules. -/
def State.lentRegions (s : State) : List Nat :=
  s.mem.offers.flatMap (·.2.2) ++ s.mem.loans.flatMap fun l => if l.borrow then [] else l.regions

/-- The ranges of spread regions that are used. -/
def State.spreadRanges (s : State) : List (Nat × Nat) :=
  (s.mem.regionBase, s.mem.regionGib * 2 ^ 30) :: (s.lentRegions.map fun r => (r * 2 ^ 30, 2 ^ 30)) ++ s.t1Held
    ++ s.colls.flatMap Collection.graphRanges

/-! ### Places in T1 -/

/-- A free place of n bytes in a pseudo-channel's shares of the stack-local regions of its stack: a segment lies whole within one
share (R132). Address 0 stands for none (R40), so nothing lies there. -/
def State.findLane (s : State) (channel n : Nat) : Option Nat :=
  let used := s.localRanges
  (s.mem.regions.filter fun r => r.stack == some (channel / 64)).findSome? fun r =>
    let lo := r.num * 2 ^ 30 + channel % 64 * 2 ^ 24
    firstFree used 64 (max 64 lo) (lo + 2 ^ 24) n

/-- Free bytes of a pseudo-channel's shares. -/
def State.laneFree (s : State) (channel : Nat) : Nat :=
  let shares := (s.mem.regions.filter fun r => r.stack == some (channel / 64)).map fun r => (r.num * 2 ^ 30 + channel % 64 * 2 ^ 24, 2 ^ 24)
  2 ^ 24 * shares.length - sumBy (fun r : Nat × Nat => if shares.any (overlap r) then r.2 else 0) s.localRanges

/-- The pseudo-channel of a stack with the most free space that can take n bytes, the lower on ties. -/
def State.roomiest (s : State) (stack n : Nat) : Option Nat :=
  let able := ((List.range 64).map (64 * stack + ·)).filter fun k => (s.findLane k n).isSome
  let sized := able.map fun k => (s.laneFree k, k)
  (sized.foldl (fun (b : Option (Nat × Nat)) x => if b.all fun y => y.1 < x.1 then some x else b) none).map (·.2)

/-- A place of n bytes on a stack (R133, R722): on the home lane while it has room, else on the roomiest pseudo-channel, else in a
further stack-local region. -/
def State.findStack (s : State) (stack home n : Nat) : Option (State × Nat) :=
  match s.findLane (64 * stack + home) n with
  | some a => some (s, a)
  | none =>
    match (s.roomiest stack n).bind fun k => s.findLane k n with
    | some a => some (s, a)
    | none =>
      match s.freeRegion.bind fun r => s.openRegion (some stack) r with
      | none => none
      | some s1 => (s1.findLane (64 * stack + home) n).map fun a => (s1, a)

/-- Every region that a range touches is spread and in use. -/
def State.spreadAt (s : State) (a n : Nat) : Bool :=
  (List.range ((a + n - 1) / 2 ^ 30 - a / 2 ^ 30 + 1)).all fun i => (s.region? (a / 2 ^ 30 + i)).any fun r => r.stack.isNone

/-- Spread regions opened with consecutive numbers. -/
def State.openRun : Nat → Nat → State → Option State
  | 0, _, s => some s
  | k + 1, r, s => (s.openRegion none r).bind (State.openRun k (r + 1))

/-- The first of k consecutive region numbers that are free. No structure lies at address 0, which stands for none (R40). -/
def State.freeRun (s : State) (k : Nat) : Option Nat :=
  (List.range 1008).find? fun r => 0 < r && r + k ≤ 1008 && (List.range k).all fun i => (s.region? (r + i)).isNone
    && !overlap ((r + i) * 2 ^ 30, 2 ^ 30) (s.mem.regionBase, s.mem.regionGib * 2 ^ 30)

/-- A place of n bytes in spread regions, in those in use or in further ones, on a multiple of an alignment. -/
def State.findSpread (s : State) (align n : Nat) : Option (State × Nat) :=
  let used := s.spreadRanges
  let starts := sortNats ((s.mem.regions.filterMap fun r => if r.stack.isNone then some (max 64 (r.num * 2 ^ 30)) else none)
    ++ used.map fun r => roundUp (r.1 + r.2) align)
  match starts.find? fun a => s.spreadAt a n && !used.any (overlap (a, n)) with
  | some a => some (s, a)
  | none =>
    let k := ceilDiv n (2 ^ 30)
    (s.freeRun k).bind fun r => (State.openRun k r s).map fun s1 => (s1, r * 2 ^ 30)

/-- A region in which nothing lies any more. -/
def State.emptyRegion (s : State) (r : Region) : Bool :=
  let span := (r.num * 2 ^ 30, 2 ^ 30)
  !(if r.stack.isSome then s.localRanges else s.spreadRanges).any (overlap span)

/-- Regions freed in which nothing lies any more. -/
def State.freeRegions (s : State) : State :=
  if s.mem.regions.any s.emptyRegion then { s with mem.regions := s.mem.regions.filter fun r => !s.emptyRegion r } else s

/-! ### Places in the index area (R38, R39, R391) -/

/-- Sectors of the commit journal, 256 GB, with which the index area begins (log 91). -/
def journalSectors : Nat := 62500000

/-- Sectors of a payload record: its 32-byte header and the ciphertext, in whole sectors. -/
def Payload.sectors (p : Payload) : Nat := ceilDiv (32 + p.len) 4096

/-- The sectors that a slot's references name. -/
def Collection.slotSectors (c : Collection) (x : Slot) : List (Nat × Nat) :=
  ((x.ref / 4096, c.fullReads) :: (x.payload.map fun p => (p.ref / 4096, p.sectors)).toList).filter fun r => r.1 != 0

/-- The sectors of full vectors and payload records: those of slots, and those that journal parts name. -/
def State.indexUsed (s : State) : List (Nat × Nat) :=
  (s.colls.flatMap fun c => c.segs.flatMap fun g => g.slots.flatMap c.slotSectors)
    ++ s.store.journal.flatMap fun j => match s.colls.find? fun c => c.cid == j.coll with
      | none => []
      | some c => j.entries.flatMap fun e => (e.stored.map c.slotSectors).getD []

/-- A free run of n sectors of the index area. -/
def State.findSectors (s : State) (n : Nat) : Option Nat := firstFree s.indexUsed 1 journalSectors s.store.indexSectors n

/-- The reference of the i-th of full vectors that were written together from a sector on (R39). -/
def Collection.refFrom (c : Collection) (sector i : Nat) : Nat :=
  if c.fullBytes ≤ 4096 then
    let per := 4096 / max 1 c.fullBytes
    (sector + i / per) * 4096 + i % per * c.fullBytes
  else (sector + i * c.fullReads) * 4096

/-- Slots given full-vector references from a sector on, those that have none in their order. -/
def Collection.giveRefs (c : Collection) (sector : Nat) : Nat → List Slot → List Slot
  | _, [] => []
  | i, x :: r => if x.ref == 0 then { x with ref := c.refFrom sector i } :: c.giveRefs sector (i + 1) r else x :: c.giveRefs sector i r

/-- Payload records given sectors, one after another. -/
def givePayloads : Nat → List Slot → List Slot
  | _, [] => []
  | k, x :: r => match x.payload with
    | some p => if p.ref == 0 then { x with payload := some { p with ref := k * 4096 } } :: givePayloads (k + p.sectors) r
      else x :: givePayloads k r
    | none => x :: givePayloads k r

/-- Sectors that payload records without a place need. -/
def payloadNeed (l : List Slot) : Nat :=
  sumBy (fun x : Slot => match x.payload with
    | some p => if p.ref == 0 then p.sectors else 0
    | none => 0) l

/-! ### Everything placed -/

/-- A segment of a collection replaced. -/
def State.setSeg (s : State) (id i : Nat) (g : Segment) : State := s.updColl id fun c => { c with segs := c.segs.set i g }

/-- The partition record that a segment lies under. -/
def Collection.recordOf (c : Collection) (gens : List Nat) (part : Nat) : Option Partition :=
  (c.gens.find? fun x => gens.contains x.num && (x.part? part).isSome).bind fun x => x.part? part

/-- This module holds a partition, or receives it in a move (R445, R448). -/
def State.holdsPart (s : State) (p : Partition) : Bool := !s.groupMember || p.holder == s.group.index || p.move == some s.group.index

/-- The full vectors of a segment that has just been written are programmed together, and its payload records (R40, R165). -/
def State.layFlash (s : State) (id i : Nat) : State :=
  match (s.coll? id).bind fun c => (c.segs[i]?).bind fun g => if (c.recordOf g.gens g.part).any s.holdsPart then some (c, g) else none with
  | none => s
  | some (c, g) =>
    let n := (g.slots.filter fun x => x.ref == 0).length
    let (s0, g1) := match if n == 0 then none else s.findSectors (c.fullSectors n) with
      | none => (s, g)
      | some k => (s.flashProgram 1 k (c.fullSectors n), { g with slots := c.giveRefs k 0 g.slots })
    let s1 := s0.setSeg id i g1
    match if payloadNeed g1.slots == 0 then none else s1.findSectors (payloadNeed g1.slots) with
    | none => s1
    | some k => (s1.flashProgram 1 k (payloadNeed g1.slots)).setSeg id i { g1 with slots := givePayloads k g1.slots }

/-- A segment without a place is written to its partition's stack, with its reference array (R132, R133). -/
def State.laySeg (s : State) (id i : Nat) : State :=
  match (s.coll? id).bind fun c => (c.segs[i]?).bind fun g => (c.recordOf g.gens g.part).map fun r => (c, g, r) with
  | none => s
  | some (c, g, r) =>
    if g.addr != 0 || !s.holdsPart r then s
    else match s.findStack r.stack r.home (c.segRange g).2 with
    | none => s
    | some (s1, a) =>
      let g1 := { g with addr := a, lane := 64 * r.stack + a / 2 ^ 24 % 64 }
      let s2 := s1.setSeg id i g1
      if g.refBytes == 0 then s2
      else match s2.findStack r.stack r.home g.refBytes with
      | none => s2
      | some (s3, b) => s3.setSeg id i { g1 with refArray := b }

/-- The copies of tombstone chunks that a collection keeps (R61): for each 32,768 slots of a partition the original, tagged 0, and one
for each mutation that tombstones slots among them. -/
def Collection.wantChunks (c : Collection) : List ChunkCopy :=
  let firsts := c.gens.flatMap fun g => g.parts.flatMap fun p =>
    (List.range (ceilDiv p.slotTotal 32768)).map fun i => ({ gen := p.owner, part := p.num, index := i, seq := some 0, owner := 0, addr := 0 } : ChunkCopy)
  let copies := c.tombs.map fun t =>
    ({ gen := ((c.recordOf [t.gen] t.part).map (·.owner)).getD t.gen, part := t.part, index := t.slot / 32768, seq := t.seq, owner := t.owner
       addr := 0 } : ChunkCopy)
  (firsts ++ copies).foldl (fun l k => if l.contains k then l else l ++ [k]) []

/-- Two records of one chunk copy, before and after its tag is written. -/
def ChunkCopy.same (a b : ChunkCopy) : Bool :=
  a.gen == b.gen && a.part == b.part && a.index == b.index && a.owner == b.owner && (a.seq == b.seq || a.seq.isNone)

/-- The chunk copies brought up to date: those kept stay where they are. -/
def Collection.syncChunks (c : Collection) : Collection :=
  { c with chunks := c.wantChunks.map fun k => { k with addr := ((c.chunks.find? fun o => o.same k).map (·.addr)).getD 0 } }

/-- A chunk copy without a place is written to its partition's stack. -/
def State.layChunk (s : State) (id i : Nat) : State :=
  match (s.coll? id).bind fun c => (c.chunks[i]?).bind fun k => ((c.gens.flatMap (·.parts)).find? fun p => p.owner == k.gen && p.num == k.part).map
      fun r => (k, r) with
  | none => s
  | some (k, r) =>
    if k.addr != 0 || !s.holdsPart r then s
    else match s.findStack r.stack r.home 4096 with
    | none => s
    | some (s1, a) => s1.updColl id fun c => { c with chunks := c.chunks.set i { k with addr := a } }

/-- The partition records and the codebook of a generation that have no place are written to spread regions. -/
def State.layGraph (s : State) (id i : Nat) : State :=
  match (s.coll? id).bind fun c => (c.gens[i]?).map fun g => (c, g) with
  | none => s
  | some (c, g) =>
    let put (s : State) (f : Generation → Generation) : State := s.updColl id fun c => { c with gens := c.gens.modify i f }
    let s1 := if g.bookAddr != 0 || g.codebook.isEmpty then s else match s.findSpread 64 g.codebook.length with
      | none => s
      | some (t, a) => put t fun g => { g with bookAddr := a }
    (List.range g.parts.length).foldl (fun s k =>
      if (g.parts[k]?).all fun p => p.addr != 0 then s
      else match s.findSpread 64 c.recordBytes with
      | none => s
      | some (t, a) => put t fun g => { g with parts := g.parts.modify k fun p => { p with addr := a } }) s1

/-- A collection's structures that have no place are placed. -/
def State.layColl (s : State) (id : Nat) : State :=
  let s1 := s.updColl id Collection.syncChunks
  let count (f : Collection → Nat) (s : State) : Nat := ((s.coll? id).map f).getD 0
  let s2 := (List.range (count (·.gens.length) s1)).foldl (fun s i => s.layGraph id i) s1
  let s3 := (List.range (count (·.segs.length) s2)).foldl (fun s i => (s.layFlash id i).laySeg id i) s2
  (List.range (count (·.chunks.length) s3)).foldl (fun s i => s.layChunk id i) s3

/-- What has been written is placed, and regions in which nothing lies any more are freed. A collection that is not yet loaded has
nothing in T1 (R408). -/
def State.layout (s : State) : State :=
  (s.colls.foldl (fun s c => if c.load = .loading then s else s.layColl c.cid) s).freeRegions

/-! ### Room (R66, R375, R722) -/

/-- T1 bytes of the lookup tables of the lane passes in queue. -/
def State.tableBytes (s : State) : Nat := sumBy (fun p : LanePass => sumBy (fun e : PassEntry => e.image.length) p.entries) s.comp.passes

/-- GiB of T1 that are taken on every stack: spread regions in use, and the lookup tables. -/
def State.spreadGib (s : State) : Nat :=
  (s.mem.regions.filter fun r => r.stack.isNone).length + ceilDiv s.tableBytes (2 ^ 30)

/-- Stack-local regions in use of a stack. -/
def State.localGib (s : State) (k : Nat) : Nat := (s.mem.regions.filter fun r => r.stack == some k).length

/-- T1 bytes of a stack that slots, segment headers, reference arrays and tombstone chunk copies take. -/
def State.stackBytes (s : State) (k : Nat) : Nat :=
  sumBy (fun r : Nat × Nat => if (s.region? (r.1 / 2 ^ 30)).any fun x => x.stack == some k then r.2 else 0) s.localRanges

/-- T1 bytes of a stack that are free for further structures. -/
def State.stackFree (s : State) (k : Nat) : Nat :=
  ((1008 - 8 * s.localGib k - s.spreadGib) / 8 + s.localGib k) * 2 ^ 30 - s.stackBytes k

/-- The stack with the most free T1, the lower on ties (R716). -/
def State.freestStack (s : State) : Nat :=
  (List.range 8).foldl (fun b k => if s.stackFree k > s.stackFree b then k else b) 0

/-- A partition's structures of a collection without places: its data has gone to another module, or has still to come. -/
def Collection.unplace (c : Collection) (part : Nat) : Collection :=
  let bare (x : Slot) : Slot := { x with ref := 0, payload := x.payload.map fun p => { p with ref := 0 } }
  { c with segs := updWhere (fun g => g.part == part) (fun g => { g with addr := 0, refArray := 0, slots := g.slots.map bare }) c.segs
           chunks := updWhere (fun k => k.part == part) (fun k => { k with addr := 0 }) c.chunks }

/-- Every structure that this module holds of a collection has its place. -/
def State.placed (s : State) (c : Collection) : Bool :=
  let mine (gens : List Nat) (part : Nat) : Bool := (c.recordOf gens part).any s.holdsPart
  c.segs.all (fun g => !mine g.gens g.part || (g.addr != 0 && (g.refBytes == 0 || g.refArray != 0)))
    && c.chunks.all (fun k => k.addr != 0 || !((c.gens.flatMap (·.parts)).any fun p => p.owner == k.gen && p.num == k.part && s.holdsPart p))
    && c.gens.all fun g => (g.codebook.isEmpty || g.bookAddr != 0) && g.parts.all fun p => p.addr != 0

/-- T1 has room: everything is placed, and R375 holds for every stack with what is offered and the lookup tables. -/
def State.t1Fits (s : State) : Bool :=
  s.colls.all (fun c => c.load = .loading || s.placed c) && (List.range 8).all fun k => 8 * s.localGib k + s.spreadGib ≤ 1008

/-- Bytes of a collection's route graphs and codebooks: a shared partition record counts once. -/
def Collection.graphBytes (c : Collection) : Nat :=
  sumBy (fun r : Nat × Nat => r.2) (c.graphRanges.foldl (fun l r => if l.contains r then l else l ++ [r]) [])

/-- Index-area sectors that a collection takes (R722): those of its live and retained full vectors and payload records, 48 bytes of
directory for each live ID, the copies of its route graphs and codebooks, and a sector for each key kept in the key store. -/
def Collection.indexSectors (c : Collection) : Nat :=
  let used := c.segs.flatMap fun g => g.slots.flatMap fun x => (c.slotSectors x).flatMap fun r => (List.range r.2).map (r.1 + ·)
  (distinct used).length + ceilDiv (48 * (distinct (c.segs.flatMap fun g => g.slots.map (·.id))).length) 4096
    + ceilDiv c.graphBytes 4096 + (c.keys.filter (·.persistent)).length

/-- Every slot of a collection that this module holds has its full vector and its payload record in the index area. -/
def State.written (s : State) (c : Collection) : Bool :=
  c.segs.all fun g => !(c.recordOf g.gens g.part).any s.holdsPart || g.slots.all fun x => x.ref != 0 && x.payload.all fun p => p.ref != 0

/-- T3 has room: the index area less the commit journal (R722). -/
def State.t3Fits (s : State) : Bool :=
  s.colls.all s.written && sumBy Collection.indexSectors s.colls + journalSectors ≤ s.store.indexSectors

/-- Live and retained vectors of a collection: a vector that SET_ATTR, compaction or a new generation moved is still one (log 92). -/
def Collection.retained (c : Collection) : Nat :=
  (distinct ((c.segs.flatMap fun g => g.slots.map (·.ref)).filter fun r => r != 0)).length

/-- R66's limits on vectors: the device's, and that of the RAW collection a mutation writes to. R66 says "live and retained" for the first
only; the model counts retained vectors for both: DESIGN CHOICE (log 92). -/
def State.vectorsFit (s : State) (id : Nat) : Bool :=
  sumBy Collection.retained s.colls ≤ 16000000000 && (s.coll? id).all fun c => c.pq || c.retained ≤ 268435456

/-- Whether a mutation of a collection that has been written lies within the device's capacity. -/
def State.fits (s : State) (id : Nat) : Bool := s.vectorsFit id && s.t1Fits && s.t3Fits

end Sys2Proof.Machine
end

