-- ==== Sys2Proof/Machine/Tiers.lean ====
section
/-!
DEFINITION. Chapter 11's tiers: bytes of each tier, poisoned words, and the copy of a tensor.
-/

namespace Sys2Proof.Machine

/-! ### Bytes of a tier (R361, R394) -/

/-- The byte of a tier at a descriptor's address: T1 and T2 by device address, T3 by offset in the host area, T4 as the
command's image of host memory gives it. -/
def State.tierByte (s : State) (h : HostImage) (tier a : Nat) : Byte :=
  match tier with
  | 1 => Mem.get s.mem.hbm a
  | 2 => Mem.get s.mem.t2 a
  | 3 => Mem.get s.store.host a
  | _ => hostByte h (a - 0x800000000000)

def State.tierRead (s : State) (h : HostImage) (tier a n : Nat) : Bytes := (List.range n).map fun i => s.tierByte h tier (a + i)

/-- Poisoned words that a write of n bytes covers whole are clean again (R378). -/
def cleanPoison (p : List Nat) (a n : Nat) : List Nat := p.filter fun w => !(a ≤ w && w + 32 ≤ a + n)

/-- Bytes written to T1. -/
def State.writeT1 (s : State) (a : Nat) (b : Bytes) : State :=
  { s with mem.hbm := Mem.write s.mem.hbm a b, mem.poison := cleanPoison s.mem.poison a b.length }

/-- Whether a read of n bytes of T1 meets a poisoned word. -/
def State.poisoned (s : State) (a n : Nat) : Bool := s.mem.poison.any fun w => w < a + n && a < w + 32

/-- Whether a read of n bytes of the host area meets a sector that fails reads (R399). -/
def State.sectorFails (s : State) (a n : Nat) : Bool :=
  s.store.failing.any fun k => k * 4096 < a + n && a < (k + 1) * 4096

/-- Bytes written to a tier; T4 only while the command may reach the host. -/
def State.tierWrite (s : State) (tier a : Nat) (b : Bytes) : State :=
  match tier with
  | 1 => s.writeT1 a b
  | 2 => { s with mem.t2 := Mem.write s.mem.t2 a b }
  | 3 =>
    let gone := s.store.failing.filter fun k => !(a ≤ k * 4096 && (k + 1) * 4096 ≤ a + b.length)
    { s with store.host := Mem.write s.store.host a b, store.failing := gone }
  | _ => s.hostWrite (a - 0x800000000000) b

/-! ### Copying a tensor (R310, R368) -/

/-- The rows of a block: the three outer indices. -/
def rows (ext : List Nat) : List (List Nat) :=
  (List.range (ext.getD 3 1)).flatMap fun i3 => (List.range (ext.getD 2 1)).flatMap fun i2 =>
    (List.range (ext.getD 1 1)).map fun i1 => [0, i1, i2, i3]

/-- Index sums, place by place. -/
def addIdx (a b : List Nat) : List Nat := (List.range 4).map fun k => a.getD k 0 + b.getD k 0

/-- The element of a tensor at an index, read as bytes by a reader. -/
def TensorDesc.element (t : TensorDesc) (f : Fmt) (read : Nat → Byte) (i : List Nat) : Nat :=
  let bit := t.offset i * f.container
  let b := (List.range 5).map fun k => read (t.address + bit / 8 + k)
  leNat b / 2 ^ (bit % 8) % 2 ^ f.bits

/-- A code carried to an equal or exact format: its value's code there, and never a negative zero or a subnormal pattern of a K
format (R206, R220); outside the K formats a code of the same format itself. -/
def carry (f g : Fmt) (c : Nat) : Nat := if f = g && f.k?.isNone then c else (encode g (decode f c) 0 0 0).1

/-- The rows that a copy writes: destination address and bytes of each; a row starts on a byte (R365, R266). -/
def copyRows (src dst : TensorDesc) (f g : Fmt) (read : Nat → Byte) (ext so d0 : List Nat) : List (Nat × Bytes) :=
  (rows ext).map fun r =>
    let codes := (List.range (ext.getD 0 1)).map fun i0 => carry f g (src.element f read (addIdx (addIdx r [i0, 0, 0, 0]) so))
    (dst.address + dst.offset (addIdx r d0) * g.container / 8, packRow g codes)

/-- Source byte ranges that a copy reads, row by row. -/
def readRows (src : TensorDesc) (f : Fmt) (ext so : List Nat) : List (Nat × Nat) :=
  (rows ext).map fun r => (src.address + src.offset (addIdx r so) * f.container / 8, rowBytes f (ext.getD 0 1))

/-- Whether any row of a source cannot be read: a poisoned word, a failing sector, or a closed window. -/
def State.readFails (s : State) (tier : Nat) (l : List (Nat × Nat)) : Bool :=
  match tier with
  | 1 => l.any fun x => s.poisoned x.1 x.2
  | 2 => l.any fun x => !s.inWindow x.1 x.2
  | 3 => l.any fun x => s.sectorFails x.1 x.2
  | _ => false

/-- Whether ranges of bytes cover n bytes at an address together. -/
def covered (l : List (Nat × Nat)) (a n : Nat) : Bool := (List.range n).all fun i => l.any fun r => r.1 ≤ a + i && a + i < r.1 + r.2

/-- The sectors that ranges of the host area touch. -/
def sectorsOf (l : List (Nat × Nat)) : List Nat :=
  distinct (l.flatMap fun r => if r.2 == 0 then [] else (List.range ((r.1 + r.2 - 1) / 4096 - r.1 / 4096 + 1)).map (r.1 / 4096 + ·))

/-- Poisoned words, and failing sectors, that the ranges of one transfer cover are whole again (R378, R399); the sectors of the host
area among them are programmed (R401). -/
def State.coverAll (s : State) (tier : Nat) (l : List (Nat × Nat)) : State :=
  match tier with
  | 1 => { s with mem.poison := s.mem.poison.filter fun w => !covered l w 32 }
  | 3 =>
    let s1 := { s with store.failing := s.store.failing.filter fun k => !covered l (k * 4096) 4096 }
    (sectorsOf l).foldl (fun s k => s.flashProgram 0 k 1) s1
  | _ => s

/-- The medium's reads of a transfer's source ranges. -/
def State.readMedium (s : State) (tier : Nat) (l : List (Nat × Nat)) : State :=
  if tier == 3 then (sectorsOf l).foldl (fun s k => s.flashRead 0 k 1) s else s

/-- Rows written to a tier, in order. -/
def State.writeRows (s : State) (tier : Nat) (l : List (Nat × Bytes)) : State :=
  (l.foldl (fun s x => s.tierWrite tier x.1 x.2) s).coverAll tier (l.map fun x => (x.1, x.2.length))

/-- The single bytes of rows. -/
def rowBytesOf (l : List (Nat × Bytes)) : List (Nat × Byte) :=
  l.flatMap fun x => (List.range x.2.length).zip x.2 |>.map fun y => (x.1 + y.1, y.2)

/-- The part of a list of bytes that had been written when a transfer stopped: which part is open (R520), so each byte
is in it or not as a free value gives (log 2). -/
def freePart (n : Nat) (l : List (Nat × Byte)) : List (Nat × Byte) :=
  ((List.range l.length).zip l).filterMap fun x => if (Config.freeByte n x.1).getLsbD 0 then some x.2 else none

/-- Single bytes written to a tier. -/
def State.writeBytes (s : State) (tier : Nat) (l : List (Nat × Byte)) : State :=
  (l.foldl (fun s x => s.tierWrite tier x.1 [x.2]) s).coverAll tier (l.map fun x => (x.1, 1))

/-! ### MOVE_TENSOR (R368 to R371, R389) -/

/-- Whether a move names T2. -/
def MoveWork.namesT2 (m : MoveWork) : Bool := m.src.tier == 2 || m.dst.tier == 2

/-- Device address of a loan's window at the borrower (R386). -/
def Loan.base (l : Loan) : Nat := 0x400000000000 + l.window * 0x4000000000

/-- The open window that holds a T2 address. -/
def State.loanAt (s : State) (a : Nat) : Option Loan :=
  s.mem.loans.find? fun l => l.borrow && l.opened && l.base ≤ a && a < l.base + l.gib * 2 ^ 30

/-- Whether this module, or the lender of a window that a descriptor names, is in shedding stage 2 or beyond (R389). -/
def State.t2Shed (s : State) (l : List TensorDesc) : Bool :=
  l.any fun d => d.tier == 2 && (s.power.applied ≥ 2 || (s.loanAt d.address).any fun x => assoc s.group.stages x.peer ≥ 2)

/-- The rows that a move writes. -/
def State.moveRows (s : State) (m : MoveWork) (h : HostImage) : List (Nat × Bytes) :=
  match m.src.fmt?, m.dst.fmt? with
  | some f, some g => copyRows m.src m.dst f g (s.tierByte h m.src.tier) m.src.dims [] []
  | _, _ => []

/-- Whether a move's source cannot be read whole, or its destination window has closed. -/
def State.moveFails (s : State) (m : MoveWork) : Bool :=
  match m.src.fmt?, m.dst.fmt? with
  | some f, some g =>
    s.readFails m.src.tier (readRows m.src f m.src.dims [])
      || (m.dst.tier == 2 && !s.inWindow m.dst.address (m.dst.span g))
  | _, _ => false

/-- A move that stops before its end: the bytes written so far are a free part; their number goes with the result. -/
def State.moveStop (s : State) (m : MoveWork) (h : HostImage) (reach : Bool) : State × Nat :=
  let part := freePart s.free (rowBytesOf (s.moveRows m h))
  let s1 := s.draw 1
  if reach then (s1.writeBytes m.dst.tier part, part.length) else (s1, 0)

end Sys2Proof.Machine
end

