-- ==== Sys2Proof/Machine/Moves.lean ====
section
/-!
DEFINITION. Local memories of a program's virtual cores (chapter 9) and the carrying out of its tensor-mover transfers,
with the transfers that still complete when a program is stopped.
-/

namespace Sys2Proof.Machine

/-! ### Local memory (R265) -/

/-- The team of a virtual core (R261). -/
def teamOf (v : Nat) : Nat := v / 64

def Run.core? (r : Run) (v : Nat) : Option VCore := r.cores.find? fun c => c.idx == v

def Run.updCore (r : Run) (v : Nat) (f : VCore → VCore) : Run := { r with cores := updWhere (fun c => c.idx == v) f r.cores }

/-- Cluster memory of a team. -/
def Run.shared? (r : Run) (team : Nat) : List Host.Cell := ((r.shared.find? fun x => x.1 == team).map (·.2)).getD []

/-- A byte that the run has written, or what a previous occupant left there: free (R267, log 2). -/
def Run.left (r : Run) (cells : List Host.Cell) (place a : Nat) : Byte :=
  match cells.find? fun c => c.1 == a with
  | some c => c.2
  | none => Config.freeByte r.fill (place * 2 ^ 24 + a)

/-- A byte of local memory as a virtual core sees it. -/
def Run.localByte (r : Run) (v a : Nat) : Byte :=
  if a < 0x800000 then r.left (((r.core? v).map (·.mem)).getD []) v a else r.left (r.shared? (teamOf v)) (teamOf v) a

def Run.localRead (r : Run) (v a n : Nat) : Bytes := (List.range n).map fun i => r.localByte v (a + i)

/-- Bytes put into local memory, every written byte listed in rising order of address. -/
def putCell : List Host.Cell → Nat → Byte → List Host.Cell
  | [], a, b => [(a, b)]
  | c :: r, a, b => if a < c.1 then (a, b) :: c :: r else if a == c.1 then (a, b) :: r else c :: putCell r a b

def putCells (m : List Host.Cell) (a : Nat) : Bytes → List Host.Cell
  | [] => m
  | b :: r => putCells (putCell m a b) (a + 1) r

/-- Bytes written to local memory. -/
def Run.localWrite (r : Run) (v a : Nat) (b : Bytes) : Run :=
  if a < 0x800000 then r.updCore v fun c => { c with mem := putCells c.mem a b }
  else
    let t := teamOf v
    { r with shared := (t, putCells (r.shared? t) a b) :: r.shared.filter fun x => x.1 != t }

/-- An element read at a bit position. -/
def readElem (read : Nat → Byte) (base : Nat) (f : Fmt) (off : Nat) : Nat :=
  let bit := off * f.container
  leNat ((List.range 5).map fun k => read (base + bit / 8 + k)) / 2 ^ (bit % 8) % 2 ^ f.bits

/-- The bytes of an element's container after a code is put there, and where they lie. -/
def writeElem (read : Nat → Byte) (base : Nat) (f : Fmt) (off code : Nat) : Nat × Bytes :=
  let bit := off * f.container
  let a := base + bit / 8
  let n := ceilDiv (bit % 8 + f.container) 8
  let old := leNat ((List.range n).map fun k => read (a + k))
  let low := old % 2 ^ (bit % 8)
  let high := old / 2 ^ (bit % 8 + f.container)
  (a, toLe n (low + code % 2 ^ f.bits * 2 ^ (bit % 8) + high * 2 ^ (bit % 8 + f.container)))

/-! ### Runs -/

def State.updRun (s : State) (rid : Nat) (f : Run → Run) : State :=
  { s with comp.runs := updWhere (fun r => r.rid == rid) f s.comp.runs }

def State.run? (s : State) (rid : Nat) : Option Run := s.comp.runs.find? fun r => r.rid == rid
def State.program? (s : State) (h : Nat) : Option Program := s.comp.programs.find? fun p => p.handle == h

/-- Element codes of a block of a tensor, read by a reader. -/
def blockCodes (t : TensorDesc) (f : Fmt) (read : Nat → Byte) (ext origin : List Nat) : List (List Nat × Nat) :=
  (indices ext).map fun i => (i, t.element f read (addIdx i origin))

/-- Element positions that fill up the last byte or 3-byte group of a row of n elements (R213). -/
def padCount (f : Fmt) (n : Nat) : Nat := rowBytes f n * 8 / f.container - n

/-- What a transfer's element leaves in its tensor's containers: its code and, where it is the last of its row, the row's padding of
zero (R213). -/
def elemWrites (t : TensorDesc) (g : Fmt) (i : List Nat) (code : Nat) : List (Nat × Nat) :=
  let off := t.offset i
  (off, code) :: if i.getD 0 0 + 1 == t.dim 0 then (List.range (padCount g (t.dim 0))).map fun k => (off + 1 + k, 0) else []

/-- Whether a transfer's source or destination cannot be reached: poison, a failing sector, a closed T2 window, or host
memory for a command left behind by an untether (R306, R388, R526). -/
def State.transferFails (s : State) (r : Run) (t : Transfer) (f g : Fmt) : Bool :=
  let lost := match r.why with
    | .command cid => (s.cmd? cid).any (·.unreachable)
    | _ => false
  let src := readRows t.src f t.extent t.srcOrigin
  let dst := readRows t.dst g t.extent t.dstOrigin
  (t.src.rsv3 == 0 && s.readFails t.src.tier src) || (t.dst.rsv3 == 0 && t.dst.tier == 2 && s.readFails 2 dst)
    || (lost && ((t.src.rsv3 == 0 && t.src.tier == 4) || (t.dst.rsv3 == 0 && t.dst.tier == 4)))

/-- A transfer carried out element by element (R310). rsv3 = 1 marks a local tensor, whose bytes lie in the memory of the
core that issued the MOVE. -/
def State.carryOut (s : State) (r : Run) (t : Transfer) (f g : Fmt) (h : HostImage) : State :=
  let read (s : State) (d : TensorDesc) (a : Nat) : Byte :=
    if d.rsv3 == 1 then ((s.run? r.rid).map fun r => r.localByte t.vcore a).getD 0 else s.tierByte h d.tier a
  let codes := blockCodes t.src f (read s t.src) t.extent t.srcOrigin
  let s1 := (codes.flatMap fun x => elemWrites t.dst g (addIdx x.1 t.dstOrigin) (carry f g x.2)).foldl (fun s x =>
    let w := writeElem (read s t.dst) t.dst.address g x.1 x.2
    if t.dst.rsv3 == 1 then s.updRun r.rid fun r => r.localWrite t.vcore w.1 w.2 else s.tierWrite t.dst.tier w.1 w.2) s
  let s2 := if t.src.rsv3 == 1 then s1 else s1.readMedium t.src.tier (readRows t.src f t.extent t.srcOrigin)
  if t.dst.rsv3 == 1 then s2 else s2.coverAll t.dst.tier (readRows t.dst g t.extent t.dstOrigin)

/-- Whether a transfer writes an output tensor of the program (R317). -/
def Program.isOutput (p : Program) (r : Run) (d : TensorDesc) : Bool :=
  d.rsv3 == 0 && ((p.tensors.any fun t => t.role == 2 && t.desc.address == d.address)
    || r.args.any fun a => a.2.address == d.address && a.2.tier == d.tier)

/-- Bytes of output tensors that a transfer writes. -/
def Transfer.outBytes (t : Transfer) (p : Program) (r : Run) (g : Fmt) : Nat :=
  if p.isOutput r t.dst then sumBy (fun x : Nat × Nat => x.2) (readRows t.dst g t.extent t.dstOrigin) else 0

/-! ### A program that is stopped (R304, R317) -/

/-- Host memory as a transfer without an image of it reads it: free bytes (log 2). -/
def freeHost (n : Nat) (d : TensorDesc) : HostImage :=
  if d.tier == 4 then [(d.address - 0x800000000000, (List.range ((d.fmt?.map d.span).getD 0)).map (Config.freeByte n))] else []

/-- Transfers of a run that are in flight complete (R304); one whose source cannot be read writes nothing. Bytes that the
host's memory would give are those of an image, or free. -/
def State.finishMoves (s : State) (r : Run) (h : HostImage) : State :=
  (r.moves.filter fun t => !t.scan).foldl (fun s t =>
    match t.src.fmt?, t.dst.fmt? with
    | some f, some g =>
      if s.transferFails r t f g then s
      else (s.carryOut r t f g (h ++ freeHost s.free t.src)).draw 1
    | _, _ => s) s

/-- Bytes of output tensors that a run has written once its transfers in flight have completed. -/
def State.outWritten (s : State) (r : Run) : Nat :=
  r.wrote + sumBy (fun t : Transfer => match s.program? r.handle, t.src.fmt?, t.dst.fmt? with
    | some p, some f, some g => if t.scan || s.transferFails r t f g then 0 else t.outBytes p r g
    | _, _, _ => 0) r.moves

end Sys2Proof.Machine
end

