-- ==== Sys2Proof/Machine/Lifecycle.lean ====
section
/-!
DEFINITION. What befalls the whole block: becoming untethered and attaching again (chapter 14, The tether), and entry
into shelter mode (chapter 19), with the work that commands leave behind when they are dropped.
-/

namespace Sys2Proof.Machine

/-! ### Work that a command leaves behind when it is dropped -/

/-- The uncommitted segments and tombstones of an owner removed from every collection (R48). -/
def State.dropUncommitted (s : State) (owner : Nat) : State :=
  { s with colls := s.colls.map fun c =>
      { c with segs := c.segs.filter (fun g => !(g.owner == owner && g.seq.isNone)),
               tombs := c.tombs.filter (fun t => !(t.owner == owner && t.seq.isNone)) } }

/-- A query's entries taken out of the lanes' passes; a pass left empty is gone. -/
def State.dropPasses (s : State) (cid : Nat) : State :=
  let cut := s.comp.passes.map fun p => { p with entries := p.entries.filter fun e => e.cmd != cid }
  { s with comp.passes := cut.filter fun p => p.program.isSome || !p.entries.isEmpty }

/-- The number that a run serves. -/
def RunFor.cmd : RunFor → Nat
  | .command c => c
  | .rerank c _ => c
  | .embed c _ _ => c

/-- Whether a run serves a command. -/
def RunFor.serves (w : RunFor) (cid : Nat) : Bool := w.cmd == cid

/-- The token bytes of an embedding batch zeroed in T1 (R179, R199). -/
def State.wipeTokens (s : State) (r : Run) : State :=
  match r.why with
  | .embed _ _ _ => (r.args.filter fun a => a.1 < 2).foldl (fun s a => s.writeT1 a.2.address (zeros ((a.2.fmt?.map a.2.span).getD 0))) s
  | _ => s

/-- The arrivals at the group barriers that a run has passed or waits at, taken off the counts, and the last of them kept for modules
whose cores go on (R279, log 101). -/
def State.leaveBarriers (s : State) (r : Run) : State :=
  match r.why with
  | .command _ =>
    let mine (b : Nat × Nat × Nat) : Bool := b.1 == r.handle && b.2.1 ≤ r.announced
    let left := (updWhere mine (fun (b : Nat × Nat × Nat) => (b.1, b.2.1, b.2.2 - (s.group.size - 1))) s.group.barriers).filter fun b => b.2.2 > 0
    let barred := if r.announced == 0 then s.group.barred else (r.handle, r.announced) :: s.group.barred.filter fun b => b.1 != r.handle
    { s with group.barriers := left, group.barred := barred }
  | _ => s

/-- A run taken away with its scan passes; its place in T1 is free again. -/
def State.removeRun (s : State) (rid : Nat) : State :=
  let s1 : State := (s.comp.runs.filter fun r => r.rid == rid).foldl (fun s r => (s.wipeTokens r).leaveBarriers r) s
  let runs := s1.comp.runs.filter fun r => r.rid != rid
  let passes := s1.comp.passes.filter fun p => !(p.program.any fun x => x.1 == rid)
  State.freeRegions { s1 with comp.runs := runs, comp.passes := passes }

/-- The runs that serve a command ended, once their transfers in flight have completed. -/
def State.dropRuns (s : State) (cid : Nat) : State :=
  (s.comp.runs.filter fun r => r.why.serves cid).foldl (fun s r => (s.finishMoves r []).removeRun r.rid) s

/-- Everything that a command still has under way, dropped. -/
def State.dropWork (s : State) (c : Cmd) : State :=
  match c.body with
  | .query _ => (s.dropPasses c.cid).dropRuns c.cid
  | .mutation _ => (s.dropUncommitted c.cid).dropRuns c.cid
  | .run _ => s.dropRuns c.cid
  | _ => s

/-- The fetched commands that a condition picks, dropped with a status, oldest first. -/
def State.endAll (s : State) (p : Cmd → Bool) (r : Result) : State :=
  (s.rings.cmds.filter fun c => !c.finished && p c).foldl (fun s c => (s.dropWork c).complete c.cid r) s

/-! ### Messages that can no longer be answered (R525) -/

/-- Every subject forgets the message that it would have answered; a form still waited for keeps seq 0, which no
message carries. -/
def State.forgetMessages (s : State) : State :=
  let coll (c : Collection) : Collection :=
    { c with dropMsg := none, destroying := c.destroying.map (fun d => (0, d.2)), upkeep := c.upkeep.map ({ · with msg := none }) }
  { s with
    colls := s.colls.map coll
    store := { s.store with convMsg := none, sanMsg := s.store.sanMsg.map (fun _ => 0) }
    sw := { s.sw with msg := none }
    group := { s.group with joining := s.group.joining.map (fun _ => 0), moves := s.group.moves.map ({ · with msg := none }) }
    mem := { s.mem with retiring := s.mem.retiring.map (fun r => (r.1, r.2.1, 0)),
                        splices := s.mem.splices.map ({ · with msg := none }),
                        loans := s.mem.loans.map ({ · with msg := none }) }
    power := { s.power with capMsgs := s.power.capMsgs.map (fun m => (0, m.2)) }
    fw := { s.fw with activating := s.fw.activating.map (fun _ => 0) } }

/-! ### Becoming untethered (R525, R526, R579) -/

/-- A command that an untether drops at once: fetched and not admitted (R526). NOP, ABORT and FENCE are admitted at
their fetch. -/
def Cmd.unadmitted (c : Cmd) : Bool := !c.admitted && c.held.isNone

/-- The report's record of an untether (R529). -/
def State.noteUntether (s : State) (cause : Nat) : State :=
  { s with tether := { s.tether with cause := cause, time := s.clock.groupTime, shelterThen := s.regs.shelter,
                                     lastThen := s.tether.last } }

/-- The device becomes untethered with a cause (R525): rings are deleted, answers in flight are discarded, cell counters
return to 0 (R579), an open service session closes (R668), and commands not admitted are dropped and staged. -/
def State.untether (s : State) (cause : Nat) : State :=
  if s.regs.untethered then s else
  let s1 := s.noteUntether cause
  let cut := s1.rings.cmds.map fun c => { c with unreachable := true }
  let s2 := { s1 with
    regs := { s1.regs with untethered := true, adminReady := false }
    mail := { s1.mail with toHead := 0, toTail := 0, fromHead := 0, fromTail := 0, awaiting := [],
                           queue := s1.mail.queue.filter (fun m => m.flags ≥ 2), badWord := false, refused := false }
    keys := { s1.keys with session := none }
    rings := { s1.rings with sqs := [], cqs := [], batch := none, cmds := cut } }
  s2.forgetMessages.endAll Cmd.unadmitted (.of 2)

/-! ### Attaching (R476, R529, R579, R584, R587) -/

/-- A page address register's value as a bus address. -/
def pageAddress (r : BitVec 64) : Nat := r.toNat

/-- Ring 0 and completion ring 0 started from the registers when the checks of R476 hold. -/
def State.startAdmin (s : State) : State :=
  let sq := s.regs.adminRing.toNat % 16
  let cq := s.regs.adminRing.toNat / 256 % 16
  if s.regs.doorbell == 0 || s.regs.adminSq == 0 || s.regs.adminCq == 0 || sq > 10 || cq > 10 then s.errorLog 2 0x00C
  else
    let q : CmpRing :=
      { num := 0, base := pageAddress s.regs.adminCq, size := 2 ^ (6 + cq), vector := s.regs.adminRing.toNat / 65536 % 64
        count := 1, time := 0, wpos := 0, phase := true, head := 0, used := 0, unsignalled := 0, since := 0, badWord := false }
    let r : SubRing :=
      { num := 0, base := pageAddress s.regs.adminSq, size := 2 ^ (6 + sq), cls := 0, cq := 0, head := 0, tail := 0
        badWord := false, stopped := false, deleteMsg := none, doomed := [], recent := [], fetches := s.coverEnd 0 }
    { s with rings.sqs := (s.rings.sqs.filter fun x => x.num != 0) ++ [r]
             rings.cqs := (s.rings.cqs.filter fun x => x.num != 0) ++ [q], regs.adminReady := true }

/-- The reattach report of R529, 64 bytes. -/
def State.reattach (s : State) : Bytes :=
  let t := s.tether
  let flags := bitsNat [t.dropped > 0, t.shelterThen, s.regs.shelter]
  toLe 4 1 ++ toLe 1 t.cause ++ toLe 1 flags ++ zeros 2 ++ toLe 8 t.time ++ toLe 8 t.lastThen
    ++ toLe 4 t.staging.length ++ toLe 4 t.dropped ++ toLe 4 t.retry ++ toLe 4 t.committed ++ toLe 4 t.attach ++ zeros 20

/-! ### Leaving a group (R388, R458, R461) -/

/-- Zero written to spread regions (R385). -/
def State.zeroRegions (s : State) (l : List Nat) : State :=
  let inside (a : Nat) : Bool := l.contains (a / 2 ^ 30)
  if l.isEmpty then s else
    { s with mem.hbm := s.mem.hbm.filter (fun c => !inside c.1), mem.poison := s.mem.poison.filter fun w => !inside w }

/-- Loans that a condition picks are closed: a lender takes its regions back, zeroed (R385), the contents of a closed window are lost, and
a message that still waits for one is refused. -/
def State.closeLoans (s : State) (p : Loan → Bool) : State :=
  let gone := s.mem.loans.filter p
  let inGone (a : Nat) : Bool := gone.any fun l =>
    l.borrow && 0x400000000000 + l.window * 0x4000000000 ≤ a && a < 0x400000000000 + l.window * 0x4000000000 + l.gib * 2 ^ 30
  let back := gone.flatMap fun l => if l.borrow then [] else l.regions
  let s1 := { s with mem := { s.mem with loans := s.mem.loans.filter (fun l => !p l),
                                         t2 := s.mem.t2.filter (fun c => !inGone c.1)
                                         t2Reads := s.mem.t2Reads.filter fun r => !gone.any fun l => l.borrow && l.window == r.2.1 } }
  gone.foldl (fun s l => s.refuseLater 0x62 l.msg 6 0xFFFFFFFF 0) (s1.zeroRegions back).freeRegions

/-- A control message of this module (chapter 12, Control messages). -/
def State.ctrl (s : State) (type : Nat) (body : Bytes) : Ctrl :=
  { type, groupWide := true, origin := s.group.index, seq := s.group.msgSeq + 1, sent := s.clock.round + 1
    body := padTo 16 body, inPort := 255 }

/-- A group-wide message put in line for the control slot of the next round. -/
def State.line (s : State) (type : Nat) (body : Bytes) : State :=
  { s with group.toSend := s.group.toSend ++ [s.ctrl type body], group.msgSeq := s.group.msgSeq + 1
           group.seen := (s.group.index, s.group.msgSeq + 1) :: s.group.seen }

/-- A group-wide message; a group of one sends none. -/
def State.announce (s : State) (type : Nat) (body : Bytes) : State := if s.groupMember then s.line type body else s

/-- A transfer that this module originates, in line for the next slot of its kind (R342). -/
def State.launch (s : State) (slot dst query member : Nat) (load : Load) : State :=
  let flow : Flow := { src := s.group.index, dst, tid := s.free % 2 ^ 32, query, member, load }
  { s with group.hops := s.group.hops ++ [{ slot, inPort := 255, round := s.clock.round, flow, gone := 0 }], free := s.free + 1 }

/-- The module leaves its group and from then on runs as a group of one: LEAVE goes out in the next control slot of every port still TIMED
(R423, log 105).
The spec gives the reason byte no values: it is free (log 2). -/
def State.leaveGroup (s : State) : State :=
  if !s.groupMember then s else
  let m := s.ctrl 0x11 (toLe 2 s.group.index ++ toLe 1 (Config.freeNat s.free))
  let out := ((List.range 8).filter fun p => (s.ports.map (·.state)).getD p 0 == 4).map fun p => (p, m)
  let s1 := { s with group := { s.group with size := 1, leader := s.group.index, msgSeq := s.group.msgSeq + 1,
                                             parting := out, toSend := [], hops := [], parent := none,
                                             joining := none, moves := [], stages := [] },
                     sw := { s.sw with state := if s.staged.isSome then 1 else 0, leading := false, msg := none, refused := none },
                     free := s.free + 1 }
  (s1.refuseLater 0x60 s.sw.msg 6 0xFFFFFFFF 0).closeLoans fun _ => true

/-! ### Shelter mode (R659) -/

/-- An abandon part (kind 5) in the journal for a mutation (R403, R659). -/
def abandonPart (c : Cmd) (m : Mutation) : Journal :=
  { mutationId := m.mutationId, coll := c.hdr.collection, tag := c.hdr.tag, ring := c.ring, kind := 5
    atomic := c.hdr.atomic, last := true, batch := m.entries.length, index := m.issued, first := 0, count := 0, gen := m.gen, seq := 0
    onMedium := false, crcGood := true, sectors := 1, entries := [], done := false }

/-- An admitted mutation that has not committed and whose last part is not on the medium (R403, R659): it is abandoned. -/
def Cmd.uncommitted (c : Cmd) : Option Mutation :=
  match c.body with
  | .mutation m => if c.admitted && m.committed.isNone && !m.lastOnMedium && !c.finished then some m else none
  | _ => none

/-- Whether a command ends with SHELTER on entry into shelter mode: searches, tensor programs and mutations that have not
committed. -/
def Cmd.shelterEnds (c : Cmd) : Bool :=
  match c.body with
  | .query _ | .run _ => true
  | .mutation m => m.committed.isNone
  | _ => false

/-- Steps 2 to 6 of entry into shelter mode (R659), after the flag of step 1. -/
def State.shelterEntry (s : State) : State :=
  let abandoned := s.rings.cmds.filterMap fun c => c.uncommitted.map (abandonPart c)
  let flushed := (s.store.journal ++ abandoned).map fun j => { j with onMedium := true }
  let s1 := ({ s with store.journal := flushed }).endAll Cmd.shelterEnds (.of 10)
  let stopped := s1.colls.map fun c => { c with upkeep := c.upkeep.map ({ · with paused := true }) }
  let s2 := { s1 with
    colls := stopped
    keys := { s1.keys with imports := [], session := none }
    comp := { s1.comp with runs := [], passes := [], asleep := List.range 64 } }
  let s3 := s2.leaveGroup
  { s3 with
    ports := s3.ports.map ({ · with state := 0, enabled := false, retry := false })
    cages := s3.cages.map ({ · with lowPower := true, txDisable := 255 })
    mem := { s3.mem with selfRefresh := List.range 8 } }

/-- The end of a step that may have raised the shelter flag: when it did, steps 2 to 6 of R659 follow. -/
def State.settled (before after : State) : State :=
  if after.regs.shelter && !before.regs.shelter then after.shelterEntry else after

/-- A record queued outside any command, with what follows when it enters shelter mode. -/
def State.raise (s : State) (a : RecArgs) : State := s.settled (s.record a)

end Sys2Proof.Machine
end

