-- ==== Sys2Proof/Machine/Transcend.lean ====
section
/-!
DEFINITION. The vector operations of chapter 9 on exact values: quotients, roots, and the transcendental functions to
more bits than any rounding of R215 looks at, with the rest folded into the lowest bit (R216).
-/

namespace Sys2Proof.Machine

/-- The exact quotient of two values, reduced under R216; by zero it is undefined and gives NaR (R294). -/
def Val.div : Val → Val → Val
  | .fin m e, .fin n f =>
    let (q, x) := quotient m.natAbs n.natAbs (e - f)
    if n == 0 then .nar else .fin (if (m < 0) != (n < 0) then -(q : Int) else q) x
  | _, _ => .nar

/-- 1 / √a for a positive value, reduced under R216. -/
def rootRecip (m : Nat) (e : Int) : Val :=
  -- 1/√(m 2^e) = √(2^400 / m) × 2^(−200 − e/2), with e made even
  let odd : Nat := if e % 2 == 0 then 0 else 1
  let mm := m * 2 ^ odd
  let q := 2 ^ 400 / mm
  let sticky := 2 ^ 400 % mm != 0
  let (r, re) := rootBits (4 * q + (if sticky then 1 else 0)) (-402)
  .fin r (re - (e - odd) / 2)

/-! ### Fixed-point series: a value x is held as ⌊x × 2^p⌋ -/

/-- Σ tₖ with tₖ = tₖ₋₁ × r / k, from t. -/
def expTerms (p r : Nat) : Nat → Nat → Nat → Nat
  | 0, _, _ => 0
  | fuel + 1, k, t => if t == 0 then 0 else t + expTerms p r fuel (k + 1) (t * r / 2 ^ p / k)

/-- e^r for 0 ≤ r < 1. -/
def expFix (p r : Nat) : Nat := expTerms p r p 1 (2 ^ p)

/-- ln 2 as Σ 1 / (k 2^k). -/
def ln2Fix (p : Nat) : Nat := ((List.range p).map fun k => 2 ^ p / ((k + 1) * 2 ^ (k + 1))).sum

/-- arctan(1/n). -/
def atanInv (p n : Nat) : Int :=
  ((List.range (p / 2)).map fun (k : Nat) =>
    let t : Int := ((2 ^ p / ((2 * k + 1) * n ^ (2 * k + 1)) : Nat) : Int)
    if k % 2 == 0 then t else -t).sum

/-- π, by Machin's formula. -/
def piFix (p : Nat) : Nat := (16 * atanInv p 5 - 4 * atanInv p 239).toNat

/-- A positive value as a fixed-point number. -/
def toFix (p m : Nat) (e : Int) : Nat := if e + p ≥ 0 then m * 2 ^ (e + p).toNat else m / 2 ^ (-(e + p)).toNat

/-- 2^a. Beyond 2^±1024 every target format overflows or flushes, so one value of that size stands for all. -/
def exp2Val (m e : Int) : Val :=
  let big := decide (m.natAbs.log2 + e ≥ 10)
  if m == 0 then .fin 1 0
  else if big then (if m > 0 then .fin 1 2000 else .fin 1 (-2000))
  else if e ≥ 0 then .fin 1 (m * (2 ^ e.toNat : Nat))
  else
    let d : Nat := 2 ^ (-e).toNat
    let n := m / (d : Int)
    let f := (m % (d : Int)).toNat * 2 ^ 512 / d
    if f == 0 then .fin 1 n else .fin (2 * expFix 512 (f * ln2Fix 512 / 2 ^ 512) + 1) (n - 513)

/-- Fraction bits of log₂ y for 1 ≤ y < 2, most significant first, as one number. -/
def logBits : Nat → Nat → Nat → Nat
  | 0, _, acc => acc
  | fuel + 1, y, acc =>
    let z := y * y / 2 ^ 1024
    if z ≥ 2 ^ 1025 then logBits fuel (z / 2) (2 * acc + 1) else logBits fuel z (2 * acc)

/-- log₂ of a positive value. -/
def log2Val (m : Nat) (e : Int) : Val :=
  let whole := e + m.log2
  if m == 2 ^ m.log2 then .fin whole 0
  else .fin (2 * (whole * (2 ^ 256 : Nat) + logBits 256 (m * 2 ^ 1024 / 2 ^ m.log2) 0) + 1) (-257)

/-- A value just below 1. -/
def almostOne : Val := .fin (2 ^ 700 - 1) (-700)

/-- tanh of a positive value: (e^2a − 1) / (e^2a + 1). -/
def tanhVal (m : Nat) (e : Int) : Val :=
  if m.log2 + e ≥ 8 then almostOne
  else
    let u := toFix 1024 m (e + 1)
    let l := ln2Fix 1024
    let n := u / l
    let x := expFix 1024 (u - n * l) * 2 ^ n
    let (q, qe) := quotient (2 * (x - 2 ^ 1024) + 1) (2 * (x + 2 ^ 1024)) 0
    .fin q qe

/-- Σ (−1)ⁿ tₙ / (2n + 1) with tₙ = tₙ₋₁ × a² / n. -/
def erfTerms (p a2 : Nat) : Nat → Nat → Nat → Int
  | 0, _, _ => 0
  | fuel + 1, n, t =>
    if t == 0 then 0
    else
      let term : Int := ((t / (2 * n + 1) : Nat) : Int)
      (if n % 2 == 0 then term else -term) + erfTerms p a2 fuel (n + 1) (t * a2 / 2 ^ p / (n + 1))

/-- erf of a positive value: 2/√π × the series. -/
def erfVal (m : Nat) (e : Int) : Val :=
  if m.log2 + e ≥ 5 then almostOne
  else
    let p := 4096
    let a := toFix p m e
    let sum := (erfTerms p (a * a / 2 ^ p) 6000 0 a).toNat
    let (q, qe) := quotient (4 * sum + 1) (2 * (piFix p * 2 ^ p).sqrt) 0
    .fin q qe

/-! ### The operations (R293, R294) -/

/-- The result of an operation: a value or NaR, or an infinity of a sign. -/
inductive OpResult where
  | val (v : Val)
  | inf (neg : Bool)
  deriving DecidableEq, Repr

/-- An odd function from its values at positive arguments. -/
def oddFn (f : Nat → Int → Val) (m e : Int) : Val :=
  if m == 0 then .zero else if m < 0 then (f m.natAbs e).neg else f m.natAbs e

/-- The larger or smaller of two values. -/
def pick (larger : Bool) (a b : Val) : Val :=
  match a, b with
  | .nar, _ => .nar
  | _, .nar => .nar
  | _, _ => if a.lt b == larger then b else a

/-- The elementwise operations by op code (R294's table). -/
def vopElem (op : Nat) (a b : Val) : OpResult :=
  match a, op with
  | _, 0x00 => .val (a.add b)
  | _, 0x01 => .val (a.sub b)
  | _, 0x02 => .val (a.mul b)
  | _, 0x03 => .val (pick true a b)
  | _, 0x04 => .val (pick false a b)
  | _, 0x05 => .val a.abs
  | _, 0x06 => .val a.neg
  | _, 0x07 => .val a
  | .nar, _ => .val .nar
  | .fin m e, 0x08 => if m == 0 then .inf false else .val ((Val.fin 1 0).div (.fin m e))
  | .fin m e, 0x09 => if m == 0 then .inf false else if m < 0 then .val .nar else .val (rootRecip m.natAbs e)
  | .fin m e, 0x0A => .val (exp2Val m e)
  | .fin m e, 0x0B => if m == 0 then .inf true else if m < 0 then .val .nar else .val (log2Val m.natAbs e)
  | .fin m e, 0x0C => .val (oddFn tanhVal m e)
  | .fin m e, _ => .val (oddFn erfVal m e)

/-- The reductions. -/
def vopReduce (op : Nat) (a b : List Val) : Val :=
  match op with
  | 0x10 => a.foldl Val.add .zero
  | 0x11 => a.foldl (fun s x => s.add (x.mul x)) .zero
  | 0x12 => (a.zip b).foldl (fun s x => s.add (x.1.mul x.2)) .zero
  | 0x13 => (a.zip b).foldl (fun s x => let d := x.1.sub x.2; s.add (d.mul d)) .zero
  | _ => a.foldl (pick true) (a.headD .zero)

/-- Overflow in a conversion: the path of R254. -/
def overflow (f : Fmt) (neg : Bool) (mode ovf : Nat) : Nat × ConvFlags :=
  encode f (.fin (if neg then -1 else 1) 4000) mode 0 ovf

/-- A result divided by the target's scale and converted once (R293, R294). -/
def convResult (f : Fmt) (scale : BitVec 32) (r : OpResult) (mode ovf : Nat) : Nat × ConvFlags :=
  match r with
  | .val v => encode f (v.div (decodeF32 scale.toNat)) mode 0 ovf
  | .inf neg => overflow f (neg != (scale.toNat ≥ 2 ^ 31)) mode ovf

end Sys2Proof.Machine
end

