-- ==== Sys2Proof/Machine/Tiles.lean ====
section
/-!
DEFINITION. Chapter 8's accumulator tiles and output stage: terms, slices, saturation, the MMA rules, the nine steps of
the output stage, and the status block with its histograms.
-/

namespace Sys2Proof.Machine

/-! ### Tiles (R230 to R236) -/

/-- A cleared tile (R233, R286). -/
def Tile.cleared : Tile :=
  { acc := List.replicate 256 0, nar := List.replicate 256 false, terms := 0, saturated := false, scales := none }

/-- A sum as a 128-bit two's-complement accumulator holds it (R230); only tiles that a program made up for TLOAD can leave
its range (log 63). -/
def accumulator (sum : Int) : Int := signedOf 128 (wrapInt 128 sum)

/-- A tile saturated under R235, each accumulator by the sign of a sum. -/
def Tile.saturate (t : Tile) (sums : List Int) : Tile :=
  { t with acc := sums.map fun a => if a ≥ 0 then 2 ^ 127 - 1 else -(2 ^ 127 - 1), saturated := true }

/-- One term: NaR, or an exact value. -/
abbrev Term := Val

/-- A term in units of 2^-64, its magnitude truncated, and whether a nonzero bit was dropped (R236). -/
def termUnits (v : Val) : Int × Bool :=
  match v with
  | .nar => (0, false)
  | .fin m e =>
    if e + 64 ≥ 0 then (m * (2 ^ (e + 64).toNat : Nat), false)
    else
      let d := 2 ^ (-(e + 64)).toNat
      let q := m.natAbs / d
      (if m < 0 then -(q : Int) else q, m.natAbs % d != 0)

/-- Whether a term's magnitude is 2^39 or more. -/
def termBig (v : Val) : Bool :=
  match v with
  | .nar => false
  | .fin m e => m != 0 && m.natAbs.log2 + e ≥ 39

/-- The three slices of a value: exact values, the first the highest (R238). NaR gives three NaR slices. -/
def slices (v : Val) : List Val :=
  match v with
  | .nar => [.nar, .nar, .nar]
  | .fin m e =>
    if m == 0 then [.zero, .zero, .zero]
    else
      let h := m.natAbs.log2
      let m21 := if h ≤ 20 then m.natAbs * 2 ^ (20 - h) else m.natAbs / 2 ^ (h - 20)
      let e21 : Int := e + h - 20
      (List.range 3).map fun (i : Nat) =>
        let sl := m21 / 2 ^ (14 - 7 * i) % 128
        .fin (if m < 0 then -(sl : Int) else sl) (e21 + 14 - 7 * (i : Int))

/-- The terms of one element pair: one native product, or the slice products of orders below prec (R239). -/
def pairTerms (prec : Nat) (a b : Val) : List Val :=
  if prec == 0 then [a.mul b]
  else
    let sa := slices a
    let sb := slices b
    (List.range prec).flatMap fun order => (List.range (order + 1)).map fun i =>
      (sa.getD i .zero).mul (sb.getD (order - i) .zero)

/-- Terms per element pair at a precision. -/
def termsPer (prec : Nat) : Nat :=
  match prec with
  | 0 => 1
  | 1 => 1
  | 2 => 3
  | _ => 6

/-- Flags that an instruction sets: OUT_SAT, OUT_NAR, ACC_RANGE, ACC_LOW. -/
structure StatusFlags where
  outSat : Bool := false
  outNar : Bool := false
  accRange : Bool := false
  accLow : Bool := false
  deriving DecidableEq, Repr

def StatusFlags.bits (f : StatusFlags) : Nat := bitsNat [f.outSat, f.outNar, f.accRange, f.accLow]

/-- One MMA on its tile (R234): the terms of each of the 256 accumulators. -/
def Tile.mma (t : Tile) (count : Nat) (terms : List (List Val)) : Tile × StatusFlags :=
  if t.saturated then (t, {})
  else if t.terms + count > 2 ^ 24 || terms.any (fun l => l.any termBig) then (t.saturate t.acc, { accRange := true })
  else
    let units := terms.map fun l => l.map termUnits
    let acc := (t.acc.zip units).map fun x => accumulator (x.1 + (x.2.map (·.1)).sum)
    let nar := (t.nar.zip terms).map fun x => x.1 || x.2.any Val.isNar
    ({ t with acc, nar, terms := t.terms + count }, { accLow := units.any fun l => l.any (·.2) })

/-- The exact product of recorded scales. -/
def scaleProduct (s : BitVec 32 × BitVec 32) : Val := (decodeF32 s.1.toNat).mul (decodeF32 s.2.toNat)

/-- Equality of exact values. -/
def sameVal (a b : Val) : Bool := !a.lt b && !b.lt a

/-- Whether recorded scales conflict (R287, R288). -/
def scalesConflict (a b : Option (BitVec 32 × BitVec 32)) : Bool :=
  match a, b with
  | some x, some y => !sameVal (scaleProduct x) (scaleProduct y)
  | _, _ => false

/-- TADD (R288, R289). Two tiles of 2^24 terms sum to 2^25, which the 25-bit counter of R232 cannot hold and for which the spec states no
value: the counter then holds a free value: DESIGN CHOICE (log 118). -/
def Tile.add (d s : Tile) : Tile × StatusFlags :=
  let sums := (d.acc.zip s.acc).map fun x => x.1 + x.2
  let terms := d.terms + s.terms
  let past := terms > 2 ^ 24
  let base : Tile := { d with nar := (d.nar.zip s.nar).map (fun x => x.1 || x.2), terms := if terms < 2 ^ 25 then terms else Config.pastTerms terms % 2 ^ 25
                              scales := if d.scales.isSome then d.scales else s.scales }
  if d.saturated || s.saturated || past then
    (base.saturate sums, { accRange := past && !d.saturated && !s.saturated })
  else ({ base with acc := sums.map accumulator }, {})

/-- The image of TSAVE: 4,096 bytes of accumulators and the tile state record (R231, R290). -/
def Tile.bytes (t : Tile) : Bytes :=
  (t.acc.flatMap fun a => toLe 16 (wrapInt 128 a)) ++ toLe 32 (bitsNat t.nar)
    ++ toLe 4 t.terms ++ toLe 1 (bitsNat [t.saturated, t.scales.isSome]) ++ zeros 3
    ++ toLe 4 ((t.scales.map fun x => x.1.toNat).getD 0) ++ toLe 4 ((t.scales.map fun x => x.2.toNat).getD 0) ++ zeros 16

/-- A tile read from such an image. -/
def Tile.ofBytes (b : Bytes) : Tile :=
  let nar := leNat (slice b 4096 32)
  let st := byteAt b 4132
  { acc := (List.range 256).map fun i => signedOf 128 (field b (16 * i) 16)
    nar := (List.range 256).map fun i => nar.testBit i
    terms := field b 4128 4 % 2 ^ 25, saturated := st % 2 == 1
    scales := if st / 2 % 2 == 1 then some (BitVec.ofNat 32 (field b 4136 4), BitVec.ofNat 32 (field b 4140 4)) else none }

/-! ### The output stage (R250 to R256) -/

/-- An internal intermediate. -/
inductive Mid where
  | nar
  | big (neg : Bool)
  | fin (v : Val)
  deriving DecidableEq, Repr

/-- An exact result rounded to an intermediate, and whether it was flushed (R250). -/
def midOf (v : Val) : Mid × Bool :=
  match v with
  | .nar => (.nar, false)
  | .fin m e =>
    if m == 0 then (.fin .zero, false)
    else
      let (sig, h) := roundSig m.natAbs e 26 2 0
      if h > 511 then (.big (m < 0), false)
      else if h < -512 then (.fin .zero, true)
      else (.fin (.fin (if m < 0 then -(sig : Int) else sig) (h - 25)), false)

/-- A step that adds x, and one that multiplies by x (R251). -/
def Mid.addStep (a : Mid) (f : Val → Val) (x : Val) : Mid × Bool :=
  match a with
  | .nar => (.nar, false)
  | .big n => (if x.isNar then .nar else .big n, false)
  | .fin v => midOf (if x.isNar then .nar else f v)

def Mid.mulStep (a : Mid) (x : Val) : Mid × Bool :=
  match a, x with
  | .nar, _ => (.nar, false)
  | _, .nar => (.nar, false)
  | .big n, .fin m _ => (if m == 0 then .fin .zero else .big (n != (m < 0)), false)
  | .fin v, _ => midOf (v.mul x)

/-- A binary32 bound: an infinity is an overflow of its sign, and a NaN compares with nothing (log 98). -/
def boundOf (c : Nat) : Mid :=
  if c / 2 ^ 23 % 256 == 255 then (if c % 2 ^ 23 == 0 then .big (c / 2 ^ 31 % 2 == 1) else .nar) else .fin (decodeF32 c)

/-- Whether a lies below b: a positive overflow above every finite value, a negative one below (R253). -/
def Mid.lt : Mid → Mid → Bool
  | .fin a, .fin b => a.lt b
  | .big true, .fin _ | .big true, .big false | .fin _, .big false => true
  | _, _ => false

/-- Step 5 with bounds lo and hi (R253). -/
def Mid.clip (a lo hi : Mid) : Mid := if a.lt lo then lo else if hi.lt a then hi else a

/-- What an OUT applies to one element. -/
structure OutParams where
  fmt : Fmt
  scale : BitVec 32
  scales : Option (BitVec 32 × BitVec 32)
  rnd : Nat
  ovf : Nat
  clip : Option (Mid × Mid)
  ew : Nat

/-- Steps 1 to 8 for one accumulator: its bias value, its step-4 element value with sE applied, the code, the flags and
whether it was flushed. -/
def outElem (p : OutParams) (acc : Int) (nar : Bool) (bias elem : Option Val) : Nat × ConvFlags :=
  let sO := decodeF32 p.scale.toNat
  let ab := (p.scales.map scaleProduct).getD (.fin 1 0)
  let (v1, f1) := midOf (if nar then .nar else .fin acc (-64))
  let (v2, f2) := match v1 with
    | .fin v => midOf ((v.mul ab).div sO)
    | x => (x, false)
  let (v3, f3) := match bias with
    | none => (v2, false)
    | some b => v2.addStep (fun v => ((v.mul sO).add b).div sO) b
  let (v4, f4) := match elem with
    | none => (v3, false)
    | some e => if p.ew == 1 then v3.addStep (fun v => ((v.mul sO).add e).div sO) e else v3.mulStep e
  let v5 := match p.clip with
    | none => v4
    | some (lo, hi) => v4.clip lo hi
  let (code, fl) := match v5 with
    | .nar => encode p.fmt .nar p.rnd 0 p.ovf
    | .big neg => overflow p.fmt neg p.rnd p.ovf
    | .fin v => encode p.fmt v p.rnd 0 p.ovf
  (code, { fl with flushed := fl.flushed || f1 || f2 || f3 || f4 })

/-! ### Histograms and the status block (R257 to R259) -/

/-- bin_shift of a target. -/
def binShift (f : Fmt) : Nat := if f = .k24 then 1 else if f = .f32 then 2 else 0

/-- The bin of a written code that is none of nar, saturated, flushed, zero. -/
def histBin (f : Fmt) (code : Nat) : Nat :=
  match f.k? with
  | some k => code / 2 ^ k.fw % 2 ^ k.ew / 2 ^ binShift f
  | none =>
    match f with
    | .f32 => code / 2 ^ 23 % 256 / 4
    | .i4 => (signedOf 4 code).natAbs.log2 + 1
    | .i8 => (signedOf 8 code).natAbs.log2 + 1
    | _ => code.log2 + 1

/-- Whether a written code is NaR, NaN or an infinity. -/
def codeNar (f : Fmt) (code : Nat) : Bool :=
  match f.k? with
  | some _ => (decode f code).isNar
  | none => f = .f32 && code / 2 ^ 23 % 256 == 255

def sat32 (n : Nat) : Nat := satAdd 0xFFFFFFFF n 1

/-- Step 9: the element in one count of its record. -/
def Hist.note (h : Hist) (f : Fmt) (code : Nat) (fl : ConvFlags) : Hist :=
  let h := { h with elements := h.elements + 1 }
  if codeNar f code then { h with nar := sat32 h.nar }
  else if fl.sat then { h with saturated := sat32 h.saturated }
  else if fl.flushed then { h with flushed := sat32 h.flushed }
  else if code == 0 then { h with zero := sat32 h.zero }
  else { h with bins := h.bins.modify (histBin f code) sat32 }

/-- A record that has counted nothing. -/
def Hist.empty (output fmt : Nat) : Hist :=
  { output, fmt, elements := 0, bins := List.replicate 64 0, zero := 0, flushed := 0, saturated := 0, nar := 0 }

/-- The 288 bytes of a histogram record. -/
def Hist.bytes (h : Hist) : Bytes :=
  let shift := ((Fmt.ofCode h.fmt).map binShift).getD 0
  toLe 2 h.output ++ toLe 1 h.fmt ++ toLe 1 shift ++ zeros 4 ++ toLe 8 h.elements ++ h.bins.flatMap (toLe 4)
    ++ toLe 4 h.zero ++ toLe 4 h.flushed ++ toLe 4 h.saturated ++ toLe 4 h.nar

/-- The status block of a run. -/
def Run.statusBytes (r : Run) : Bytes :=
  toLe 4 r.flags ++ toLe 4 r.hists.length ++ toLe 4 (r.cores.foldl (fun n c => min n c.firstFlag) 0xFFFFFFFF) ++ zeros 4 ++ toLe 8 r.elements ++ zeros 40
    ++ r.hists.flatMap Hist.bytes

/-- Flags of a core's instruction noted: the run's, and the core's first instruction that set one (R258). -/
def Run.noteFlags (r : Run) (v pc : Nat) (f : StatusFlags) : Run :=
  if f.bits == 0 then r else
    { r with flags := r.flags ||| f.bits
             cores := updWhere (fun c => c.idx == v && c.firstFlag == 0xFFFFFFFF) (fun c => { c with firstFlag := pc }) r.cores }

end Sys2Proof.Machine
end

