-- ==== Sys2Proof/Machine/Descriptors.lean ====
section
/-!
DEFINITION. The descriptor rows: what the fetch of each opcode does (chapters 14 and 15), ABORT and FENCE, and the ends
of MOVE_TENSOR and FENCE.
-/

namespace Sys2Proof.Machine

/-! ### NOP and the descriptors that fail (R12 to R15, R534) -/

/-- NOP completes with DONE at its fetch. -/
def execNop (ring : Nat) (desc : Bytes) (_host : HostImage) (s : State) : Host.Outcome State Fault Refusal :=
  fetchEvent s ring 0x00 desc fun r => s.fetchWith r 0x00 desc (some (.of 0)) .plain true

/-- A descriptor whose version is not 1 or whose opcode is not in the table (R12, R13). The row is for such a
descriptor; any other is a row of its own. -/
def execInvalidOpcodeDescriptor (ring : Nat) (desc : Bytes) (_host : HostImage) (s : State) :
    Host.Outcome State Fault Refusal :=
  let op := byteAt desc 0
  match s.sq? ring with
  | none => .next s
  | some r =>
    let res := if r.doomed.contains r.fetches then Result.of 1
      else if byteAt desc 1 % 16 != 1 then .of 4 else .invalid 1 noItem
    asked s (s.mayFetch ring op && (byteAt desc 1 % 16 != 1 || !opcodes.contains op))
      (s.fetchDone r op desc res)

/-! ### QUERY and QUERY_BATCH -/

/-- The faults of a query at its fetch, in the order of R534; from stage 5 it ends with SHED (R108). -/
def State.queryFault (s : State) (batch : Bool) (desc : Bytes) (host : HostImage) : Option Result :=
  match s.usable (field desc 8 2) with
  | none => some (.of 0x0C)
  | some c =>
    match s.queryBodyFault c batch desc with
    | some e => some e
    | none =>
      match s.queryHostFault c batch desc host with
      | some e => some e
      | none => if s.power.applied ≥ 5 then some (.of 9) else none

/-- The body of a query that passed. -/
def State.queryBody (s : State) (batch : Bool) (desc : Bytes) (host : HostImage) : CmdBody :=
  match s.usable (field desc 8 2) with
  | none => .plain
  | some c => .query (s.newQuery c batch desc host)

def execQuery (ring : Nat) (desc : Bytes) (host : HostImage) (s : State) : Host.Outcome State Fault Refusal :=
  fetchEvent s ring 0x10 desc fun r =>
    s.fetchWith r 0x10 desc (s.queryFault false desc host) (s.queryBody false desc host) false

def execQueryBatch (ring : Nat) (desc : Bytes) (host : HostImage) (s : State) : Host.Outcome State Fault Refusal :=
  fetchEvent s ring 0x11 desc fun r =>
    s.fetchWith r 0x11 desc (s.queryFault true desc host) (s.queryBody true desc host) false

/-! ### Mutations -/

/-- A mutation's work after its fetch. -/
def State.newMutation (s : State) (kind : MutKind) (entries : List MutEntry) (chunks : List Chunk) (keys : List Nat := []) :
    Mutation :=
  { kind, entries, chunks, mutationId := s.store.nextMutation, admitted := false, gen := 0, base := 0, parts := 0, perPart := 0
    issued := 0, onMedium := [], lastOnMedium := false, sent := false, holdersLeft := [], committed := none, commitRound := 0, counts := []
    keyIds := keys }

/-- What refuses a mutation that passed its checks: stage 3 (ingest table of chapter 6) and a sanitise (R684). -/
def State.mutationShed (s : State) : Option Result :=
  if s.store.sanitise.isSome then some (.of 5) else if s.power.applied ≥ 3 then some (.of 9) else none

/-- The fetch of a mutation: a fault, or its work under the next mutation_id. -/
def State.fetchMutation (s : State) (r : SubRing) (op : Nat) (desc : Bytes) (fault : Option Result) (m : Mutation) : State :=
  let fault := match fault with
    | some e => some e
    | none => s.mutationShed
  match s.commonFault r op desc, fault with
  | none, none => { s.take r (headerOf op desc) (.mutation m) false with store.nextMutation := s.store.nextMutation + 1 }
  | _, _ => s.fetchWith r op desc fault .plain false

/-- The entry of an insert item: its vector, and its payload's plaintext (R164). -/
def InsertItem.entry (c : Collection) (i : InsertItem) : MutEntry :=
  { id := i.id, attr := i.attr, vec := some i.vec
    payload := i.env.bind fun e => (c.openEnvelope e).map fun p => p.take 4096, record := none }

/-- The keys that a command's envelopes were checked with: each one's own, and the root key where a payload is kept
(R613, R616). -/
def Collection.keysOf (c : Collection) (envs : List Envelope) : List Nat :=
  distinct (envs.map (·.keyId) ++ (if envs.any fun e => e.flags % 2 == 1 then (c.root?.map (·.keyId)).toList else []))

def execInsert (ring : Nat) (desc : Bytes) (host : HostImage) (s : State) : Host.Outcome State Fault Refusal :=
  fetchEvent s ring 0x20 desc fun r =>
    match s.usable (field desc 8 2) with
    | none => s.fetchMutation r 0x20 desc (some (.of 0x0C)) (s.newMutation .insert [] [])
    | some c =>
      let (fault, items) := s.insertFault c desc host
      s.fetchMutation r 0x20 desc fault (s.newMutation .insert (items.map (·.entry c)) [] (c.keysOf (items.filterMap (·.env))))

/-- The fetch of a DELETE or a SET_ATTR. -/
def State.fetchIds (s : State) (r : SubRing) (op : Nat) (k : MutKind) (desc : Bytes) (host : HostImage) : State :=
  match s.usable (field desc 8 2) with
  | none => s.fetchMutation r op desc (some (.of 0x0C)) (s.newMutation k [] [])
  | some c =>
    let (fault, es) := s.idsFault c k desc host
    s.fetchMutation r op desc fault (s.newMutation k es [])

def execDelete (ring : Nat) (desc : Bytes) (host : HostImage) (s : State) : Host.Outcome State Fault Refusal :=
  fetchEvent s ring 0x21 desc fun r => s.fetchIds r 0x21 .delete desc host

def execSetAttr (ring : Nat) (desc : Bytes) (host : HostImage) (s : State) : Host.Outcome State Fault Refusal :=
  fetchEvent s ring 0x22 desc fun r => s.fetchIds r 0x22 .setAttr desc host

/-- A chunk after its checks: decrypted and tokenized. -/
def Collection.chunkOf (c : Collection) (e : Envelope) : Chunk :=
  let plain := (c.openEnvelope e).getD []
  let t := match c.tokenizer with
    | some t => t.run plain
    | none => ([], false)
  { id := e.id, attr := e.attr, keyId := e.keyId, keep := e.flags % 2 == 1, plain, tokens := t.1, truncated := t.2 }

/-- EMBED_INSERT: checked, decrypted, tokenized, and pending until its chunks are embedded (R180). Its entries take
their vectors from the embedding program's rows. -/
def execEmbedInsert (ring : Nat) (desc : Bytes) (host : HostImage) (s : State) : Host.Outcome State Fault Refusal :=
  fetchEvent s ring 0x23 desc fun r =>
    match s.usable (field desc 8 2) with
    | none => s.fetchMutation r 0x23 desc (some (.of 0x0C)) (s.newMutation .embed [] [])
    | some c =>
      let (fault, envs) := s.embedFault c desc host
      let chunks := envs.map c.chunkOf
      let entries := chunks.map fun k =>
        ({ id := k.id, attr := k.attr, vec := none, payload := if k.keep then some (k.plain.take 4096) else none, record := none } : MutEntry)
      s.fetchMutation r 0x23 desc fault (s.newMutation .embed entries chunks (c.keysOf envs))

/-! ### Store commands (R393 to R398) -/

/-- The faults of a store command's body (R724: range, then address), its atomic size, and a sanitise (R684). -/
def State.storeFault (s : State) (k : StoreKind) (desc : Bytes) : Option Result :=
  let a := field desc 0x10 8
  let first := field desc 0x18 8
  let n := field desc 0x20 4
  let trim := decide (k = .trim)
  firstBad [
    (n == 0 || (!trim && n > 512) || (trim && a != 0) || first + n > s.store.hostSectors, .invalid 4 noItem),
    (!trim && addrBad a (n * 4096) 4096, .invalid 5 noItem),
    (decide (k = .write) && byteAt desc 2 % 2 == 1 && n * 4096 > s.atomicLimit, .of 0x0B),
    (s.store.sanitise.isSome, .of 5)]

/-- Whether both store services run. -/
def State.storesUp (s : State) : Bool := s.compUp Component.store0 && s.compUp Component.store1

/-- A store command fetched and, while both store services run, issuing its sectors; otherwise it waits for their
restart (R564). The data of a write is what the command's image holds (R537). -/
def State.fetchStore (s : State) (r : SubRing) (op : Nat) (k : StoreKind) (desc : Bytes) (host : HostImage) : State :=
  let n := field desc 0x20 4
  let w : StoreWork := { kind := k, dataAddr := field desc 0x10 8, first := field desc 0x18 8, count := n, issued := 0
                         data := if k = .write then hostRead host (field desc 0x10 8) (n * 4096) else [] }
  s.fetchWith r op desc (s.storeFault k desc) (.store w)
    (s.serves Component.store0 && s.serves Component.store1)

def execStoreRead (ring : Nat) (desc : Bytes) (host : HostImage) (s : State) : Host.Outcome State Fault Refusal :=
  fetchEvent s ring 0x30 desc fun r => s.fetchStore r 0x30 .read desc host

def execStoreWrite (ring : Nat) (desc : Bytes) (host : HostImage) (s : State) : Host.Outcome State Fault Refusal :=
  fetchEvent s ring 0x31 desc fun r => s.fetchStore r 0x31 .write desc host

def execStoreTrim (ring : Nat) (desc : Bytes) (host : HostImage) (s : State) : Host.Outcome State Fault Refusal :=
  fetchEvent s ring 0x32 desc fun r => s.fetchStore r 0x32 .trim desc host

/-- Sectors of a store command's range that take effect: the first n (R519), on the medium too (R401). -/
def State.storeApply (s : State) (w : StoreWork) (n : Nat) (reach : Bool) : State :=
  let a := w.first * 4096
  let clean : State := { s with store.failing := s.store.failing.filter fun k => !(w.first ≤ k && k < w.first + n) }
  match w.kind with
  | .write => ({ clean with store.host := Mem.write s.store.host a (w.data.take (n * 4096)) }).flashProgram 0 w.first n
  | .trim => ({ clean with store.host := Mem.clear s.store.host a (n * 4096) }).flashDrop 0 w.first n
  | .read =>
    let s1 := s.flashRead 0 w.first n
    if reach then s1.hostWrite w.dataAddr (Mem.read s.store.host a (n * 4096)) else s1

/-- A failed read of the flash for a command, with its record; which flash channel it names is open (R399, log 2). -/
def State.flashFailure (s : State) (c : Cmd) (sector : Nat) : State :=
  (s.record { code := 0x0020, severity := 1, unitKind := 9, unit := Config.freeNat s.free % 32, address := sector, tag := c.hdr.tag, ring := c.ring
              }).draw 1

/-- STORE_COMPLETION: every sector of the command is programmed or read (R395, R396, R399). -/
def execStoreCompletion (cid : Nat) (s : State) : Host.Outcome State Fault Refusal :=
  match s.cmd? cid with
  | none => .next s
  | some c =>
    match c.body with
    | .store w =>
      let fails := decide (w.kind = .read) && s.sectorFails (w.first * 4096) (w.count * 4096)
      let bad := (s.store.failing.find? fun k => w.first ≤ k && k < w.first + w.count).getD w.first
      let done := (s.storeApply w w.count (!c.unreachable)).complete cid { Result.of 0 with b := w.count }
      let failed := (s.flashFailure c bad).complete cid (.of 8)
      event s (c.admitted && c.held.isNone && s.storesUp)
        (if fails then s.settled failed else done)
    | _ => .next s

/-! ### RUN_PROGRAM and MOVE_TENSOR -/

/-- The device clears a program's status block when a RUN_PROGRAM of it begins (R257): 64 bytes of header, with
first_flag_instr all ones, and the histogram records of its outputs. -/
def clearedStatus (p : Program) : Bytes :=
  let outs := (p.tensors.filter fun t => t.role == 2).length
  zeros 4 ++ toLe 4 outs ++ toLe 4 0xFFFFFFFF ++ zeros 52 ++ zeros (288 * outs)

/-- A new invocation of a program, which waits for clusters. Its histogram records stand in ascending output_index (R309). -/
def State.newRun (s : State) (p : Program) (why : RunFor) (seed : Nat) (args : List (Nat × TensorDesc)) (cleared : Bool := false) : State :=
  let outs := sortNats ((p.tensors.filter fun t => t.role == 2).map (·.output))
  let hist (o : Nat) : Hist := Hist.empty o (((p.tensors.find? fun t => t.role == 2 && t.output == o).map (·.desc.format)).getD 0)
  let r : Run :=
    { rid := s.comp.nextRun, handle := p.handle, why, seed, args, teams := [], teamsDone := [], cores := [], shared := []
      moves := [], nextTid := 1, flags := 0, elements := 0, hists := outs.map hist, wrote := 0
      fill := s.free, fault := none, medium := false, cleared, saved := [], announced := 0 }
  { s with comp.runs := s.comp.runs ++ [r], comp.nextRun := s.comp.nextRun + 1, free := s.free + 1 }

/-- Whether a RUN_PROGRAM of a handle is under way. -/
def State.runsFor (s : State) (handle : Nat) : Bool :=
  s.comp.runs.any fun x => x.handle == handle && match x.why with
    | .command _ => true
    | _ => false

/-- RUN_PROGRAM: checked, and a run of its program waits for cluster windows. Its status block is cleared now unless
another run of the handle is under way, whose block it is (R257, R314). -/
def execRunProgram (ring : Nat) (desc : Bytes) (host : HostImage) (s : State) : Host.Outcome State Fault Refusal :=
  fetchEvent s ring 0x40 desc fun r =>
    let mask := field desc 0x14 2
    let args := ((List.range 16).filter fun i => mask.testBit i).map fun i =>
      (i, parseTensor (hostRead host (field desc 0x20 8 + 64 * i) 64))
    let handle := field desc 0x10 4
    let seed := field desc 0x18 8
    let req : RunReq := { handle, seed, args, run := some s.comp.nextRun }
    match s.commonFault r 0x40 desc, s.runFault desc host, s.comp.programs.find? (fun p => p.handle == handle) with
    | none, none, some p =>
      let alone := !s.runsFor handle
      let s2 := (s.take r (headerOf 0x40 desc) (.run req) false).newRun p (.command s.rings.nextCid) (if seed == 0 then p.seed else seed) args alone
      let s3 := { s2 with group.barred := s2.group.barred.filter fun b => b.1 != handle }
      if alone then s3.writeT1 p.status (clearedStatus p) else s3
    | _, _, _ => s.fetchWith r 0x40 desc (s.runFault desc host) .plain true

/-- Bytes of an allow-list that a transfer may have changed in the round that admits its query: free (R72, log 2). -/
def AllowList.blur (a : AllowList) (free addr n : Nat) : AllowList :=
  { a with bits := ((List.range a.bits.length).zip a.bits).map fun x =>
      if addr ≤ a.addr + x.1 && a.addr + x.1 < addr + n then Config.freeByte free x.1 else x.2 }

/-- The allow-lists of the queries admitted in this round, where a MOVE_TENSOR under way writes over them (R72). -/
def State.blurAllows (s : State) : State :=
  let dsts := s.rings.cmds.filterMap fun c => match c.body with
    | .move m => if m.started && m.dst.tier == 1 && !c.finished then some (m.dst.address, (m.dst.fmt?.map m.dst.span).getD 0) else none
    | _ => none
  let blur (a : AllowList) : AllowList := dsts.foldl (fun a d => a.blur s.free d.1 d.2) a
  let upd (c : Cmd) : Cmd := match c.body with
    | .query q =>
      if c.admitted && q.admitRound == s.clock.round then
        { c with body := .query { q with plan.filter.allows := q.plan.filter.allows.map blur } } else c
    | _ => c
  { s.draw 1 with rings.cmds := s.rings.cmds.map upd }

/-- The fault of a MOVE_TENSOR (R707), and SHED where it names T2 under R389. -/
def State.moveCheck (s : State) (desc : Bytes) (src dst : TensorDesc) : Option Result :=
  match firstBad [(addrBad (field desc 0x10 8) 128 64, .invalid 5 noItem)] with
  | some e => some e
  | none =>
    match s.moveFault src dst with
    | some e => some e
    | none => if s.t2Shed [src, dst] then some (.of 9) else none

def execMoveTensor (ring : Nat) (desc : Bytes) (host : HostImage) (s : State) : Host.Outcome State Fault Refusal :=
  fetchEvent s ring 0x41 desc fun r =>
    let a := field desc 0x10 8
    let src := parseTensor (hostRead host a 64)
    let dst := parseTensor (hostRead host (a + 64) 64)
    let up := s.serves Component.memory
    match s.commonFault r 0x41 desc, s.moveCheck desc src dst with
    | none, none => ((s.draw 1).take r (headerOf 0x41 desc) (.move { src, dst, started := up, flown := none }) up).blurAllows
    | _, _ => s.fetchWith r 0x41 desc (s.moveCheck desc src dst) .plain true

/-- The first failing sector that a move's source meets. -/
def State.failingOf (s : State) (m : MoveWork) : Nat :=
  let l := (m.src.fmt?.map fun f => readRows m.src f m.src.dims []).getD []
  (s.store.failing.find? fun k => l.any fun x => k * 4096 < x.1 + x.2 && x.1 < (k + 1) * 4096).getD 0

/-- Whether the bulk transfers of a T2 transfer have been launched, have gone out whole, and have brought what they asked for (R387,
R460). -/
def State.flownOver (s : State) (flown : Option (List Nat)) : Bool :=
  flown.any fun l => !(s.group.hops.any fun h => h.slot == 3 && h.flow.src == s.group.index && l.contains h.flow.tid)
    && !s.mem.t2Reads.any fun r => l.contains r.1

/-- MOVE_TENSOR_DONE: every element is copied, or a read met poison, a failing sector or a closed window (R378, R388,
R399). Where it names T2, its flits have travelled in bulk slots (R387), and it pauses while either module sheds (R389). -/
def execMoveTensorDone (cid : Nat) (host : HostImage) (s : State) : Host.Outcome State Fault Refusal :=
  match s.cmd? cid with
  | none => .next s
  | some c =>
    match c.body with
    | .move m =>
      let reach := !(c.unreachable && m.dst.tier == 4)
      let l := s.moveRows m host
      let total := (l.map fun x => x.2.length).sum
      let s0 := s.readMedium m.src.tier ((m.src.fmt?.map fun f => readRows m.src f m.src.dims []).getD [])
      let done := (if reach then s0.writeRows m.dst.tier l else s0).complete cid { Result.of 0 with b := total }
      let stop := s.moveStop m host reach
      let noted := if m.src.tier == 3 then stop.1.flashFailure c (s.failingOf m) else stop.1
      event s (m.started && c.held.isNone && s.compUp Component.memory
          && (!m.namesT2 || s.moveFails m || (s.flownOver m.flown && !s.t2Shed [m.src, m.dst])))
        (if s.moveFails m then s.settled (noted.complete cid { Result.of 8 with b := stop.2 }) else done)
    | _ => .next s

/-! ### ABORT (R516 to R522) -/

/-- A ring's tail as the device reads it from the doorbell page; an invalid word is ignored (R504). -/
def State.readTail (s : State) (h : HostImage) (r : SubRing) : Nat :=
  let w := field (hostRead h (s.regs.doorbell.toNat + 4 * r.num) 4) 0 4
  if w ≥ r.size then r.tail else w

/-- Positions, from the head, of the unfetched descriptors before a tail, with their tags. -/
def unfetchedTags (h : HostImage) (r : SubRing) (tail : Nat) : List (Nat × Nat) :=
  (List.range ((tail + r.size - r.head) % r.size)).map fun i =>
    (r.fetches + i, field (hostRead h (r.base + 128 * ((r.head + i) % r.size) + 4) 4) 0 4)

/-- What an ABORT does to a fetched target: the state with the target completed, the outcome and the count. -/
def State.abortFetched (s : State) (c : Cmd) (h : HostImage) : State × Nat × Nat :=
  let caught : State × Nat × Nat := ((s.dropWork c).complete c.cid (.of 1), 0, 0)
  match c.body with
  | .plain => (s, 2, 0)
  | .fence _ => caught
  | .query _ => caught
  | .mutation m => if c.admitted && m.issued > 0 then (s, 2, 0) else caught
  | .store w =>
    if !c.admitted then caught else
    -- how many sectors had been issued when the ABORT came is open: a free value (log 2)
    let n := Config.freeNat s.free % (w.count + 1)
    let s1 := s.draw 2
    match w.kind with
    | .read =>
      let part := freePart (s.free + 1) (rowBytesOf [(w.dataAddr, Mem.read s.store.host (w.first * 4096) (n * 4096))])
      let s2 := part.foldl (fun s x => s.hostWrite x.1 [x.2]) s1
      (s2.complete c.cid { Result.of 1 with b := n }, if part.isEmpty then 0 else 1, part.length)
    | _ => ((s1.storeApply w n true).complete c.cid { Result.of 1 with b := n }, if n == 0 then 0 else 1, n)
  | .move m =>
    if !m.started then caught else
    let (s1, n) := s.moveStop m h true
    (s1.complete c.cid { Result.of 1 with b := n }, if n == 0 then 0 else 1, n)
  | .run _ =>
    let mine := s.comp.runs.filter fun r => r.why.serves c.cid
    let n := sumBy s.outWritten mine
    let s1 := mine.foldl (fun s r => (s.finishMoves r h).updRun r.rid ({ · with moves := [] })) s
    ((s1.dropRuns c.cid).complete c.cid (.of 1), if n == 0 then 0 else 1, n)

/-- An ABORT's action on its target (R516, R517): the state, the outcome and the count. -/
def State.abortTarget (s : State) (ring tag : Nat) (h : HostImage) : State × Nat × Nat :=
  match s.rings.cmds.find? fun c => c.ring == ring && c.hdr.tag == tag && !c.unreachable && !c.finished with
  | some c => s.abortFetched c h
  | none =>
    match s.sq? ring with
    | none => (s, 3, 0)
    | some r =>
      match (unfetchedTags h r (s.readTail h r)).find? fun x => x.2 == tag && !r.doomed.contains x.1 with
      | some x => (s.updSq ring fun q => { q with doomed := q.doomed ++ [x.1] }, 0, 0)
      | none => (s, if r.recent.contains tag then 2 else 3, 0)

/-- ABORT: the target's completion goes before its own (R522). -/
def execAbort (ring : Nat) (desc : Bytes) (host : HostImage) (s : State) : Host.Outcome State Fault Refusal :=
  fetchEvent s ring 0x50 desc fun r =>
    match s.commonFault r 0x50 desc with
    | some e => s.fetchDone r 0x50 desc e
    | none =>
      let cid := s.rings.nextCid
      let s1 := s.take r (headerOf 0x50 desc) .plain true
      let own := fun (c : Cmd) => { c with finished := true }
      let back := fun (c : Cmd) => { c with finished := false }
      let (s2, outcome, count) := (s1.updCmd cid own).abortTarget (byteAt desc 0x10) (field desc 0x14 4) host
      (s2.updCmd cid back).complete cid { Result.of 0 with detail := outcome, b := count }

/-! ### FENCE (R512 to R515) -/

/-- The rings of a mask that a FENCE on another ring covers, and the position before which it covers each. -/
def State.fenceRings (s : State) (own : Nat) (desc : Bytes) (h : HostImage) : List (Nat × Nat) :=
  (s.rings.sqs.filter fun r => r.num != own && (byteAt desc (0x10 + r.num / 8)).testBit (r.num % 8) && !r.stopped).map
    fun r => (r.num, r.fetches + (s.readTail h r + r.size - r.head) % r.size)

/-- The outstanding commands that a new FENCE covers: those of its own ring and of the rings of its mask. -/
def State.fenceCovers (s : State) (own : Nat) (desc : Bytes) : List Nat :=
  (s.rings.cmds.filter fun c => !c.unreachable && c.hdr.opcode != 0x50
    && (c.ring == own || (byteAt desc (0x10 + c.ring / 8)).testBit (c.ring % 8))).map (·.cid)

def execFence (ring : Nat) (desc : Bytes) (host : HostImage) (s : State) : Host.Outcome State Fault Refusal :=
  fetchEvent s ring 0x51 desc fun r =>
    let covered := s.fenceCovers ring desc
    s.fetchWith r 0x51 desc none
      (.fence { covered, unfetched := s.fenceRings ring desc host, total := covered.length }) true

/-- Whether a FENCE's covered commands have all completed: none is outstanding, and every covered position of its rings
has been fetched or will not be. -/
def State.fenceOver (s : State) (f : FenceWork) : Bool :=
  f.covered.isEmpty && f.unfetched.all fun u => match s.sq? u.1 with
    | none => true
    | some r => r.stopped || r.fetches ≥ u.2

/-- FENCE_COMPLETE: DONE with the number of commands covered, and its ring fetches again (R513). -/
def execFenceComplete (cid : Nat) (s : State) : Host.Outcome State Fault Refusal :=
  match s.cmd? cid with
  | none => .next s
  | some c =>
    match c.body with
    | .fence f => event s (s.fenceOver f && c.held.isNone)
        (s.complete cid { Result.of 0 with a := f.total })
    | _ => .next s

end Sys2Proof.Machine
end

