-- ==== Sys2Proof/Machine/Mailbox.lean ====
section
/-!
DEFINITION. The Emnil mailbox (chapter 16): framing, the checks of R581 in their order, the taking of a message, and the
messages of the mailbox service, the ring service and the log service.
-/

namespace Sys2Proof.Machine

/-! ### Framing (R575, R576, R725) -/

def magic : Nat := 0x4C4E4D45

/-- Bytes of a message as its header gives them. -/
def msgLen (cells : Bytes) : Nat := field cells 0x0C 4

/-- Whether the length of a message's header lies in the range and step of its type. -/
def lengthGood (cells : Bytes) : Bool :=
  let n := msgLen cells
  if field cells 6 2 == 0 then 64 ≤ n && n ≤ 4032 && n % 64 == 0 else 32 ≤ n && n ≤ 1984 && n % 16 == 0

/-- Whether a message can be framed at a cell with a number of cells written (R725). -/
def framed (cells : Bytes) (head avail : Nat) : Bool :=
  field cells 0 4 == magic && lengthGood cells && head % 63 + ceilDiv (msgLen cells) 64 ≤ 63
    && ceilDiv (msgLen cells) 64 ≤ avail

/-- Cells that the driver has written and the device has not taken. -/
def State.mailCells (s : State) : Nat := cellsUsed s.mail.toTail s.mail.toHead

/-! ### The checks of R581 -/

/-- Steps 1 and 2: the crc over the message with its crc field zero, then the version 1.0. -/
def crcFault (m : Bytes) : Option (Nat × Nat) :=
  if crc32 (m.take 0x18 ++ zeros 4 ++ m.drop 0x1C) != field m 0x18 4 then some (1, 0x18)
  else if byteAt m 4 != 1 then some (2, 4) else if byteAt m 5 != 0 then some (2, 5) else none

/-- The first byte that holds a bit of a reserved field: ranges are offset, length and mask (step 4, R16, R726). The
header's flags [15:2] and its last four bytes are reserved for every type. R726 speaks of body layouts only, so a request's reply_to,
status and flags [1:0] are not checked: DESIGN CHOICE (log 111). -/
def reservedAt (m : Bytes) (l : List (Nat × Nat × Nat)) : Option Nat :=
  (List.range m.length).find? fun o =>
    (((0x16, 1, 0xFC) :: (0x17, 1, 0xFF) :: (0x1C, 4, 0xFF) :: l).any fun r =>
      r.1 ≤ o && o < r.1 + r.2.1 && (byteAt m o &&& r.2.2) != 0)

/-- Steps 1 to 4 for a message whose body ends at an offset: result code and field_offset of the first failure. -/
def msgFault (bodyEnd : Nat) (reserved : List (Nat × Nat × Nat)) (m : Bytes) : Option (Nat × Nat) :=
  match crcFault m with
  | some e => some e
  | none =>
    if m.length < bodyEnd then some (5, 0x0C)
    else match reservedAt m ((bodyEnd, m.length - bodyEnd, 0xFF) :: reserved) with
      | some o => some (4, o)
      | none => none

/-- Step 5: the offset of the first field out of range, in the order given. -/
def fieldAt (l : List (Bool × Nat)) : Option Nat := (l.find? (·.1)).map (·.2)

/-- No byte of a message is at fault. -/
def noOffset : Nat := 0xFFFFFFFF

/-! ### Taking a message (R578, R647) -/

/-- Whether an owner runs and holds no new work for its activation. -/
def State.serving (s : State) (owner : Nat) : Bool :=
  if owner == Component.gatehouse then s.fw.gatehouse == .up
  else if owner == Component.lodge then s.fw.lodge == .up
  else s.compUp owner

/-- Whether the device takes the next message from the page: the mailbox service runs, the words are consistent, a cell
is written, fewer than 256 messages await replies, and the device is at READY or in shelter mode. -/
def State.mayTake (s : State) : Bool :=
  s.compUp Component.mailboxService && !s.mail.badWord && s.mailCells > 0 && s.mail.awaiting.length < 256
    && (s.regs.ready || s.regs.shelter)

/-- n cells taken: to_dev_head advances, in the device's view and in the control area. -/
def State.takeCells (s : State) (n : Nat) : State :=
  let s1 := { s.readOk s.regs.mboxTo.toNat 4096 with mail.toHead := (s.mail.toHead + n) % 4032 }
  s1.hostWrite s1.regs.mboxFrom.toNat (toLe 4 s1.mail.toHead)

/-- What a message type's table entry fixes: type code, end of its body, owner, and whether shelter mode accepts it. -/
structure MsgForm where
  type : Nat
  bodyEnd : Nat
  owner : Nat
  shelterOk : Bool := false
  deriving DecidableEq, Repr

/-- The bytes of a framed message. -/
def msgBytes (cells : Bytes) : Bytes := cells.take (msgLen cells)

/-- A framed message taken whole and put among those that await a reply (R578). -/
def State.takeMessage (s : State) (f : MsgForm) (cells : Bytes) : State :=
  let s1 := s.takeCells (ceilDiv (msgLen cells) 64)
  { s1 with mail.awaiting := s1.mail.awaiting ++ [⟨field cells 8 4, f.type, f.owner⟩] }

/-- A message taken and answered: the refusal of the first failed check, or what the message does. A message whose
owner restarts stays unanswered until the owner returns (R569); the gatehouse's are answered at once (R574). -/
def State.message (s : State) (f : MsgForm) (cells : Bytes) (reserved : List (Nat × Nat × Nat)) (bad : Option Nat)
    (run : State → Nat → State) : State :=
  let m := msgBytes cells
  let seq := field m 8 4
  let s1 := s.takeMessage f cells
  match msgFault f.bodyEnd reserved m with
  | some (code, off) => s1.refuse f.type seq code off 0
  | none =>
    match bad with
    | some off => s1.refuse f.type seq 5 off 0
    | none =>
      if s.regs.shelter && !f.shelterOk then s1.refuse f.type seq 6 noOffset 0
      else if s.serving f.owner then run s1 seq
      else if f.owner == Component.gatehouse then s1.refuse f.type seq 10 noOffset 0
      else s1

/-- A message row: while untethered every message but HELLO is discarded without reply (R579); otherwise the message
must be the next in the page, of its row's type and kind, and framed, and its owner must not be holding new work for an
activation (R593). -/
def messageEvent (s : State) (f : MsgForm) (cells : Bytes) (reserved : List (Nat × Nat × Nat)) (kind : Bool)
    (bad : Option Nat) (run : State → Nat → State) : Host.Outcome State Fault Refusal :=
  asked s (kind && field cells 6 2 == f.type && (s.regs.untethered ||
      (s.mayTake && framed cells s.mail.toHead s.mailCells && msgLen cells ≤ cells.length && s.moving != some f.owner)))
    (if s.regs.untethered then s else s.settled (s.message f cells reserved bad run))

/-! ### PAD, cells that cannot be framed, unknown types -/

/-- PAD: skipped without reply once it passes steps 1 and 2 (R576, R581). -/
def execPad (cells : Bytes) (_host : HostImage) (s : State) : Host.Outcome State Fault Refusal :=
  let m := msgBytes cells
  let s1 := s.takeCells (msgLen cells / 64)
  asked s (field cells 6 2 == 0 && (s.regs.untethered ||
      (s.mayTake && framed cells s.mail.toHead s.mailCells && msgLen cells ≤ cells.length)))
    (if s.regs.untethered then s
     else match crcFault m with
      | none => s1
      | some (code, off) => s1.refuse 0 (field m 8 4) code off 0)

/-- A cell that does not begin a message that can be framed: taken alone and refused under step 1 (R725). -/
def execUnframedCell (cells : Bytes) (_host : HostImage) (s : State) : Host.Outcome State Fault Refusal :=
  asked s (s.regs.untethered || (s.mayTake && 64 ≤ cells.length && !framed cells s.mail.toHead s.mailCells))
    (if s.regs.untethered then s
     else (s.takeCells 1).refuse (field cells 6 2) (field cells 8 4) 1
      (if field cells 0 4 == magic then 0x0C else 0x00) 0)

/-- The types that the driver may send (chapter 16, Message types). -/
def driverTypes : List Nat :=
  [0x00, 0x01, 0x02, 0x03, 0x10, 0x11, 0x12, 0x20, 0x21, 0x22, 0x23, 0x30, 0x31, 0x32, 0x40, 0x41, 0x50, 0x51, 0x60,
    0x61, 0x62, 0x70, 0x71, 0x80, 0x81, 0x82, 0x83, 0x84, 0x85, 0x91]

/-- A framed message of a type that the table does not list for the driver: REFUSED_TYPE after steps 1 and 2. -/
def execUnknownMessageType (cells : Bytes) (_host : HostImage) (s : State) : Host.Outcome State Fault Refusal :=
  let m := msgBytes cells
  let type := field cells 6 2
  let s1 := s.takeCells (ceilDiv (msgLen cells) 64)
  asked s (!driverTypes.contains type && (s.regs.untethered ||
      (s.mayTake && framed cells s.mail.toHead s.mailCells && msgLen cells ≤ cells.length)))
    (if s.regs.untethered then s
     else match crcFault m with
      | some (code, off) => s1.refuse type (field m 8 4) code off 0
      | none => s1.refuse type (field m 8 4) 3 6 0)

/-! ### HELLO (R579, R584 to R587) -/

/-- The refusal of a HELLO, if any: code and offset. The version range is judged after the fields (log 25). -/
def helloFault (m : Bytes) : Option (Nat × Nat) :=
  match msgFault 0x40 [(0x30, 16, 0xFF)] m with
  | some e => some e
  | none =>
    let period := field m 0x2C 4
    if period != 0 && (period < 10 || period > 10000) then some (5, 0x2C)
    else if byteAt m 0x20 > 1 then some (2, 0x20)
    else if byteAt m 0x20 == 1 && byteAt m 0x21 > 0 then some (2, 0x21)
    else if byteAt m 0x22 < 1 then some (2, 0x22)
    else none

/-- The tether of an accepted HELLO: the period, the renewal, the count and the restarted seq (R587). -/
def State.attach (s : State) (m : Bytes) : State :=
  let period := if field m 0x2C 4 == 0 then 1000 else field m 0x2C 4
  { s with
    regs := { s.regs with untethered := false }
    tether := { s.tether with period := period, last := s.clock.groupTime, attach := satAdd 0xFFFFFFFF s.tether.attach 1,
                              stackId := field m 0x24 4, stackVer := field m 0x28 4 }
    mail := { s.mail with seqOut := 1 } }

/-- The HELLO reply's body. -/
def State.helloBody (s : State) : Bytes :=
  let flags := bitsNat [s.compatible s.tether.stackId s.tether.stackVer, s.colls.any fun c => c.load == .loading]
  [1, 0] ++ toLe 1 flags ++ [0] ++ toLe 4 s.tether.period ++ toLe 4 s.fw.running ++ zeros 4 ++ s.reattach

/-- An accepted HELLO: an untether with cause 7 where a tether stood, then the tether, the reply as the first write,
the admin rings where admin_enable is 1, and what waited for a tether. -/
def State.helloAccept (s : State) (m : Bytes) (cells : Nat) : State :=
  let was := !s.regs.untethered
  let kept := s.mail
  let s1 := s.untether 7
  let s2 := if was then { s1 with mail := { s1.mail with toHead := (kept.toHead + cells) % 4032, toTail := kept.toTail,
                                                         fromHead := kept.fromHead, fromTail := kept.fromTail } }
    else { s1 with mail.toHead := cells }
  let s3 := s2.attach m
  let s4 := s3.hostWrite s3.regs.mboxFrom.toNat (toLe 4 s3.mail.toHead)
  let s5 := s4.putMessage ⟨1, field m 8 4, 0, 1, s4.helloBody⟩
  let s6 := if s5.regs.adminEnable then s5.startAdmin else s5
  s6.flushMail

/-- The refusal of an untethered HELLO, written as R579 states. -/
def State.helloRefuseUntethered (s : State) (m : Bytes) (code off : Nat) : State :=
  let page := s.regs.mboxFrom.toNat
  let body := mailHeader 1 1 48 (field m 8 4) code 1 ++ toLe 4 off ++ zeros 12
  let s1 := (s.hostWrite (page + 0x40) (withCrc body)).hostWrite page (toLe 4 1 ++ toLe 4 1)
  { s1 with mail := { s1.mail with toHead := 0, toTail := 0, fromHead := 0, fromTail := 0, refused := true } }

/-- Whether an untethered device reads the mailbox page and finds a message at cell 0 (R579). -/
def State.mayHear (s : State) : Bool :=
  s.regs.doorbell != 0 && s.regs.mboxTo != 0 && s.regs.mboxFrom != 0 && s.pcie.busMaster && !s.pcie.d3hot
    && !s.mail.refused && s.mail.toTail != 0 && s.compUp Component.mailboxService && (s.regs.ready || s.regs.shelter)

def execHello (cells : Bytes) (_host : HostImage) (s : State) : Host.Outcome State Fault Refusal :=
  let m := msgBytes cells
  let n := ceilDiv (msgLen cells) 64
  let head := if s.regs.untethered then 0 else s.mail.toHead
  let avail := if s.regs.untethered then s.mail.toTail else s.mailCells
  let ok := field cells 6 2 == 1 && framed cells head avail && msgLen cells ≤ cells.length
    && s.moving != some Component.mailboxService && (if s.regs.untethered then s.mayHear else s.mayTake)
  asked s ok
    (match helloFault m with
      | some (code, off) =>
        if s.regs.untethered then s.helloRefuseUntethered m code off
        else (s.takeCells n).refuse 1 (field m 8 4) code off 0
      | none => s.helloAccept m n)

/-! ### CAPS and TETHER -/

/-- Clusters in service (R21, R665). -/
def State.clustersInService (s : State) : Nat :=
  64 - (distinct (s.comp.out ++ (s.comp.repairing.filter fun r => r.2.2 ≥ 1).map (·.1))).length

/-- The CAPS reply's body. -/
def State.capsBody (s : State) : Bytes :=
  toLe 4 s.fw.running ++ toLe 1 s.keys.stepping ++ toLe 1 s.clustersInService ++ zeros 2 ++ toLe 8 s.keys.serial
    ++ toLe 8 s.mem.regionBase ++ toLe 4 s.mem.regionGib ++ toLe 1 (if s.store.converting.isSome then 3 else s.store.format)
    ++ toLe 1 s.shed ++ toLe 2 s.group.size ++ toLe 8 s.store.indexSectors ++ toLe 8 s.store.hostSectors
    ++ toLe 2 s.moduleIndex ++ toLe 2 s.colls.length ++ toLe 2 s.comp.programs.length ++ toLe 2 s.power.cap
    ++ toLe 8 (sumBy Collection.liveCount s.colls) ++ zeros 32

def execCaps (cells : Bytes) (_host : HostImage) (s : State) : Host.Outcome State Fault Refusal :=
  messageEvent s ⟨2, 0x20, Component.mailboxService, true⟩ cells [] true none fun s seq => s.reply 2 seq s.capsBody

/-- TETHER renews the tether, with a new period where it carries one (R523). -/
def execTether (cells : Bytes) (_host : HostImage) (s : State) : Host.Outcome State Fault Refusal :=
  let p := field cells 0x20 4
  messageEvent s ⟨3, 0x30, Component.mailboxService, true⟩ cells [(0x24, 12, 0xFF)] true
    (fieldAt [(p != 0 && (p < 10 || p > 10000), 0x20)]) fun s seq =>
      let s1 := { s with tether := { s.tether with period := (if p == 0 then s.tether.period else p),
                                                   last := s.clock.groupTime } }
      s1.reply 3 seq (toLe 8 s1.tether.last ++ zeros 8)

/-- TETHER_EXPIRY: three periods without a renewal; neither the mailbox service nor the lodge restarts (R523, R570). -/
def execTetherExpiry (s : State) : Host.Outcome State Fault Refusal :=
  event s (!s.regs.untethered && s.compUp Component.mailboxService && s.fw.lodge == .up)
    (s.settled ((s.advance (max s.tether.last s.tether.since + 3 * s.tether.period * ticksPerMs)).untether 1))

/-! ### Rings (R499 to R502, ARB_SET) -/

/-- The fields of a RING_CREATE out of range (step 5). -/
def ringFields (m : Bytes) : Option Nat :=
  let kind := byteAt m 0x21
  let size := field m 0x24 4
  let base := field m 0x28 8
  fieldAt [(byteAt m 0x20 == 0, 0x20), (kind > 1, 0x21), (kind == 0 && byteAt m 0x22 > 3, 0x22),
    (size < 64 || size > 65536 || 2 ^ size.log2 != size, 0x24), (base % 4096 != 0 || base ≥ 2 ^ 47, 0x28),
    (kind == 0 && byteAt m 0x30 == 0, 0x30), (kind == 1 && byteAt m 0x31 > 63, 0x31),
    (kind == 1 && (field m 0x32 2 == 0 || field m 0x32 2 ≥ size), 0x32), (kind == 1 && field m 0x34 2 > 1000, 0x34)]

/-- A new submission ring of a RING_CREATE (R500). -/
def State.newSub (s : State) (m : Bytes) : SubRing :=
  { num := byteAt m 0x20, base := field m 0x28 8, size := field m 0x24 4, cls := byteAt m 0x22, cq := byteAt m 0x30, head := 0
    tail := 0, badWord := false, stopped := false, deleteMsg := none, doomed := [], recent := []
    fetches := s.coverEnd (byteAt m 0x20) }

/-- A new completion ring of a RING_CREATE (R500). -/
def newCmp (m : Bytes) : CmpRing :=
  { num := byteAt m 0x20, base := field m 0x28 8, size := field m 0x24 4, vector := byteAt m 0x31, count := field m 0x32 2
    time := field m 0x34 2, wpos := 0, phase := true, head := 0, used := 0, unsignalled := 0, since := 0, badWord := false }

/-- RING_CREATE: the ring exists from here on, or the refusal (R499; codes, log 26). -/
def execRingCreate (cells : Bytes) (_host : HostImage) (s : State) : Host.Outcome State Fault Refusal :=
  let m := msgBytes cells
  let kind := byteAt m 0x21
  messageEvent s ⟨0x10, 0x40, Component.ringService, true⟩ cells
    ([(0x23, 1, 0xFF), (0x36, 10, 0xFF)] ++ (if kind == 1 then [(0x22, 1, 0xFF)] else [])) true (ringFields m) fun s seq =>
      let n := byteAt m 0x20
      if kind == 0 then
        if (s.sq? n).isSome then s.refuse 0x10 seq 6 0x20 0
        else if (s.cq? (byteAt m 0x30)).isNone then s.refuse 0x10 seq 6 0x30 0
        else ({ s with rings.sqs := s.rings.sqs ++ [s.newSub m] }).reply 0x10 seq []
      else if (s.cq? n).isSome then s.refuse 0x10 seq 6 0x20 0
      else ({ s with rings.cqs := s.rings.cqs ++ [newCmp m] }).reply 0x10 seq []

/-- Commands of a submission ring that are still outstanding. -/
def State.outstanding (s : State) (n : Nat) : Bool := s.rings.cmds.any fun c => c.ring == n && !c.unreachable

/-- A submission ring taken away. -/
def State.removeSq (s : State) (n : Nat) : State := { s with rings.sqs := s.rings.sqs.filter fun r => r.num != n }

/-- RING_DELETE (R501, R502). -/
def execRingDelete (cells : Bytes) (_host : HostImage) (s : State) : Host.Outcome State Fault Refusal :=
  let n := byteAt cells 0x20
  let kind := byteAt cells 0x21
  messageEvent s ⟨0x11, 0x30, Component.ringService, true⟩ cells [(0x22, 14, 0xFF)] true
    (fieldAt [(n == 0, 0x20), (kind > 1, 0x21)]) fun s seq =>
      if kind == 0 then
        match s.sq? n with
        | none => s.refuse 0x11 seq 6 0x20 0
        | some r =>
          if r.deleteMsg.isSome then s.refuse 0x11 seq 6 0x20 0
          else if s.outstanding n then s.updSq n fun r => { r with stopped := true, deleteMsg := some seq }
          else (s.removeSq n).reply 0x11 seq []
      else if (s.cq? n).isNone || s.rings.sqs.any (fun r => r.cq == n) then s.refuse 0x11 seq 6 0x20 0
      else ({ s with rings.cqs := s.rings.cqs.filter fun q => q.num != n }).reply 0x11 seq []

/-- RING_DELETE_COMPLETE: no command of the ring is outstanding any more (R501). -/
def execRingDeleteComplete (ring : Nat) (s : State) : Host.Outcome State Fault Refusal :=
  match s.sq? ring with
  | none => .next s
  | some r => event s (r.deleteMsg.isSome && !s.outstanding ring && s.compUp Component.ringService) ((s.removeSq ring).replyLater 0x11 r.deleteMsg [])

/-- ARB_SET: the weights of the next arbitration cycle (R509). -/
def execArbSet (cells : Bytes) (_host : HostImage) (s : State) : Host.Outcome State Fault Refusal :=
  let w := (List.range 4).map fun i => byteAt cells (0x20 + i)
  messageEvent s ⟨0x12, 0x30, Component.ringService, false⟩ cells [(0x24, 12, 0xFF)] true
    (fieldAt ((List.range 4).map fun i => (w.getD i 0 == 0, 0x20 + i))) fun s seq =>
      ({ s with rings.nextWeights := w }).reply 0x12 seq []

/-! ### LOG_READ (R590) -/

/-- The bytes of a recovery report's header (R685). -/
def Report.header (r : Report) : Bytes :=
  toLe 4 0x4B525231 ++ toLe 2 1 ++ toLe 1 r.cause ++ [0] ++ toLe 4 r.boot ++ toLe 4 r.entries.length ++ toLe 8 r.replayed
    ++ zeros 40

/-- A bitmap of 512 bits with the listed bits set. -/
def bitmap512 (l : List Nat) : Bytes :=
  (List.range 64).map fun i => BitVec.ofNat 8 (bitsNat ((List.range 8).map fun j => l.contains (8 * i + j)))

/-- The 128 bytes of a recovery report entry (R686). -/
def ReportEntry.bytes (e : ReportEntry) : Bytes :=
  toLe 1 e.kind ++ toLe 1 e.ring ++ toLe 2 e.coll ++ toLe 4 e.tag ++ toLe 4 e.batch ++ toLe 4 e.committed ++ toLe 8 e.seq
    ++ toLe 8 e.first ++ toLe 4 e.count ++ toLe 2 e.units ++ zeros 2 ++ toLe 4 e.trimmed ++ zeros 20 ++ bitmap512 e.bitmap

/-- The records of a LOG_READ source, oldest first. -/
def State.logRecords (s : State) (source : Nat) : List Bytes :=
  match source with
  | 0 => s.tether.staging.map fun r => r.entry ++ toLe 1 r.cq ++ zeros 7 ++ toLe 8 r.time
  | 1 => s.errors.queue.map ErrRec.bytes
  | 2 => match s.fw.report with
    | none => []
    | some r => r.header :: r.entries.map ReportEntry.bytes
  | _ => s.fw.compat.map fun r => toLe 4 r.1 ++ toLe 4 r.2.1 ++ toLe 4 r.2.2 ++ zeros 4

/-- Whole records, oldest first, as many as a count and a buffer take. -/
def fitting : Nat → Nat → List Bytes → List Bytes
  | 0, _, _ => []
  | _, _, [] => []
  | n + 1, room, r :: rest => if r.length ≤ room then r :: fitting n (room - r.length) rest else []

/-- The first n records of a source released (R528, R590, R653). -/
def State.release (s : State) (source n : Nat) : State :=
  match source with
  | 0 =>
    let left := s.tether.staging.drop n
    if left.isEmpty then { s with tether := { s.tether with staging := [], dropped := 0, retry := 0, committed := 0 } }
    else { s with tether := { s.tether with staging := left } }
  | 1 => { s with errors.queue := s.errors.queue.drop n }
  | 2 => match s.fw.report with
    | none => s
    | some r =>
      let left := r.entries.drop (n - 1)
      if n == 0 then s
      else if left.isEmpty then { s with fw.report := none } else { s with fw.report := some { r with entries := left } }
  | _ => s

/-- The fields of a LOG_READ at fault (R590). -/
def logFields (m : Bytes) : Option Nat :=
  let max := field m 0x24 4
  let a := field m 0x28 8
  let n := field m 0x30 4
  fieldAt [(byteAt m 0x20 > 3, 0x20), (byteAt m 0x20 == 3 && byteAt m 0x21 % 2 == 1, 0x21),
    (max != 0 && (a == 0 || a % 64 != 0 || a + n > 2 ^ 47), 0x28), (max != 0 && n == 0, 0x30)]

def execLogRead (cells : Bytes) (_host : HostImage) (s : State) : Host.Outcome State Fault Refusal :=
  let m := msgBytes cells
  let max := field m 0x24 4
  let source := byteAt m 0x20
  messageEvent s ⟨0x91, 0x40, Component.log, true⟩ cells
    ([(0x21, 1, 0xFE), (0x22, 2, 0xFF), (0x34, 12, 0xFF)] ++ (if max == 0 then [(0x28, 12, 0xFF)] else [])) true
    (logFields m) fun s seq =>
      let all := s.logRecords source
      let out := fitting max (field m 0x30 4) all
      let s1 := if max == 0 then s else s.hostWrite (field m 0x28 8) out.flatten
      let s2 := if byteAt m 0x21 % 2 == 1 then s1.release source out.length else s1
      s2.reply 0x91 seq (toLe 4 out.length ++ toLe 4 (all.length - out.length) ++ zeros 8)

end Sys2Proof.Machine
end

