-- ==== Sys2Proof/Machine/Keys.lean ====
section
/-!
DEFINITION. The gatehouse's messages: keys and attestation (chapter 17), service sessions and configuration records
(chapter 19).
-/

namespace Sys2Proof.Machine

/-! ### Text and the measurement log (R596, R602, R603) -/

/-- The ASCII bytes of a text label (R596). -/
def ascii (t : String) : Bytes := t.toList.map fun c => BitVec.ofNat 8 c.toNat

/-- The 64 bytes of a measurement log entry. -/
def LogEntry.bytes (e : LogEntry) (i : Nat) : Bytes :=
  toLe 4 i ++ toLe 2 e.event ++ toLe 2 e.comp ++ toLe 4 e.version ++ zeros 4 ++ padTo 32 e.digest ++ zeros 16

/-- The log's entries as bytes. -/
def logBytes (l : List LogEntry) : List Bytes := ((List.range l.length).zip l).map fun x => x.2.bytes x.1

/-- The log digest of R603. -/
def logDigest (l : List LogEntry) : Bytes := (logBytes l).foldl (fun r e => Config.sm3 (r ++ e)) (zeros 32)

/-- The final entry of a full log. -/
def logFinal : LogEntry := ⟨0xFF, 0, 0, zeros 32⟩

/-- Whether the log takes no further event: 511 of its 512 entries are in use (R602). -/
def State.logFull (s : State) : Bool := s.keys.log.length ≥ 511

/-- The final entry put into a log with 511 entries (R602). -/
def State.sealLog (s : State) : State :=
  if s.keys.log.length == 511 then { s with keys.log := s.keys.log ++ [logFinal] } else s

/-- An event appended to the log, and the final entry behind the one that makes it full. -/
def State.appendLog (s : State) (e : LogEntry) : State :=
  if s.logFull then s.sealLog else { s with keys.log := s.keys.log ++ [e] }.sealLog

/-- The refusal of a message that would append to a full log (R602). -/
def State.refuseFull (s : State) (type seq : Nat) : State := s.sealLog.refuse type seq 7 noOffset 0

/-! ### Derived keys (R598, R615, R620) -/

/-- The identity private key, as the bytes that the derivation of R598 gives; none while the seed is not there. -/
def State.identity? (s : State) : Option Bytes := s.keys.seed.map fun x => Config.kdf (x ++ ascii "JW81 identity") 40

/-- The payload key of a collection that holds a root key (R615). -/
def Collection.payloadKey (c : Collection) (r : CollKey) : Bytes := Config.kdf (r.key ++ ascii "JW81 payload" ++ c.salt) 32

/-- The result key. -/
def Collection.resultKey (c : Collection) (r : CollKey) : Bytes :=
  Config.kdf (r.key ++ ascii "JW81 result" ++ toLe 2 c.cid) (if r.suite == 1 then 32 else 16)

/-! ### KEY_IMPORT (R607 to R609, R614) -/

/-- Check 4 of R608 on a key plaintext. -/
def keyPlainBad (p : Bytes) : Bool :=
  !(byteAt p 0 == 1 || byteAt p 0 == 2) || byteAt p 1 / 4 != 0 || !zeroAt p 2 2 || !zeroAt p 0x12 14
    || field p 4 4 == 0 || field p 4 4 == 0xFFFFFFFF || (byteAt p 0 == 2 && !zeroAt p 0x30 16)

/-- The key of a plaintext. -/
def keyOf (p : Bytes) (root : Bool) : CollKey :=
  { keyId := field p 4 4, suite := byteAt p 0, key := slice p 0x20 (if byteAt p 0 == 1 then 32 else 16), root
    persistent := byteAt p 1 % 2 == 1, withdrawn := false }

/-- The checks of R608 in their order: code, offset and reason of the first failure (offsets, log 27). -/
def State.importFault (s : State) (m : Bytes) (plain : Option Bytes) : Option (Nat × Nat × Nat) :=
  match s.coll? (field m 0x20 2) with
  | none => some (6, 0x20, 1)
  | some c =>
    if !s.keys.imports.any (fun k => k.kid == field m 0x24 4) then some (6, 0x24, 2)
    else match plain with
      | none => some (5, 0x28, 3)
      | some p =>
        if keyPlainBad p then some (5, 0x28, 4)
        else if field p 8 8 != s.keys.serial || field p 0x10 2 != field m 0x20 2 then some (5, 0x28, 5)
        else if c.keys.any fun k => k.keyId == field p 4 4 then some (6, 0x28, 6)
        else if c.keys.length ≥ 4 then some (7, noOffset, 0)
        else none

/-- The plaintext of a KEY_IMPORT under the import key that it names. -/
def State.unwrap (s : State) (m : Bytes) : Option Bytes :=
  (s.keys.imports.find? fun k => k.kid == field m 0x24 4).bind fun k => Config.sm2Decrypt (Config.random k.secret) (slice m 0x28 161)

/-- A key taken into a collection; the first that it ever accepts is its root key and sets seal-required (R609). -/
def Collection.addKey (c : Collection) (p : Bytes) : Collection :=
  let root := !c.everKey
  { c with keys := c.keys ++ [keyOf p root], everKey := true
           sealRequired := if root then byteAt p 1 / 2 % 2 == 1 else c.sealRequired }

def execKeyImport (cells : Bytes) (_host : HostImage) (s : State) : Host.Outcome State Fault Refusal :=
  let m := msgBytes cells
  messageEvent s ⟨0x30, 0xD0, Component.gatehouse, false⟩ cells [(0x22, 2, 0xFF), (0xC9, 7, 0xFF)] true none fun s seq =>
    let plain := s.unwrap m
    match s.importFault m plain, plain with
    | some (code, off, reason), _ => s.refuse 0x30 seq code off reason
    | none, none => s
    | none, some p =>
      let root := (s.coll? (field m 0x20 2)).any fun c => !c.everKey
      let flags := bitsNat [root, byteAt p 1 % 2 == 1]
      (s.updColl (field m 0x20 2) fun c => c.addKey p).reply 0x30 seq (toLe 4 (field p 4 4) ++ toLe 1 flags ++ zeros 11)

/-! ### KEY_DESTROY (R612, R613) -/

/-- Whether a command keeps a key of a collection until it completes: a mutation whose check 6 passed with it, or an
admitted query whose result is sealed under the root key (R613). -/
def Cmd.keeps (c : Cmd) (coll : Collection) (key : Nat) : Bool :=
  c.hdr.collection == coll.cid && match c.body with
    | .mutation m => m.keyIds.contains key
    | .query q => c.admitted && q.plan.sealing != 0 && coll.keys.any fun k => k.root && k.keyId == key
    | _ => false

/-- Whether any command, or a request served for another coordinator, still keeps one of a list of keys. -/
def State.keysInUse (s : State) (coll : Collection) (l : List Nat) : Bool :=
  s.rings.cmds.any (fun c => !c.finished && l.any fun k => c.keeps coll k)
    || s.group.requests.any fun r => r.coll == coll.cid && r.work.plan.sealing != 0 && coll.keys.any fun k => k.root && l.contains k.keyId

/-- Keys zeroed in the engines, and their records gone. -/
def Collection.zeroKeys (c : Collection) (l : List Nat) : Collection :=
  { c with keys := c.keys.filter fun k => !l.contains k.keyId }

/-- Keys withdrawn from new use (R613). -/
def Collection.withdraw (c : Collection) (l : List Nat) : Collection :=
  { c with keys := c.keys.map fun k => if l.contains k.keyId then { k with withdrawn := true } else k }

/-- What refuses a KEY_DESTROY: its collection or key is not there, or it names a root key beside others (R612). -/
def State.destroyFault (s : State) (m : Bytes) : Option (Nat × Nat) :=
  match s.coll? (field m 0x20 2) with
  | none => some (0x20, 0)
  | some c =>
    if byteAt m 0x22 % 2 == 1 then none
    else match c.key? (field m 0x24 4) with
      | none => some (0x24, 0)
      | some k => if k.root && c.keys.length > 1 then some (0x24, 7) else none

/-- Keys withdrawn, and zeroed with the reply as soon as no command keeps them. -/
def State.destroyKeys (s : State) (coll seq : Nat) (l : List Nat) : State :=
  let s1 := s.updColl coll fun c => c.withdraw l
  match s1.coll? coll with
  | none => s1
  | some c =>
    if s1.keysInUse c l then s1.updColl coll fun c => { c with destroying := c.destroying ++ [(seq, l)] }
    else (s1.updColl coll fun c => c.zeroKeys l).reply 0x31 seq []

def execKeyDestroy (cells : Bytes) (_host : HostImage) (s : State) : Host.Outcome State Fault Refusal :=
  let m := msgBytes cells
  let every := byteAt m 0x22 % 2 == 1
  messageEvent s ⟨0x31, 0x30, Component.gatehouse, true⟩ cells
    ([(0x22, 1, 0xFE), (0x23, 1, 0xFF), (0x28, 8, 0xFF)] ++ (if every then [(0x24, 4, 0xFF)] else [])) true none fun s seq =>
      match s.destroyFault m with
      | some (off, reason) => s.refuse 0x31 seq 6 off reason
      | none =>
        let l := if every then (((s.coll? (field m 0x20 2)).map (·.keys)).getD []).map (·.keyId) else [field m 0x24 4]
        s.destroyKeys (field m 0x20 2) seq l

/-- KEY_DESTROY_COMPLETE: no command keeps a destroyed key any more: it is zeroed and the reply sent (R613). -/
def execKeyDestroyComplete (coll : Nat) (s : State) : Host.Outcome State Fault Refusal :=
  match s.coll? coll with
  | none => .next s
  | some c =>
    match c.destroying.find? fun d => !s.keysInUse c d.2 with
    | none => .next s
    | some d =>
      let clear (c : Collection) : Collection := { c.zeroKeys d.2 with destroying := c.destroying.filter fun x => x != d }
      event s (s.fw.gatehouse == .up) ((s.updColl coll clear).replyLater 0x31 (some d.1) [])

/-! ### ATTEST (R599, R604, R605) -/

/-- An import key drawn, the oldest of eight destroyed (R605). -/
def State.newImport (s : State) : State :=
  let l := s.keys.imports ++ [⟨s.keys.nextImport, s.free⟩]
  { s with keys := { s.keys with imports := l.drop (l.length - 8), nextImport := s.keys.nextImport + 1 }, free := s.free + 1 }

/-- The quote's bytes up to its signature. -/
def State.quoteBody (s : State) (nonce : Bytes) (key : Option ImportKey) : Bytes :=
  let log := s.keys.log
  toLe 4 0x4B515431 ++ toLe 2 1 ++ toLe 2 (bitsNat [key.isSome, s.keys.session.isSome]) ++ toLe 8 s.keys.serial
    ++ toLe 4 s.keys.bootCount ++ toLe 4 log.length ++ toLe 4 s.fw.running ++ toLe 1 s.keys.stepping ++ zeros 3
    ++ padTo 32 nonce ++ padTo 32 (logDigest log) ++ toLe 4 ((key.map (·.kid)).getD 0xFFFFFFFF) ++ zeros 12
    ++ (match key with
      | some k => padTo 64 (Config.sm2Public (Config.random k.secret))
      | none => zeros 64)

/-- The 256 bytes of a quote, signed by the identity key. -/
def State.quote (s : State) (nonce : Bytes) (key : Option ImportKey) (ident : Bytes) : Bytes :=
  let b := s.quoteBody nonce key
  b ++ padTo 64 (Config.sm2Sign ident b) ++ zeros 16

/-- Reserved fields of an ATTEST: flags[7:1] always, and what its kind leaves unused, where the kind is one of the two (R726). -/
def attestReserved (m : Bytes) : List (Nat × Nat × Nat) :=
  let k := byteAt m 0x20
  [(0x22, 2, 0xFF), (0x54, 12, 0xFF)]
    ++ (if k == 1 then [(0x21, 1, 0xFF), (0x28, 32, 0xFF)] else [(0x21, 1, 0xFE)])
    ++ (if k == 1 || (k == 0 && byteAt m 0x21 % 2 == 1) then [(0x24, 4, 0xFF)] else [])

/-- Fields of an ATTEST out of range; a quote's buffer must hold the log, a chain's 4,096 bytes. -/
def State.attestFields (s : State) (m : Bytes) : Option Nat :=
  let k := byteAt m 0x20
  let a := field m 0x48 8
  let n := field m 0x50 4
  fieldAt [(k > 1, 0x20), ((k == 1 && a == 0) || a + n > 2 ^ 47, 0x48),
    ((k == 0 && a != 0 && n < 64 * s.keys.log.length) || (k == 1 && n < 4096), 0x50)]

def execAttestQuote (cells : Bytes) (_host : HostImage) (s : State) : Host.Outcome State Fault Refusal :=
  let m := msgBytes cells
  messageEvent s ⟨0x32, 0x60, Component.gatehouse, false⟩ cells (attestReserved m) (byteAt m 0x20 != 1) (s.attestFields m)
    fun s seq =>
      let make := byteAt m 0x21 % 2 == 1
      let kid := field m 0x24 4
      match s.identity? with
      | none => s.refuse 0x32 seq 6 noOffset 0
      | some ident =>
        if !make && kid != 0xFFFFFFFF && !s.keys.imports.any (fun k => k.kid == kid) then s.refuse 0x32 seq 6 0x24 0
        else
          let s1 := if make then s.newImport else s
          let key := if make then s1.keys.imports.getLast? else s1.keys.imports.find? fun k => k.kid == kid
          let a := field m 0x48 8
          let s2 := if a == 0 then s1 else s1.hostWrite a (logBytes s1.keys.log).flatten
          s2.reply 0x32 seq (s2.quote (slice m 0x28 32) key ident)

/-- The body in force of a configuration record: that of the valid copy with the higher seq (R673). -/
def CfgRecord.inForce (r : CfgRecord) : Option (Nat × Bytes) :=
  if r.validA && (!r.validB || r.seqA ≥ r.seqB) then some (r.seqA, r.bodyA)
  else if r.validB then some (r.seqB, r.bodyB) else none

def State.record? (s : State) (n : Nat) : Option CfgRecord := s.fw.records.find? fun r => r.num == n

/-- ATTEST of kind 1: the three certificates in DER, level 2 first, as record 0x0002 gives them (R599). -/
def execAttestCertificateChain (cells : Bytes) (_host : HostImage) (s : State) : Host.Outcome State Fault Refusal :=
  let m := msgBytes cells
  messageEvent s ⟨0x32, 0x60, Component.gatehouse, false⟩ cells (attestReserved m) (byteAt m 0x20 != 0) (s.attestFields m)
    fun s seq =>
      let body := (((s.record? 2).bind CfgRecord.inForce).map (·.2)).getD []
      let out := (Config.certChain body).take (field m 0x50 4)
      (s.hostWrite (field m 0x48 8) out).reply 0x32 seq (toLe 4 out.length ++ zeros 12)

/-! ### Service sessions (R667, R668) -/

/-- Reserved fields of a SERVICE_SESSION, by action. -/
def sessionReserved (m : Bytes) : List (Nat × Nat × Nat) :=
  [(0x21, 3, 0xFF), (0x34, 12, 0xFF)] ++ (if byteAt m 0x20 == 1 then [(0x24, 4, 0xFF), (0x40, 64, 0xFF)] else [])

def sessionFields (m : Bytes) : Option Nat :=
  let d := field m 0x24 4
  fieldAt [(byteAt m 0x20 > 1, 0x20), (byteAt m 0x20 == 0 && (d < 60 || d > 86400), 0x24)]

/-- Whether a session request is Karulo's for this module at this start-up (R667). -/
def State.sessionAllowed (s : State) (m : Bytes) : Bool :=
  field m 0x28 8 == s.keys.serial && field m 0x30 4 == s.keys.bootCount
    && Config.sm2Verify 1 (slice m 0x20 32) (slice m 0x40 64)

/-- Which byte a failed session check names: serial, boot_count or the signature. -/
def State.sessionOffset (s : State) (m : Bytes) : Nat :=
  if field m 0x28 8 != s.keys.serial then 0x28 else if field m 0x30 4 != s.keys.bootCount then 0x30 else 0x40

def execServiceSessionOpen (cells : Bytes) (_host : HostImage) (s : State) : Host.Outcome State Fault Refusal :=
  let m := msgBytes cells
  messageEvent s ⟨0x85, 0x80, Component.gatehouse, false⟩ cells (sessionReserved m) (byteAt m 0x20 != 1) (sessionFields m)
    fun s seq =>
      if !s.sessionAllowed m then s.refuse 0x85 seq 9 (s.sessionOffset m) 0
      else if s.logFull then s.refuseFull 0x85 seq
      else
        let s1 := s.appendLog ⟨7, 0, 0, Config.sm3 (slice m 0x20 0x60)⟩
        ({ s1 with keys := { s1.keys with session := some (field m 0x24 4), imports := [] } }).reply 0x85 seq []

def execServiceSessionClose (cells : Bytes) (_host : HostImage) (s : State) : Host.Outcome State Fault Refusal :=
  let m := msgBytes cells
  messageEvent s ⟨0x85, 0x80, Component.gatehouse, false⟩ cells (sessionReserved m) (byteAt m 0x20 != 0) (sessionFields m)
    fun s seq => ({ s with keys.session := none }).reply 0x85 seq []

def execServiceSessionExpiry (s : State) : Host.Outcome State Fault Refusal :=
  event s s.keys.session.isSome { s with keys.session := none }

/-! ### Configuration records (R673 to R677) -/

def karuloRecords : List Nat := [0x0001, 0x0002, 0x0003]
def deviceRecords : List Nat := [0x0010, 0x0011, 0x0012, 0x0013, 0x0014, 0x0015]
def operatorRecords : List Nat := [0x0020, 0x0021]

/-- The 128 bytes of a copy's header. -/
def copyHeader (num seq : Nat) (body sig : Bytes) : Bytes :=
  let head := toLe 4 0x4B435231 ++ toLe 2 num ++ toLe 2 (karuloRecords.contains num).toNat ++ toLe 8 seq
    ++ toLe 4 body.length ++ zeros 12
  head ++ padTo 32 (Config.sm3 (head ++ zeros 96 ++ body)) ++ padTo 64 sig

/-- The body of a device-owned record. The spec lays out the retirement list and the two counters; the others' bytes
are free (log 12). -/
def State.deviceBody (s : State) (n : Nat) : Bytes :=
  match n with
  | 0x0012 => s.mem.retired.flatMap fun r => toLe 2 r.1 ++ toLe 2 r.2
  | 0x0013 => toLe 4 s.keys.bootCount
  | _ => (List.range (Config.freeNat s.free % 1048577)).map (Config.freeByte s.free)

/-- Seq and bytes of a record's copy in force. A device-owned record's seq is free (log 12), and so is the signature of
a Karulo-owned one. -/
def State.copyInForce (s : State) (n : Nat) : Option (Nat × Bytes) :=
  if deviceRecords.contains n then
    let q := Config.freeNat (s.free + 1) % 2 ^ 64
    some (q, copyHeader n q (s.deviceBody n) (zeros 64) ++ s.deviceBody n)
  else ((s.record? n).bind CfgRecord.inForce).map fun x =>
    let sig := if karuloRecords.contains n then (List.range 64).map (Config.freeByte (s.free + 2)) else zeros 64
    (x.1, copyHeader n x.1 x.2 sig ++ x.2)

def cfgFields (m : Bytes) : Option Nat :=
  let n := field m 0x22 2
  let a := field m 0x24 8
  fieldAt [(byteAt m 0x20 > 1, 0x20), (!(karuloRecords ++ deviceRecords ++ operatorRecords).contains n, 0x22),
    (a == 0 || a + field m 0x2C 4 > 2 ^ 47, 0x24)]

def execConfigRecordRead (cells : Bytes) (_host : HostImage) (s : State) : Host.Outcome State Fault Refusal :=
  let m := msgBytes cells
  messageEvent s ⟨0x84, 0x40, Component.gatehouse, false⟩ cells [(0x21, 1, 0xFF), (0x30, 16, 0xFF)] (byteAt m 0x20 != 1)
    (cfgFields m) fun s seq =>
      match s.copyInForce (field m 0x22 2) with
      | none => s.refuse 0x84 seq 6 0x22 0
      | some (q, b) =>
        if field m 0x2C 4 < b.length then s.refuse 0x84 seq 5 0x2C 0
        else ((s.hostWrite (field m 0x24 8) b).draw 3).reply 0x84 seq (toLe 8 q ++ toLe 4 (b.length - 128) ++ zeros 4)

/-- A copy written over the invalid copy, or else the one with the lower seq (R674). -/
def CfgRecord.write (r : CfgRecord) (seq : Nat) (body : Bytes) : CfgRecord :=
  if !r.validA || (r.validB && r.seqA ≤ r.seqB) then { r with seqA := seq, validA := true, bodyA := body }
  else { r with seqB := seq, validB := true, bodyB := body }

/-- What refuses the copy in a CONFIG_RECORD write's buffer: code and offset (R675, R677). A copy whose header is not
that of its record is out of range at buf_addr. -/
def State.cfgWriteFault (s : State) (n : Nat) (copy : Bytes) : Option (Nat × Nat) :=
  let body := copy.drop 128
  let sum := Config.sm3 (copy.take 0x20 ++ zeros 96 ++ body)
  if deviceRecords.contains n then some (6, 0x22)
  else if karuloRecords.contains n && s.keys.session.isNone then some (8, 0x22)
  else if field copy 0 4 != 0x4B435231 || field copy 4 2 != n || field copy 0x10 4 != body.length
      || body.length > 1048576 then some (5, 0x24)
  else if karuloRecords.contains n then
    if padTo 32 sum != slice copy 0x20 32 || !Config.sm2Verify 0 (slice copy 0x20 32) (slice copy 0x40 64) then some (9, 0x24)
    else if field copy 8 8 ≤ (((s.record? n).bind CfgRecord.inForce).map (·.1)).getD 0 then some (6, 0x24)
    else none
  else none

def execConfigRecordWrite (cells : Bytes) (host : HostImage) (s : State) : Host.Outcome State Fault Refusal :=
  let m := msgBytes cells
  let n := field m 0x22 2
  let karulo := karuloRecords.contains n
  messageEvent s ⟨0x84, 0x40, Component.gatehouse, false⟩ cells [(0x21, 1, 0xFF), (0x30, 16, 0xFF)] (byteAt m 0x20 != 0)
    (cfgFields m) fun s seq =>
      let copy := hostRead host (field m 0x24 8) (field m 0x2C 4)
      match s.cfgWriteFault n copy with
      | some (code, off) => s.refuse 0x84 seq code off 0
      | none =>
        if karulo && s.logFull then s.refuseFull 0x84 seq
        else
          let force := (((s.record? n).bind CfgRecord.inForce).map (·.1)).getD 0
          let q := if karulo then field copy 8 8 else force + 1
          let body := copy.drop 128
          let recs := updWhere (fun r : CfgRecord => r.num == n) (fun r => r.write q body) s.fw.records
          let s1 := { s with fw.records := recs }
          let s2 := if karulo then s1.appendLog ⟨5, n, 0, Config.sm3 copy⟩ else s1
          s2.reply 0x84 seq (toLe 8 q ++ toLe 4 body.length ++ zeros 4)

end Sys2Proof.Machine
end

