-- ==== Sys2Proof/Machine/Mutations.lean ====
section
/-!
DEFINITION. Mutations from admission to completion (chapters 2, 6 and 11): room, what each kind writes, journal parts,
the commit, and the group's part in it (chapter 12, R446).
-/

namespace Sys2Proof.Machine

/-! ### Payloads (R164 to R166) -/

/-- A payload sealed under the payload key with the next counter; a new block of counters is reserved where the last is
used up. -/
def Collection.sealPayload (c : Collection) (id : Nat) (plain : Bytes) : Collection × Option Payload :=
  match c.keys.find? fun k => k.root with
  | none => (c, none)
  | some r =>
    let out := Config.gcmSeal 1 (c.payloadKey r) (zeros 4 ++ toLe 8 c.payloadCtr) (toLe 8 id) plain
    ({ c with payloadCtr := c.payloadCtr + 1
              payloadBlock := if c.payloadCtr < c.payloadBlock then c.payloadBlock else c.payloadCtr + 65536 },
      some { len := plain.length, counter := c.payloadCtr, tag := out.2, cipher := out.1, key := r.keyId, ref := 0 })

/-- The payloads of a batch sealed in batch order; the plaintext goes no further (R179). -/
def Collection.sealAll (c : Collection) : List MutEntry → Collection × List MutEntry
  | [] => (c, [])
  | e :: r =>
    let (c1, p) := match e.payload with
      | none => (c, e.record)
      | some plain => c.sealPayload e.id plain
    let (c2, es) := c1.sealAll r
    (c2, { e with payload := none, record := p } :: es)

/-! ### What a mutation writes (chapter 6, Mutation flows) -/

/-- For each entry of a batch, whether a later entry carries its ID. -/
def laterSame : List MutEntry → List Bool
  | [] => []
  | e :: r => (r.any fun x => x.id == e.id) :: laterSame r

/-- Tombstones for the slots that hold these IDs live at the latest sequence. -/
def Collection.tombLive (c : Collection) (owner gen : Nat) (ids : List Nat) : List Tomb :=
  ids.filterMap fun id => (c.liveSlot c.latest id).bind fun x => (c.segs[x.1]?).map fun g => tombOf gen owner none g x.2.1

/-- The IDs of a batch that are live at the latest sequence, each once. -/
def Collection.liveIds (c : Collection) (es : List MutEntry) : List Nat :=
  (distinct (es.map (·.id))).filter fun id => (c.liveSlot c.latest id).isSome

/-- The slot that SET_ATTR writes for an ID: the same code, ID, full vector and payload with the new word (R51). -/
def Collection.movedSlot (c : Collection) (e : MutEntry) : Option NewSlot :=
  (c.liveSlot c.latest e.id).bind fun x => (c.segs[x.1]?).map fun g =>
    { part := g.part, kind := if g.kind = .zeroNorm then .zeroNorm else .moved, slot := { x.2.2 with attr := e.attr } }

/-- A new slot that takes the place of one written before for the same entry keeps its full vector and its payload record, which
lie in the index area already (R165, R178). -/
def NewSlot.keep (n : NewSlot) (olds : List Slot) : NewSlot :=
  match olds.find? fun o => o.id == n.slot.id && o.attr == n.slot.attr && o.full == n.slot.full with
  | none => n
  | some o => { n with slot := { n.slot with ref := o.ref, payload := o.payload } }

/-- A mutation's segments and tombstones written uncommitted against the newest generation and the latest sequence, and
word_a and word_c of its completion (R555). A SET_ATTR that names an ID twice leaves the later word (log 29). -/
def Collection.writeMutation (c : Collection) (owner : Nat) (m : Mutation) (olds : List Slot) : Collection × List Nat :=
  match c.gens.find? fun g => g.num == c.lastGen with
  | none => (c, [0, 0])
  | some g =>
    let live := c.liveIds m.entries
    let tombs := c.tombLive owner g.num live
    let absent := (distinct (m.entries.map (·.id))).length - live.length
    match m.kind with
    | .delete => ({ c with tombs := c.tombs ++ tombs }, [absent, live.length])
    | .setAttr =>
      let last := ((laterSame m.entries).zip m.entries).filterMap fun x => if x.1 then none else some x.2
      let c1 := { c with tombs := c.tombs ++ tombs }
      (c1.writeSlots owner g.num none (last.filterMap c.movedSlot), [absent, live.length])
    | k =>
      let news := ((laterSame m.entries).zip m.entries).filterMap fun x =>
        x.2.vec.map fun v => { (c.place g x.2.id x.2.attr v x.2.record).keep olds with dead := x.1 }
      let cut := (m.chunks.filter fun h => h.truncated).length
      (({ c with tombs := c.tombs ++ tombs }).writeSlots owner g.num none news,
        [if k = .embed then cut else 0, live.length])

/-! ### Journal parts (R181 to R184, chapter 11) -/

/-- The entries of each journal part, in batch order (R183). -/
def State.partSize (s : State) (k : MutKind) : Nat := (s.atomicLimit - 64) / k.entryBytes

/-- Journal kind of a mutation. -/
def MutKind.journal : MutKind → Nat
  | .insert | .embed => 0
  | .delete => 1
  | .setAttr => 2

/-- The slots of an owner's uncommitted segments, each with its partition and slot index. -/
def Collection.ownSlots (c : Collection) (owner : Nat) : List (Nat × Nat × Slot) :=
  (c.segs.filter fun g => g.owner == owner && g.seq.isNone).flatMap fun g => g.places.map fun p => (g.part, g.firstSlot + p.1, p.2)

/-- The INSERT entries of a batch, each with the slot that was written for it: equal entries take their slots in turn. -/
def insertEntries (c : Collection) : List (Nat × Nat × Slot) → List MutEntry → List JEntry
  | _, [] => []
  | pool, e :: r =>
    let full := (e.vec.map c.fullOf).getD []
    match pool.find? fun x => x.2.2.id == e.id && x.2.2.attr == e.attr && x.2.2.full == full with
    | none => { id := e.id, attr := e.attr, part := 0, slot := 0, fullRef := 0, payloadRef := 0, payloadLen := 0, stored := none }
        :: insertEntries c pool r
    | some x =>
      { id := e.id, attr := e.attr, part := x.1, slot := x.2.1, fullRef := x.2.2.ref
        payloadRef := (x.2.2.payload.map (·.ref)).getD 0, payloadLen := (x.2.2.payload.map (·.len)).getD 0, stored := some x.2.2 }
        :: insertEntries c (pool.erase x) r

/-- The journal entry of a DELETE or SET_ATTR: the old slot, and zeros where its ID is not live (log 94). -/
def Collection.oldEntry (c : Collection) (e : MutEntry) : JEntry :=
  let old := (c.liveSlot c.latest e.id).bind fun x => (c.segs[x.1]?).map fun g => (g.part, g.firstSlot + x.2.1)
  { id := e.id, attr := e.attr, part := (old.map (·.1)).getD 0, slot := (old.map (·.2)).getD 0, fullRef := 0, payloadRef := 0, payloadLen := 0
    stored := none }

/-- The journal entries of a mutation's whole batch, as its slots now stand. -/
def Collection.journalEntries (c : Collection) (owner : Nat) (m : Mutation) : List JEntry :=
  match m.kind with
  | .delete | .setAttr => m.entries.map c.oldEntry
  | _ => insertEntries c (c.ownSlots owner) m.entries

/-- Part i of a mutation's record; the last one carries the commit sequence (R183, chapter 11). -/
def State.journalPart (s : State) (c : Cmd) (m : Mutation) (i : Nat) : Journal :=
  let all := ((s.coll? c.hdr.collection).map fun k => k.journalEntries c.cid m).getD []
  let es := (all.drop (i * m.perPart)).take m.perPart
  let last := i + 1 == m.parts
  { mutationId := m.mutationId, coll := c.hdr.collection, tag := c.hdr.tag, ring := c.ring, kind := m.kind.journal
    atomic := c.hdr.atomic, last, batch := m.entries.length, index := i, first := i * m.perPart
    count := es.length, gen := m.gen, seq := if last then ((s.coll? c.hdr.collection).map fun k => k.latest + 1).getD 0 else 0
    onMedium := false, crcGood := true, sectors := ceilDiv (64 + es.length * m.kind.entryBytes) 4096, entries := es, done := false }

/-- Sectors that a mutation's record takes, from a part on. -/
def Mutation.sectorsFrom (m : Mutation) (perPart i : Nat) : Nat :=
  let n := m.entries.length
  sumBy (fun k => ceilDiv (64 + min perPart (n - k * perPart) * m.kind.entryBytes) 4096)
    ((List.range (max 1 (ceilDiv n perPart))).drop i)

/-- A mutation command under way. -/
def Cmd.mutation? (c : Cmd) : Option Mutation :=
  match c.body with
  | .mutation m => some m
  | _ => none

/-- Sectors of the parts that admitted mutations have still to issue: room is kept for them. -/
def State.journalOwed (s : State) : Nat :=
  sumBy (fun c : Cmd => match c.mutation? with
    | some m => if m.admitted && !c.finished then m.sectorsFrom m.perPart m.issued else 0
    | none => 0) s.rings.cmds

/-- Whether the journal has room for n sectors more (R405). -/
def State.journalRoom (s : State) (n : Nat) : Bool :=
  sumBy (fun j : Journal => j.sectors) s.store.journal + s.journalOwed + n ≤ journalSectors

/-! ### Admission (R722, R45, R47, R405, R408) -/

/-- A mutation's record changed. -/
def State.updMutation (s : State) (cid : Nat) (f : Mutation → Mutation) : State :=
  s.updCmd cid fun c => match c.body with
    | .mutation m => { c with body := .mutation (f m) }
    | _ => c

/-- Chunks are embedded, so the mutation can be admitted. -/
def Mutation.ready (m : Mutation) : Bool := m.entries.all fun e => (m.kind != .insert && m.kind != .embed) || e.vec.isSome

/-- Whether a mutation of the same collection and ring was fetched before this one and satisfies a condition. -/
def State.earlier (s : State) (c : Cmd) (p : Cmd → Mutation → Bool) : Bool :=
  s.rings.cmds.any fun x => x.cid < c.cid && x.ring == c.ring && x.hdr.collection == c.hdr.collection && !x.finished
    && (x.mutation?.any fun m => p x m)

/-- The modules, other than this one, that hold a partition which a mutation writes. -/
def State.holdersOf (s : State) (c : Collection) (owner : Nat) : List Nat :=
  let parts := distinct (((c.segs.filter fun g => g.owner == owner && g.seq.isNone).map (·.part))
    ++ (c.tombs.filter fun t => t.owner == owner && t.seq.isNone).map (·.part))
  let recs := match c.gens.find? fun g => g.num == c.lastGen with
    | none => []
    | some g => parts.filterMap g.part?
  distinct ((recs.flatMap fun p => p.holder :: p.move.toList).filter fun m => m != s.group.index)

/-! ### A mutation's data at its holders (R446) -/

/-- What travels of a collection: its record without keys, jobs and places, the floor that its home module announces (R447), and the
segments and tombstones that satisfy a condition. -/
def Collection.wire (c : Collection) (floor : Nat) (seg : Segment → Bool) (tomb : Tomb → Bool) : Collection :=
  let bare (x : Slot) : Slot := { x with ref := 0, payload := x.payload.map fun p => { p with ref := 0 } }
  { c with
    segs := (c.segs.filter seg).map fun g => { g with addr := 0, refArray := 0, slots := g.slots.map bare }
    gens := c.gens.map fun g => { g with bookAddr := 0, parts := g.parts.map fun p => { p with addr := 0 } }
    tombs := c.tombs.filter tomb, chunks := [], superseded := [], keys := [], upkeep := [], eligible := [], dropMsg := none
    destroying := [], homeFloor := floor }

/-- The snapshots in use on a collection: of admitted queries, of requests served for other coordinators (R60, R63), and the build
snapshots of upkeep jobs, which take their sample from them in every iteration (R193). -/
def State.snapshotsUsed (s : State) (c : Collection) : List Nat :=
  (s.rings.cmds.filterMap fun x => match x.body with
    | .query q => if x.admitted && x.hdr.collection == c.cid then some q.snapshot else none
    | _ => none)
  ++ (s.group.requests.filterMap fun r => if r.coll == c.cid then some r.work.snapshot else none)
  ++ c.upkeep.map (·.build)

/-- The floor sequence of a collection at an instant (chapter 2): the lowest of the oldest admissible snapshot and the
oldest snapshot in use, and on another module than its home no higher than the home module announced (R447). -/
def State.floor (s : State) (c : Collection) : Nat :=
  let tick := s.roundTick s.clock.round
  let old := (c.superseded.map (·.1)).filter fun q => c.admissible q tick
  let own := (old ++ s.snapshotsUsed c).foldl min c.latest
  if s.groupMember && c.home != s.group.index then min own c.homeFloor else own

/-- A partition lies at a module, as its holder or as the second holder of a move. -/
def Partition.at (p : Partition) (m : Nat) : Bool := p.holder == m || p.move == some m

/-- A mutation's uncommitted segments and tombstones that one module holds. -/
def State.effects (s : State) (c : Collection) (owner holder : Nat) : Collection :=
  let mine (part : Nat) : Bool := (c.gens.find? fun g => g.num == c.lastGen).any fun g => (g.part? part).any (·.at holder)
  c.wire (s.floor c) (fun g => g.owner == owner && g.seq.isNone && mine g.part) fun t => t.owner == owner && t.seq.isNone && mine t.part

/-- A mutation's effects on their way to one holder, with the IDs whose slots it tombstones. -/
def State.sendEffects (s : State) (cid holder : Nat) : State :=
  match s.cmd? cid with
  | none => s
  | some x => match x.mutation?, s.coll? x.hdr.collection with
    | some m, some c => s.launch 3 holder 0 0 (.index 0 (c.liveIds m.entries) (s.effects c cid holder))
    | _, _ => s

/-- A mutation's data sent to every other module that holds a partition which it writes. -/
def State.sendData (s : State) (cid : Nat) : State :=
  match (s.cmd? cid).bind fun x => s.coll? x.hdr.collection with
  | none => s
  | some c =>
    let l := s.holdersOf c cid
    (l.foldl (fun s h => s.sendEffects cid h) s).updMutation cid fun m => { m with sent := !l.isEmpty, holdersLeft := l }

/-- A mutation whose data is at or on its way to its holders and which has not committed: one of a collection at a time (log 115). -/
def Mutation.out (m : Mutation) : Bool := m.sent && m.committed.isNone

/-- The state after a mutation begins to write (chapter 6): payloads sealed, slots written uncommitted and placed with their full
vectors and tombstone copies, and every journal part but the last issued. -/
def State.admitMutation (s : State) (c : Cmd) (m : Mutation) (coll : Collection) : State :=
  let (coll0, es) := coll.sealAll m.entries
  let (coll1, counts) := coll0.writeMutation c.cid { m with entries := es } []
  let s1 := (s.updColl coll.cid fun _ => coll1).layout
  let per := s.partSize m.kind
  let parts := max 1 (ceilDiv m.entries.length per)
  let m1 := { m with entries := es, admitted := true, gen := coll.lastGen, base := coll.latest, parts := parts, perPart := per
                     issued := parts - 1, counts := counts, sent := false, holdersLeft := [] }
  let issue := (List.range (parts - 1)).map (s1.journalPart c m1)
  let s2 := { (s1.updCmd c.cid fun x => { x with body := .mutation m1, admitted := true }) with
    store.journal := s1.store.journal ++ issue }
  let others := s.rings.cmds.any fun x => x.cid != c.cid && x.hdr.collection == c.hdr.collection && !x.finished
    && (x.mutation?.any fun y => y.admitted && y.committed.isNone)
  if others then s2 else s2.sendData c.cid

/-- A mutation that nothing but journal room keeps from its admission. -/
def State.wantsAdmission (s : State) (c : Cmd) (m : Mutation) : Bool :=
  !c.admitted && !c.finished && c.held.isNone && m.ready && ((s.usable c.hdr.collection).any fun k => k.load == .loaded)
    && !s.earlier c fun x y => !x.admitted && y.ready

/-- Another mutation waits for room in the journal: none is admitted meanwhile (R405). -/
def State.roomAwaited (s : State) (cid : Nat) : Bool :=
  s.rings.cmds.any fun c => c.cid != cid && (c.mutation?.any fun m =>
    s.wantsAdmission c m && !s.journalRoom (m.sectorsFrom (s.partSize m.kind) 0))

/-- MUTATION_ADMISSION: admitted, or NO_RESOURCES where a sequence, vectors or room are wanting (R47, R66). -/
def execMutationAdmission (cid : Nat) (s : State) : Host.Outcome State Fault Refusal :=
  match s.cmd? cid with
  | none => .next s
  | some c =>
    match c.mutation?, s.usable c.hdr.collection with
    | some m, some coll =>
      let ok := s.wantsAdmission c m && s.serves Component.store0 && s.fw.lodge == .up && s.power.applied < 3 && !s.regs.shelter
        && s.group.joining.isNone && s.store.sanitise.isNone && s.journalRoom (m.sectorsFrom (s.partSize m.kind) 0) && !s.roomAwaited cid
      let s1 := s.admitMutation c m coll
      let grows := decide (m.kind = .insert) || decide (m.kind = .embed)
      event s ok
        (if coll.latest ≥ 0xFFFFFFFFFFFFFFFE || (grows && !s1.fits coll.cid) then s.complete cid (.of 5) else s1)
    | _, _ => .next s

/-! ### The commit (R44 to R50, R178, R184, R709) -/

/-- Whether a partition is eligible for compaction (chapter 6): more than a quarter of slot_total tombstoned, or more
than 16 segments. -/
def Collection.compactable (c : Collection) (g : Generation) (p : Partition) : Bool :=
  let segs := c.segs.filter fun x => x.part == p.num && x.gens.contains g.num && x.seq.isSome
  let dead := sumBy (fun x : Segment => (x.places.filter fun y => c.dead c.latest x y.1).length) segs
  4 * dead > p.slotTotal || segs.length > 16

/-- Partitions of this module that have become eligible are noted with the floor sequence of that moment. -/
def State.noteEligible (s : State) (id : Nat) : State :=
  s.updColl id fun c =>
    match c.gens.find? fun g => g.num == c.lastGen with
    | none => c
    | some g =>
      let fresh := (g.parts.filter fun p => s.holdsPart p && c.compactable g p && !(c.eligible.any fun e => e.1 == p.num)).map (·.num)
      { c with eligible := c.eligible ++ fresh.map fun p => (p, s.floor c) }

/-- Uncommitted segments and tombstones of an owner tagged with a sequence. -/
def Collection.tag (c : Collection) (owner seq : Nat) : Collection :=
  { c with segs := updWhere (fun g => g.owner == owner && g.seq.isNone) (fun g => { g with seq := some seq }) c.segs
           tombs := updWhere (fun t => t.owner == owner && t.seq.isNone) (fun t => { t with seq := some seq }) c.tombs }

/-- An owner's uncommitted segments and tombstones taken away. -/
def Collection.dropOwner (c : Collection) (owner : Nat) : Collection :=
  { c with segs := c.segs.filter (fun g => !(g.owner == owner && g.seq.isNone))
           tombs := c.tombs.filter (fun t => !(t.owner == owner && t.seq.isNone)) }

/-- The next sequence taken (R46); the one before it is superseded at this moment (R58). -/
def Collection.nextSeq (c : Collection) (now : Nat) : Collection :=
  { c with superseded := (c.latest, now) :: c.superseded, latest := c.latest + 1 }

/-- An owner's tombstones taken away but for those of its own slots that are never visible. -/
def Collection.dropTombs (c : Collection) (owner : Nat) : Collection :=
  let own := (c.ownSlots owner).map fun x => (x.1, x.2.1)
  { c with tombs := c.tombs.filter fun t => !(t.owner == owner && t.seq.isNone) || own.contains (t.part, t.slot) }

/-- A mutation's lookups repeated, and what they change written again (R178). Slots of an insert stay where they are in the
generation they were written against; in a newer one they are written anew (R191). -/
def Collection.rewrite (c : Collection) (owner : Nat) (m : Mutation) : Collection × List Nat :=
  if m.gen == c.lastGen && (m.kind == .insert || m.kind == .embed) then
    let live := c.liveIds m.entries
    let c1 := c.dropTombs owner
    ({ c1 with tombs := c1.tombs ++ c.tombLive owner c.lastGen live }, [m.counts.getD 0 0, live.length])
  else (c.dropOwner owner).writeMutation owner m ((c.ownSlots owner).map (·.2.2))

/-- A mutation's writes as they commit: repeated first where another mutation or generation came between (R178, R191). -/
def Collection.commitWrites (c : Collection) (owner now : Nat) (m : Mutation) : Collection × List Nat :=
  let (c1, counts) := if m.base == c.latest && m.gen == c.lastGen then (c, m.counts) else c.rewrite owner m
  ((c1.tag owner (c.latest + 1)).nextSeq now, counts)

/-- The DONE entry of a committed mutation (R555). -/
def mutationDone (seq : Nat) (counts : List Nat) : Result :=
  { Result.of 0 with a := counts.getD 0 0, b := seq, c := counts.getD 1 0 }

/-- A mutation that no sequence is left for ends with NO_RESOURCES and leaves nothing (R47, R48). -/
def State.noSequence (s : State) (c : Cmd) (m : Mutation) : State :=
  let s1 := s.dropUncommitted c.cid
  ({ s1 with store.journal := s1.store.journal.filter fun j => j.mutationId != m.mutationId }).complete c.cid (.of 5)

/-- A commit: the sequence, the visible effect, and in a group of one the completion; in a group, COMMIT (R446). -/
def State.commitMutation (s : State) (c : Cmd) (m : Mutation) (coll : Collection) : State :=
  let (coll1, counts) := coll.commitWrites c.cid s.clock.groupTime m
  let seq := coll.latest + 1
  let s1 := (s.updColl coll.cid fun _ => coll1).layout.updMutation c.cid fun _ =>
    { m with committed := some seq, commitRound := s.clock.round, counts }
  let s2 := s1.noteEligible coll.cid
  let s2 := if s.regs.untethered then { s2 with tether.committed := satAdd 0xFFFFFFFF s2.tether.committed 1 } else s2
  if s2.groupMember then
    { s2.announce 0x0A (toLe 2 coll.cid ++ zeros 6 ++ toLe 8 seq) with
      group.commits := (coll.cid, seq, s.clock.groupTime) :: s2.group.commits }
  else s2.complete c.cid (mutationDone seq counts)

/-- The commit, where nothing is left to wait for; no sequence follows 0xFFFF_FFFF_FFFF_FFFE (R47). -/
def State.tryCommit (s : State) (cid : Nat) : State :=
  match s.cmd? cid with
  | none => s
  | some c =>
    match c.mutation?, s.coll? c.hdr.collection with
    | some m, some coll =>
      if m.lastOnMedium && m.holdersLeft.isEmpty && m.committed.isNone then
        if coll.latest ≥ 0xFFFFFFFFFFFFFFFE then s.noSequence c m else s.commitMutation c m coll
      else s
    | _, _ => s

/-- A mutation whose last part is issued and that has not committed. -/
def Mutation.closing (m : Mutation) : Bool := m.admitted && m.issued == m.parts && m.committed.isNone

/-- What another mutation or a generation overtook is looked up and written again (R178, R191). -/
def State.redo (s : State) (c : Cmd) (m : Mutation) (coll : Collection) : State :=
  if m.base == coll.latest && m.gen == coll.lastGen then s
  else
    let (coll1, counts) := coll.rewrite c.cid m
    (s.updColl coll.cid fun _ => coll1).layout.updMutation c.cid fun m =>
      { m with gen := coll.lastGen, base := coll.latest, counts }

/-- The last part of a mutation issued. -/
def State.issueLast (s : State) (cid : Nat) : State :=
  match s.cmd? cid with
  | none => s
  | some c => match c.mutation? with
    | none => s
    | some m =>
      { s.updMutation cid (fun m => { m with issued := m.parts }) with store.journal := s.store.journal ++ [s.journalPart c m (m.parts - 1)] }

/-- Whether holders have still to write a mutation's data. -/
def State.holdersWait (s : State) (cid : Nat) : Bool := ((s.cmd? cid).bind Cmd.mutation?).any fun m => !m.holdersLeft.isEmpty

/-- LAST_PART_ISSUE (R709): no mutation of the collection is between its last part's issue and its commit, and none that
precedes this one in its ring's order is uncommitted (R45; log 30). What was overtaken is written again first (R178). A part on
the medium commits at replay (R406), and a mutation commits only once every holder has written its data (R446): data that has not
gone to the holders goes now, and the last part waits for them (logs 95, 115). Once the collection holds the last sequence the mutation
ends with NO_RESOURCES (R47). -/
def execLastPartIssue (cid : Nat) (s : State) : Host.Outcome State Fault Refusal :=
  match s.cmd? cid with
  | none => .next s
  | some c =>
    match c.mutation?, s.coll? c.hdr.collection with
    | some m, some coll =>
      let others := s.rings.cmds.any fun x => x.hdr.collection == c.hdr.collection
        && (x.mutation?.any fun y => y.closing || (y.out && x.cid != cid))
      let ok := c.admitted && m.admitted && m.issued + 1 == m.parts && c.held.isNone && s.compUp Component.store0
        && !others && !s.earlier c (fun _ y => y.committed.isNone)
      let s0 := s.redo c m coll
      let s1 := if m.sent then s0 else s0.sendData cid
      event s ok
        (if coll.latest ≥ 0xFFFFFFFFFFFFFFFE then s.noSequence c m
         else if s1.holdersWait cid then s1 else s1.issueLast cid)
    | _, _ => .next s

/-- JOURNAL_PART_ON_MEDIUM: a part's sectors are programmed (R404), and with the last part the mutation commits where
every holder has written its data (R184, R446). -/
def execJournalPartOnMedium (mutation part : Nat) (s : State) : Host.Outcome State Fault Refusal :=
  match s.rings.cmds.find? fun c => !c.finished && (c.mutation?.any fun m => m.mutationId == mutation) with
  | none => .next s
  | some c =>
    match c.mutation? with
    | none => .next s
    | some m =>
      let parts := updWhere (fun j => j.mutationId == mutation && j.index == part && j.kind < 3) (fun j => { j with onMedium := true })
        s.store.journal
      let s1 := { s with store.journal := parts }
      let last := part + 1 == m.parts
      let s2 := s1.updMutation c.cid fun m => { m with onMedium := m.onMedium ++ [part], lastOnMedium := m.lastOnMedium || last }
      event s (m.admitted && part < m.issued && !m.onMedium.contains part && s.compUp Component.store0) (s2.tryCommit c.cid)

/-- HOLDER_WRITE_DONE: a holder has written the mutation's data; with the last of them it commits (R446). -/
def execHolderWriteDone (cid holder : Nat) (s : State) : Host.Outcome State Fault Refusal :=
  match s.cmd? cid with
  | none => .next s
  | some c =>
    match c.mutation? with
    | none => .next s
    | some m =>
      let s1 := s.updMutation cid fun m => { m with holdersLeft := m.holdersLeft.filter fun h => h != holder }
      event s (m.admitted && m.holdersLeft.contains holder) (s1.tryCommit cid)

/-- GROUP_COMMIT_COMPLETION: h rounds after COMMIT, the completion (R446). -/
def execGroupCommitCompletion (cid : Nat) (s : State) : Host.Outcome State Fault Refusal :=
  match s.cmd? cid with
  | none => .next s
  | some c =>
    match c.mutation? with
    | none => .next s
    | some m =>
      match m.committed with
      | none => .next s
      | some seq =>
        event s (s.clock.round ≥ m.commitRound + s.active.hops && c.held.isNone)
          (s.complete cid (mutationDone seq m.counts))

/-! ### At a holder (R445 to R449) -/

/-- The owner number under which a holder keeps what the home module sent for a commit sequence: above every command number. -/
def foreignOwner (seq : Nat) : Nat := 2 ^ 64 + seq

/-- What the home module sent for sequences up to one becomes visible at them, and the sequence is the latest. -/
def Collection.commitTo (c : Collection) (seq now : Nat) : Collection :=
  let due (owner : Nat) : Bool := 2 ^ 64 < owner && owner ≤ foreignOwner seq
  let c1 := { c with segs := updWhere (fun g => g.seq.isNone && due g.owner) (fun g => { g with seq := some (g.owner - 2 ^ 64) }) c.segs
                     tombs := updWhere (fun t => t.seq.isNone && due t.owner) (fun t => { t with seq := some (t.owner - 2 ^ 64) }) c.tombs }
  if seq ≤ c.latest then c1 else { c1 with superseded := (c.latest, now) :: c.superseded, latest := seq }

/-- A COMMIT that has come: coordinators take the sequence as a snapshot (R447), and what this module holds for it is visible. -/
def State.onCommit (s : State) (coll seq : Nat) : State :=
  let s1 := { s with group.commits := s.group.commits ++ [(coll, seq, s.clock.groupTime)] }
  match s1.coll? coll with
  | none => s1
  | some c =>
    if c.home == s.group.index then s1
    else (s1.updColl coll fun c => c.commitTo seq s.clock.groupTime).layout.noteEligible coll

/-- The slots of received segments as they are written here, under slot indices of this module's own. -/
def Collection.received (w : Collection) : List NewSlot :=
  w.segs.flatMap fun g => g.places.map fun x =>
    { part := g.part, kind := g.kind, slot := x.2, dead := w.tombs.any fun t => t.part == g.part && t.slot == g.firstSlot + x.1 }

/-- A mutation's effects written uncommitted (R446), in place of what came before for the same sequence; visible at once where its COMMIT
has come already. -/
def Collection.takeEffects (c w : Collection) (gone : List Nat) (now : Nat) : Collection :=
  let owner := foreignOwner (w.latest + 1)
  let c1 := ({ c.commitTo w.latest now with homeFloor := w.homeFloor }).dropOwner owner
  let tombs := c1.tombLive owner c1.lastGen gone
  (({ c1 with tombs := c1.tombs ++ tombs }).writeSlots owner c1.lastGen none w.received).commitTo c1.latest now

/-- A partition's record in a generation that has come: where an older generation has it unchanged, this module's own record of it. -/
def Collection.knownPart (c : Collection) (p : Partition) : Partition :=
  match (c.gens.flatMap (·.parts)).find? fun q => q.num == p.num && q.owner == p.owner with
  | none => p
  | some q => { p with slotTotal := q.slotTotal, stack := q.stack, home := q.home, addr := if q.neighbours == p.neighbours then q.addr else 0 }

/-- A collection's record that has come (R445): a collection new to this module, or a new generation, whose replaced partitions' slots
are tombstoned with its publishing sequence as R42 says and whose own slots come with it. -/
def Collection.takeRecord (c w : Collection) (now : Nat) : Collection :=
  match w.gens.find? fun g => g.num == w.lastGen with
  | none => c
  | some g =>
    if g.num ≤ c.lastGen then c else
    let c0 := c.commitTo (g.publishSeq - 1) now
    let old := c0.lastGen
    let unchanged (p : Nat) : Bool := (g.part? p).any fun r => r.owner != g.num
    let gone := (c0.visible c0.latest).filterMap fun x => (c0.segs[x.1]?).bind fun sg =>
      if unchanged sg.part then none else some (tombOf old 0 (some g.publishSeq) sg x.2.1)
    let share (sg : Segment) : Segment := if sg.gens.contains old && unchanged sg.part then { sg with gens := sg.gens ++ [g.num] } else sg
    { c0.commitTo g.publishSeq now with
      gens := c0.gens ++ [{ g with parts := g.parts.map c0.knownPart }]
      segs := c0.segs.map share ++ w.segs, tombs := c0.tombs ++ gone ++ w.tombs, homeFloor := w.homeFloor }

/-- A moved partition's copy that has come (R448, step 2), in place of anything that this module kept of it. -/
def Collection.takeCopy (c w : Collection) (part : Nat) : Collection :=
  let total (p : Partition) : Partition :=
    if p.num != part then p
    else { p with slotTotal := (((w.gens.flatMap (·.parts)).find? fun q => q.num == part && q.owner == p.owner).map (·.slotTotal)).getD p.slotTotal }
  { c with
    gens := c.gens.map fun g => { g with parts := g.parts.map total }
    segs := c.segs.filter (·.part != part) ++ w.segs, tombs := c.tombs.filter (·.part != part) ++ w.tombs }

/-- A collection's record sent to the other members, each with the slots of the newest generation that it holds (R445, log 115). -/
def State.sendRecord (s : State) (coll : Nat) : State :=
  match (s.coll? coll).bind fun c => (c.gens.find? fun g => g.num == c.lastGen).map fun g => (c, g) with
  | none => s
  | some (c, g) =>
    if !s.groupMember then s else
    let others := (List.range s.group.size).filter fun m => m != s.group.index && !s.group.lost.contains m
    others.foldl (fun s m =>
      let mine (p : Nat) : Bool := (g.part? p).any (·.at m)
      s.launch 3 m 0 0 (.index 1 [] (c.wire (s.floor c) (fun x => x.gens == [g.num] && x.seq == some g.publishSeq && mine x.part)
        fun t => t.gen == g.num && t.seq == some g.publishSeq && mine t.part))) s

/-- A moved partition's copy sent by its holder (R448, step 2). -/
def State.sendCopy (s : State) (m : MoveOp) : State :=
  match s.coll? m.coll with
  | none => s
  | some c =>
    s.launch 3 m.dst 0 0 (.index 2 [m.part] (c.wire (s.floor c) (fun g => g.part == m.part && g.seq.isSome) fun t => t.part == m.part && t.seq.isSome))

/-- From r_open a mutation's effects on the partition go to both placements: one whose data is out goes to B too, whose write it awaits
unless its last part is issued. -/
def State.sendToBoth (s : State) (m : MoveOp) : State :=
  s.rings.cmds.foldl (fun s x => match x.mutation?, s.coll? m.coll with
    | some y, some c =>
      let touches := c.segs.any (fun g => g.owner == x.cid && g.seq.isNone && g.part == m.part)
        || c.tombs.any fun t => t.owner == x.cid && t.seq.isNone && t.part == m.part
      if x.hdr.collection == m.coll && !x.finished && y.out && touches && m.dst != s.group.index && !y.holdersLeft.contains m.dst then
        let s1 := s.sendEffects x.cid m.dst
        if y.closing then s1 else s1.updMutation x.cid fun y => { y with holdersLeft := y.holdersLeft ++ [m.dst] }
      else s
    | _, _ => s) s

/-- A begins a move: EPOCH_OPEN goes out with r_open h + 1 rounds after the next control slot (R448, step 1). -/
def State.openEpoch (s : State) (coll part epoch dest : Nat) (msg : Option Nat) : State :=
  let op : MoveOp := { coll, part, epoch, src := s.group.index, dst := dest, opens := s.clock.round + 1 + s.active.hops + 1, bothAt := none
                       closes := none, copied := false, drain := 0, msg, sent := false, came := false }
  { s with group.moves := s.group.moves ++ [op] }.announce 0x0B
    (toLe 2 coll ++ toLe 4 part ++ toLe 4 epoch ++ toLe 2 dest ++ toLe 2 (s.active.hops + 1))

/-- A part of a collection that has come. The home module holds every segment in its own record, and takes a copy as the order to place
the partition's. -/
def State.takeIndex (s : State) (src kind : Nat) (gone : List Nat) (w : Collection) : State :=
  let now := s.clock.groupTime
  match s.coll? w.cid, kind with
  | none, 1 => if w.home == src then { s with colls := s.colls ++ [w] }.layout else s
  | some c, 0 => if c.home == src then (s.updColl w.cid fun c => c.takeEffects w gone now).layout else s
  | some c, 1 => if c.home == src then (s.updColl w.cid fun c => c.takeRecord w now).layout else s
  | some c, 2 =>
    let is (x : MoveOp) : Bool := x.coll == w.cid && gone == [x.part] && x.src == src && x.dst == s.group.index
    match s.group.moves.find? is with
    | none => s
    | some x =>
      let s1 := { s with group.moves := updWhere (fun y => y.coll == x.coll && y.part == x.part) ({ · with came := true }) s.group.moves }
      if c.home == s.group.index then s1.layout else (s1.updColl w.cid fun c => c.takeCopy w x.part).layout
  | some c, 3 => match gone with
    | [part, epoch, dest] => if c.home == src then s.openEpoch w.cid part epoch dest none else s
    | _ => s
  | _, _ => s

end Sys2Proof.Machine
end

