-- ==== Sys2Proof/Machine/Collections.lean ====
section
/-!
DEFINITION. Collections: COLLECTION_CREATE, COLLECTION_DROP, COLLECTION_STATE (chapters 2, 6, 16), and the end of a
copy-back (chapter 6).
-/

namespace Sys2Proof.Machine

/-! ### The properties of a COLLECTION_CREATE (R31, R32, R37) -/

/-- Whether m subspaces fit a PQ form of dimension d (R32). -/
def subspacesGood (form d m : Nat) : Bool :=
  m != 0 && d % m == 0 && (if form == 0 then 8 ≤ m && m ≤ 256 else 16 ≤ m && m ≤ 512 && m % 2 == 0)

/-- The subspaces of a create: the field, or the default d / 12. -/
def subspacesOf (m : Bytes) : Nat :=
  let d := field m 0x22 2
  if field m 0x26 2 != 0 then field m 0x26 2 else if d % 12 == 0 then d / 12 else 0

/-- Entry i of the field map. -/
def fieldDef (m : Bytes) (i : Nat) : FieldDef :=
  { hi := byteAt m (0x40 + 4 * i), lo := byteAt m (0x41 + 4 * i), signed := byteAt m (0x42 + 4 * i) == 1 }

/-- The field map of a create (R37). -/
def fieldsOf (m : Bytes) : List FieldDef :=
  if byteAt m 0x2A == 0 then [⟨63, 0, false⟩] else (List.range (byteAt m 0x2A)).map (fieldDef m)

/-- Whether entry i of a field map is out of range or overlaps an earlier one. -/
def fieldDefBad (m : Bytes) (i : Nat) : Bool :=
  let f := fieldDef m i
  f.hi > 63 || f.lo > f.hi || byteAt m (0x42 + 4 * i) > 1
    || (List.range i).any fun j => let g := fieldDef m j; f.lo ≤ g.hi && g.lo ≤ f.hi

/-- The first field-map entry at fault, as an offset. -/
def fieldMapFault (m : Bytes) : Option Nat :=
  ((List.range (min 16 (byteAt m 0x2A))).find? (fieldDefBad m)).map fun i => 0x40 + 4 * i

/-! ### Its tensors (R167, R168, R708, R721) -/

/-- Whether a descriptor names a tensor of a format and dims in the driver region. -/
def State.namesTensor (s : State) (t : TensorDesc) (f : Fmt) (dims : List Nat) : Bool :=
  !t.fieldBad && t.tier == 1 && t.fmt? == some f && t.rank == dims.length
    && t.dims == dims ++ List.replicate (4 - dims.length) 1 && s.inDriverRegion t.address (t.span f)

/-- The codes of a K8 tensor, innermost dimension fastest. R721 does not say whether a descriptor's scale (R209) applies to centroids and
codebooks: the model takes the codes as they are, whatever the scale: DESIGN CHOICE (log 117). -/
def State.tensorCodes (s : State) (t : TensorDesc) : List Nat := (indices t.dims).map (t.element .k8 (Mem.get s.mem.hbm))

/-- A K8 tensor that a create may name: its codes, none of them NaR. -/
def State.k8Tensor (s : State) (t : TensorDesc) (dims : List Nat) : Option (List Nat) :=
  if s.namesTensor t .k8 dims then
    let codes := s.tensorCodes t
    if codes.any fun c => (decode .k8 c).isNar then none else some codes
  else none

/-- A list cut into rows of a length. -/
def rowsOf (n : Nat) : Nat → List Nat → List (List Nat)
  | 0, _ => []
  | k + 1, l => l.take n :: rowsOf n k (l.drop n)

/-- A tokenizer table read from T1, if it meets R167 and R168. -/
def State.tokenizer? (s : State) (t : TensorDesc) : Option Tokenizer :=
  let h := Mem.read s.mem.hbm t.address 64
  let vocab := field h 4 4
  let count := field h 8 4
  let off := field h 0x20 8
  let pairs := (List.range count).map fun i =>
    let e := Mem.read s.mem.hbm (t.address + off + 8 * i) 8
    (field e 0 4, field e 4 4)
  let special (x : Nat) : Bool := x == 0xFFFFFFFF || (256 + count ≤ x && x < vocab)
  if t.fieldBad || t.tier != 1 || t.format != 8 || !s.inDriverRegion t.address t.count || t.count < 64 then none
  else if field h 0 4 != 1 || vocab < 257 || vocab > 262144 || count + 256 > vocab || field h 0x0C 2 < 16
      || field h 0x0C 2 > 2048 || !zeroAt h 0x0E 2 || !zeroAt h 0x18 8 || !zeroAt h 0x28 24 || off % 64 != 0 || off < 64
      || t.count < off + 8 * count || !special (field h 0x10 4) || !special (field h 0x14 4) then none
  else if ((List.range count).zip pairs).any (fun x => x.2.1 ≥ 256 + x.1 || x.2.2 ≥ 256 + x.1) || !decide pairs.Nodup then none
  else some { vocab, maxTokens := field h 0x0C 2, bos := field h 0x10 4, eos := field h 0x14 4, merges := pairs }

/-- Whether an embedding program cannot be bound (R170): not loaded, another kind, not chunk-independent, another output
dimension, or buckets too short for the tokenizer. -/
def State.embedBad (s : State) (handle dim : Nat) (tok : Option Tokenizer) : Bool :=
  match s.comp.programs.find? fun p => p.handle == handle with
  | none => true
  | some p => p.kind != 1 || !p.chunkIndep || p.outputDim != dim
      || tok.any fun t => p.buckets.foldl max 0 < t.maxTokens

/-! ### COLLECTION_CREATE (R31, R588) -/

/-- The fields of a create at fault, by offset (step 5). -/
def State.createFault (s : State) (m : Bytes) : Option Nat :=
  let d := field m 0x22 2
  let form := byteAt m 0x25
  let parts := field m 0x30 4
  let embed := field m 0x34 4
  let place := field m 0x38 8
  let hasTok := !zeroAt m 0x100 64
  let tok := s.tokenizer? (parseTensor (slice m 0x100 64))
  let k := if form == 0 then 256 else 16
  let sub := subspacesOf m
  let basic := fieldAt [(field m 0x20 2 > 0xFFF, 0x20),
    (d < 32 || d > 4096 || d % 32 != 0 || (form == 2 && d > 256) || (form == 3 && d > 512), 0x22),
    (byteAt m 0x24 == 0 || byteAt m 0x24 > 3, 0x24), (form > 3, 0x25), (form ≤ 1 && !subspacesGood form d sub, 0x26),
    (byteAt m 0x28 != 2 && byteAt m 0x28 != 4, 0x28), (byteAt m 0x2A > 16, 0x2A),
    (field m 0x2C 4 != 0 && (field m 0x2C 4 < 10 || field m 0x2C 4 > 60000), 0x2C), (parts == 0 || parts > 1048576, 0x30)]
  match basic with
  | some o => some o
  | none =>
    match fieldAt [((hasTok && embed == 0) || (embed != 0 && s.embedBad embed d (if hasTok then tok else none)), 0x34),
      (place != 0 && (!s.inDriverRegion place (2 * parts)
        || (List.range parts).any fun p => leNat (Mem.read s.mem.hbm (place + 2 * p) 2) ≥ s.group.size), 0x38)] with
    | some o => some o
    | none =>
      match fieldMapFault m with
      | some o => some o
      | none => fieldAt [((s.k8Tensor (parseTensor (slice m 0x80 64)) [d, parts]).isNone, 0x80),
          (form ≤ 1 && (s.k8Tensor (parseTensor (slice m 0xC0 64)) [d / max 1 sub, k, sub]).isNone, 0xC0),
          ((embed != 0 && !hasTok) || (hasTok && tok.isNone), 0x100)]

/-- The reserved fields of a create (R726): of raw forms, subspaces and the codebook; map entries from field_count on. -/
def createReserved (m : Bytes) : List (Nat × Nat × Nat) :=
  let n := min 16 (byteAt m 0x2A)
  [(0x29, 1, 0xFE), (0x2B, 1, 0xFF), (0x40 + 4 * n, 64 - 4 * n, 0xFF)] ++ (List.range n).map (fun i => (0x43 + 4 * i, 1, 0xFF))
    ++ (if byteAt m 0x25 == 2 || byteAt m 0x25 == 3 then [(0x26, 2, 0xFF), (0xC0, 64, 0xFF)] else [])

/-- The partitions of generation 1: holders, stacks (R716) and neighbour lists (R715). The spec leaves a partition's home lane to the
device: those of one stack take its lanes in turn (R133, log 91). -/
def State.firstPartitions (s : State) (m : Bytes) (centroids : List (List Nat)) : List Partition :=
  let place := field m 0x38 8
  let holder (p : Nat) : Nat :=
    if place == 0 then p % s.group.size else leNat (Mem.read s.mem.hbm (place + 2 * p) 2)
  let mine := (List.range centroids.length).filter fun p => holder p == s.group.index || !s.groupMember
  let rank (p : Nat) : Nat := (mine.findIdx? fun x => x == p).getD 0
  withNeighbours (((List.range centroids.length).zip centroids).map fun x =>
    { num := x.1, centroid := x.2, neighbours := [], stack := rank x.1 % 8, slotTotal := 0
      holder := if s.groupMember then holder x.1 else s.group.index, epoch := 1, move := none, lost := false
      owner := 1, home := rank x.1 / 8 % 64, addr := 0 })

/-- The collection that a create makes, at sequence 0 of generation 1 (R46). -/
def State.newCollection (s : State) (m : Bytes) : Collection :=
  let d := field m 0x22 2
  let form := byteAt m 0x25
  let parts := field m 0x30 4
  let sub := if form ≤ 1 then subspacesOf m else 0
  let cents := (s.k8Tensor (parseTensor (slice m 0x80 64)) [d, parts]).getD []
  let book := if form ≤ 1 then s.tensorCodes (parseTensor (slice m 0xC0 64)) else []
  { cid := field m 0x20 2, dim := d, metric := byteAt m 0x24, form, m := sub
    full := if byteAt m 0x28 == 4 then .k16 else .k8, payloads := byteAt m 0x29 % 2 == 1, fields := fieldsOf m
    horizon := if field m 0x2C 4 == 0 then 1000 else field m 0x2C 4, embed := field m 0x34 4
    tokenizer := if zeroAt m 0x100 64 then none else s.tokenizer? (parseTensor (slice m 0x100 64))
    gens := [{ num := 1, publishSeq := 0, parts := s.firstPartitions m (rowsOf d parts cents), codebook := book, lostBelow := [], bookAddr := 0 }]
    segs := [], tombs := [], chunks := [], latest := 0, superseded := [], mountSeq := 0, load := .loaded, permille := 1000, copyBack := false
    home := s.group.index, keys := [], sealRequired := false, everKey := false, salt := (Config.random s.free).take 16
    payloadCtr := 0, payloadBlock := 0, upkeep := [], eligible := [], dropMsg := none, destroying := [], homeFloor := 0 }

/-- COLLECTION_CREATE: generation 1 in place and the reply, or the refusal. -/
def execCollectionCreate (cells : Bytes) (_host : HostImage) (s : State) : Host.Outcome State Fault Refusal :=
  let m := msgBytes cells
  messageEvent s ⟨0x20, 0x140, Component.store0, false⟩ cells (createReserved m) true (s.createFault m) fun s seq =>
    if (s.coll? (field m 0x20 2)).isSome then s.refuse 0x20 seq 6 0x20 0
    else if s.store.sanitise.isSome || s.store.formatting.isSome then s.refuse 0x20 seq 6 noOffset 0
    else
      let s1 := { s with colls := s.colls ++ [s.newCollection m], free := s.free + 1 }.layout
      if s1.t1Fits && s1.t3Fits then (s1.sendRecord (field m 0x20 2)).reply 0x20 seq [] else s.refuse 0x20 seq 7 noOffset 0

/-! ### COLLECTION_DROP (R64, R65, R714, R720) -/

/-- What refuses a message that names a collection (R720). -/
def State.collFault (s : State) (m : Bytes) : Option Nat := if field m 0x20 2 > 0xFFF then some 0x20 else none

/-- Commands of a collection: queries and mutations (R29). -/
def Cmd.onColl (c : Cmd) (id : Nat) : Bool :=
  c.hdr.collection == id && match c.body with
    | .query _ => true
    | .mutation _ => true
    | _ => false

/-- A drop begins: the collection takes no new work, and what waits ends with COLLECTION_NOT_FOUND (R64). -/
def State.beginDrop (s : State) (id : Nat) (msg : Option Nat) : State :=
  (s.updColl id fun c => { c with load := .dropping, dropMsg := msg }).endAll
    (fun x => x.onColl id && !x.admitted && x.held.isNone) (.of 12)

/-- COLLECTION_DROP. -/
def execCollectionDrop (cells : Bytes) (_host : HostImage) (s : State) : Host.Outcome State Fault Refusal :=
  let m := msgBytes cells
  let id := field m 0x20 2
  messageEvent s ⟨0x21, 0x30, Component.store0, false⟩ cells [(0x22, 14, 0xFF)] true (s.collFault m) fun s seq =>
    match s.coll? id with
    | none => s.refuse 0x21 seq 6 0x20 0
    | some c =>
      if c.load = .dropping then s.refuse 0x21 seq 6 0x20 0
      else s.beginDrop id (some seq)

/-- Whether admitted work on a collection remains: its commands, and the requests of other coordinators that this module serves. -/
def State.collBusy (s : State) (id : Nat) : Bool :=
  s.rings.cmds.any (fun c => c.onColl id && !c.finished) || s.group.requests.any fun r => r.coll == id

/-- Sectors of a format's user capacity: 32 TB and 64 TB (R390). -/
def capacitySectors (format : Nat) : Nat := if format == 1 then 7812500000 else 15625000000

/-- A FORMAT takes effect once no collection is left: new media keys, no journal, the areas divided anew and, where it erases,
trimmed (R621, R682). Where it does not, the written sectors of the host area read free bytes under the new keys (log 42). -/
def State.writeFormat (s : State) (erase : Bool) (format index : Nat) : State :=
  let size := capacitySectors format - index
  let left := if erase then [] else (distinct (s.store.host.map fun c => c.1 / 4096)).filter (· < size)
  let garbled := left.foldl (fun m k => Mem.write m (k * 4096) ((List.range 4096).map fun i => Config.freeByte (s.free + 2) (k * 4096 + i))) []
  ({ s with
    keys.media := some (s.free, s.free + 1)
    store := { s.store with format, indexSectors := index, hostSectors := size, host := garbled, failing := [], relocate := [], placed := [], journal := []
                            formatting := none, convMsg := none } }.draw 3).replyLater 0x80 s.store.convMsg []

/-- An erasing FORMAT whose collections are all gone. -/
def State.finishFormat (s : State) : State :=
  match s.store.formatting with
  | some (format, index) => if s.colls.isEmpty then s.writeFormat true format index else s
  | none => s

/-- COLLECTION_DROP_COMPLETE: the collection is gone with its keys, its regions, its sectors and its journal (R410); KEY_DESTROYs and upkeep
that waited on it are answered, and then the drop. -/
def execCollectionDropComplete (coll : Nat) (s : State) : Host.Outcome State Fault Refusal :=
  match s.coll? coll with
  | none => .next s
  | some c =>
    let s1 := { s with colls := s.colls.filter (fun x => x.cid != coll)
                       store.journal := s.store.journal.filter (fun j => j.coll != coll)
                       group.moves := s.group.moves.filter (fun x => x.coll != coll) }.freeRegions
    let s2 := c.destroying.foldl (fun s d => s.replyLater 0x31 (some d.1) []) s1
    let s3 := c.upkeep.foldl (fun s u => s.refuseLater 0x23 u.msg 6 noOffset 0) s2
    event s (c.load = .dropping && !s.collBusy coll && s.compUp Component.store0)
      (s3.replyLater 0x21 c.dropMsg []).finishFormat

/-! ### COLLECTION_STATE (R713, R408) -/

/-- The body of a COLLECTION_STATE reply. How far a load has come is a matter of time: free (log 2). -/
def State.collBody (s : State) (c : Collection) : Bytes :=
  let state := match c.load with
    | .loading => 0
    | .loaded => 1
    | .dropping => 2
  toLe 2 c.cid ++ toLe 1 state ++ [0] ++ toLe 4 c.lastGen ++ toLe 8 c.latest ++ toLe 8 (s.floor c) ++ toLe 8 c.liveCount
    ++ toLe 2 (if c.load = .loading then Config.freeNat s.free % 1001 else c.permille) ++ zeros 14

def execCollectionState (cells : Bytes) (_host : HostImage) (s : State) : Host.Outcome State Fault Refusal :=
  let m := msgBytes cells
  messageEvent s ⟨0x22, 0x30, Component.store0, false⟩ cells [(0x22, 14, 0xFF)] true (s.collFault m) fun s seq =>
    match s.coll? (field m 0x20 2) with
    | none => s.refuse 0x22 seq 6 0x20 0
    | some c => (s.draw 1).reply 0x22 seq (s.collBody c)

/-- ROUTE_GRAPH_COPY_BACK_DONE (R198): the partition records and codebooks are written whole again, so no word of theirs is
poisoned any more (R378). -/
def execRouteGraphCopyBackDone (coll : Nat) (s : State) : Host.Outcome State Fault Refusal :=
  match s.coll? coll with
  | none => .next s
  | some c =>
    let clean := c.graphRanges.foldl (fun p r => cleanPoison p r.1 (roundUp r.2 32)) s.mem.poison
    event s c.copyBack ({ s with mem.poison := clean }.updColl coll fun c => { c with copyBack := false })

end Sys2Proof.Machine
end

