-- ==== Sys2Proof/Machine/Bounds.lean ====
section
/-!
DEFINITION. The delay bound's terms (R102, R344), the windows of a timetable's cycle (R335), and the longest bound that an
image admits (N_drain, R346). Times are in ticks of 2 ns.
-/

namespace Sys2Proof.Machine

/-- Whether a window covers a round of the timetable's cycle; it may wrap past the cycle's end. -/
def TtWindow.coversAt (w : TtWindow) (cycle at0 : Nat) : Bool := (at0 + cycle - w.first % cycle) % cycle < w.rounds

/-- A round's place in the cycle. -/
def Timetable.place (t : Timetable) (base round : Nat) : Nat := (round - base) % t.cycle

/-- Whether a rerank window opens at a round of the cycle (R335). -/
def Timetable.rerankAt (t : Timetable) (at0 : Nat) : Bool := t.windows.any fun w => w.kind == 2 && w.coversAt t.cycle at0

/-- Rounds from a place in the cycle to the next one at which a rerank window opens; none without a rerank record. -/
def Timetable.rerankWait (t : Timetable) (at0 : Nat) : Option Nat :=
  (List.range t.cycle).find? fun k => t.rerankAt ((at0 + k) % t.cycle)

/-- g: the longest run of rounds of the cycle that no rerank window covers (R102, R335). -/
def Timetable.gap (t : Timetable) : Nat :=
  ((List.range t.cycle).map fun i => (t.rerankWait i).getD t.cycle).foldl max 0

/-- n_walk for a walk budget E (R102). -/
def Timetable.nWalk (t : Timetable) (e : Nat) : Nat := ceilDiv (ceilDiv e 64 * 600 + 2000) t.ticks

/-- n_ref for a refine count and a total refine charge (R85, R102, R719). -/
def nRefine (t : Timetable) (p : TtPlan) (count charge : Nat) : Nat :=
  if count == 0 then 1 else ceilDiv (48000 + 10 * count) t.ticks + ceilDiv charge (max 1 p.refineReads) - 1

/-- The longest refine stage of a plan, and the trips of a group with it (R102, R344): members of one batch with a refine count each
and two sectors a candidate; none where the plan reserves no reads, since no such query is admitted (R85). -/
def Timetable.longRefine (t : Timetable) (p : TtPlan) (members count : Nat) : Nat :=
  if p.refineReads == 0 then 1 + 2 * t.hops else nRefine t p count (2 * members * count) + 4 * t.hops

/-- The longest bound of any query that a plan admits: the largest walk budget, and the longer of a query without a rerank, and, where
the image has a rerank window with room for a candidate, one with a rerank whose candidates fit that window (R87, R544). -/
def Timetable.longest (t : Timetable) (p : TtPlan) : Nat :=
  let n := min 1024 p.admitQuota
  let scored := ((List.range n).map (· + 1)).filterMap fun k =>
    let c := min 4096 (p.rerankCap / k)
    if c == 0 then none else some (t.longRefine p k c + p.nRr + t.gap)
  let rerank := if t.windows.any fun w => w.kind == 2 then scored.foldl max 0 else 0
  t.nWalk 131072 + p.nScan + max (t.longRefine p n 4096) rerank + 1

/-- N_drain: the longest bound of any plan that the image admits (R346, log 37). -/
def Timetable.nDrain (t : Timetable) : Nat := max (t.longest t.full) (t.longest t.lean)

/-- The image under which a query of an admitting round runs, and the round from which its cycle counts: after a seamless switch an
earlier query keeps its own windows and plans (R345, R351). -/
def State.imageFor (s : State) (round : Nat) : Timetable × Nat :=
  match if s.clock.baseRound ≤ round then none else s.former.find? fun f => f.base ≤ round && round < f.last with
  | none => (s.active, s.clock.baseRound)
  | some f => ({ s.active with windows := f.windows, full := f.full, lean := f.lean }, f.base)

/-- The plan under which a query was admitted. -/
def State.planFor (s : State) (round : Nat) (lean : Bool) : TtPlan :=
  let t := (s.imageFor round).1
  if lean then t.lean else t.full

/-- The plan in force for admissions (R354, R355). -/
def State.planNow (s : State) : TtPlan := if s.power.leanPlan then s.active.lean else s.active.full

end Sys2Proof.Machine
end

