-- ==== Sys2Proof/Machine/Lanes.lean ====
section
/-!
DEFINITION. The trellis lanes (chapter 5): the jobs, images and tombstone windows of a pass, table memory and its filling, what a
lane returns for a query entry, result blocks, and the order in which a lane takes its passes.
-/

namespace Sys2Proof.Machine

/-! ### Pass images and tombstone windows (R134 to R138) -/

/-- A byte string filled up to the next 64-byte boundary. -/
def pad64 (b : Bytes) : Bytes := padTo (roundUp b.length 64) b

/-- A lookup table as it lies in table memory: the entry of subspace j and subcode c at byte 2 × (j × K + c). -/
def LookupTable.bytes (t : LookupTable) : Bytes := t.entries.flatMap fun r => r.flatMap (toLe 2)

/-- A query's lookup table for a partition. -/
def Collection.tableOf (c : Collection) (g : Generation) (m : Member) (part : Nat) : LookupTable :=
  c.lookup g m.q8 (((g.part? part).map (·.centroid)).getD [])

/-- A query's pass image: its table, or its K8 vector in the raw modes, and its allow-lists, each on a 64-byte boundary. -/
def Collection.imageOf (c : Collection) (g : Generation) (q : QueryWork) (m : Member) (part : Nat) : Bytes :=
  pad64 (if c.pq then (c.tableOf g m part).bytes else m.q8.map fun x => BitVec.ofNat 8 x)
    ++ q.plan.filter.allows.flatMap fun a => pad64 a.bits

/-- The slot indices of segments that are tombstoned at a snapshot (R61). -/
def Collection.deadSlots (c : Collection) (snap : Nat) (segs : List Segment) : List Nat :=
  segs.flatMap fun g => (g.places.filter fun p => c.dead snap g p.1).map fun p => g.firstSlot + p.1

/-- The tombstone bits of a partition at a snapshot, from slot index 0. -/
def Collection.windowOf (c : Collection) (g : Generation) (snap part : Nat) : Bytes :=
  let dead := c.deadSlots snap (c.segs.filter fun x => x.part == part && x.gens.contains g.num)
  (List.range (ceilDiv (((g.part? part).map (·.slotTotal)).getD 0) 8)).map fun i =>
    BitVec.ofNat 8 (bitsNat ((List.range 8).map fun k => dead.contains (8 * i + k)))

/-- Whether a window marks a slot index. -/
def windowDead (w : Bytes) (i : Nat) : Bool := (w.getD (i / 8) 0).getLsbD (i % 8)

/-! ### What a lane returns (R143 to R148) -/

/-- A result block's counts, and its entries with their slot indices and segment addresses. -/
structure LaneBlock where
  visible : Nat
  passed : Nat
  nar : Nat
  hits : List (Entry × Nat × Nat)

/-- R143 over the segments of a lane job, for one query entry: its snapshot, tombstones, filter, scoring and threshold. -/
def laneBlock (segs : List Segment) (part snap : Nat) (dead : Nat → Bool) (filter : Nat → Bool) (score : SegKind → Bytes → Nat × Nat)
    (above : Option (Nat × Nat)) : LaneBlock :=
  let visible := (segs.filter fun x => tagged x.seq snap).flatMap fun x =>
    (x.places.filter fun y => !dead (x.firstSlot + y.1)).map fun y => (x, y)
  let passed := visible.filter fun y => filter y.2.2.attr
  let scored := passed.map fun y =>
    let sc := score y.1.kind y.2.2.code
    (({ key := sc.1, id := y.2.2.id, dist := BitVec.ofNat 32 sc.2, part } : Entry), y.1.firstSlot + y.2.1, y.1.addr)
  let finite := scored.filter fun e => e.1.key != 0xFFFFFFFF && above.all fun a => keyLt a.1 a.2 e.1.key e.1.id
  { visible := visible.length, passed := passed.length, nar := (scored.filter fun e => e.1.key == 0xFFFFFFFF).length
    hits := (sortBy (fun a b : Entry × Nat × Nat => a.1.lt b.1) finite).take 64 }

/-- The bytes of a result block (R147). -/
def LaneBlock.bytes (b : LaneBlock) (job slot pass : Nat) (program : Bool) : Bytes :=
  toLe 4 job ++ toLe 2 slot ++ toLe 2 pass ++ toLe 1 b.hits.length ++ toLe 1 (bitsNat [b.hits.length < 64, program]) ++ zeros 2
    ++ toLe 4 b.nar ++ toLe 4 b.visible ++ toLe 4 b.passed ++ zeros 8
    ++ b.hits.flatMap fun e => toLe 8 e.1.id ++ toLe 4 e.1.key ++ toLe 4 e.2.1 ++ toLe 8 e.2.2

/-- The segments of a collection that a pass names. -/
def Collection.segsOf (c : Collection) (p : LanePass) : List Segment :=
  c.segs.filter fun x => x.part == p.part && (p.program.isSome || x.gens.contains p.gen) && x.lane == p.lane && p.segs.contains x.addr

/-- What a lane returns for a query of a pass: pass 0 from the start, a later pass above the last entry of the one before (R93). -/
def Collection.queryBlock (c : Collection) (g : Generation) (q : QueryWork) (m : Member) (p : LanePass) (e : PassEntry)
    (above : Option Entry) : LaneBlock :=
  let t := c.tableOf g m p.part
  laneBlock (c.segsOf p) p.part q.snapshot (windowDead e.window) (q.plan.filter.passes c.fields)
    (c.score t m.q8 (m.zeroLength c)) (above.map fun a => (a.key, a.id))

/-! ### A program's scan (R285) -/

/-- The segment addresses that a program's scan job names: segment_count of 8 bytes from segment_list in T1. -/
def State.jobSegs (s : State) (job : Bytes) : List Nat :=
  (List.range (field job 0x16 2)).map fun i => leNat (Mem.read s.mem.hbm (field job 0x18 8 + 8 * i) 8)

/-- Whether the segment list of a program's scan job meets a poisoned word. -/
def State.jobPoisoned (s : State) (job : Bytes) : Bool := s.poisoned (field job 0x18 8) (8 * field job 0x16 2)

/-- A collection's codes are of a scan job's mode, width and slot size. -/
def Collection.ofJob (c : Collection) (job : Bytes) : Bool :=
  byteAt job 4 == c.form && field job 0x10 2 == c.slotSize && field job 0x12 2 == c.codeLen && field job 0x14 2 == (if c.pq then c.m else c.dim)

/-- What a lane returns for a query entry of a program's scan job: R143 with the entry's snapshot, tombstones and threshold. The spec
gives a program no way to load table memory or the predicate store, so the table (or query vector) at table_offset and the
predicates' outcome are free values that depend on the job alone (log 68), and a segment address that names no segment of the job's
lane, partition and mode reads nothing. -/
def Collection.programBlock (c : Collection) (p : LanePass) (job e : Bytes) : LaneBlock :=
  let snap := field e 8 8
  let dead := c.deadSlots snap (c.segsOf p)
  let off := field e 0x20 4
  let table : LookupTable :=
    { entries := (List.range c.m).map fun j => (List.range c.bookSize).map fun k =>
        leNat ((List.range 2).map fun b => Config.laneTable job (off + 2 * (j * c.bookSize + k) + b))
      e := signedOf 8 (byteAt e 6), base := field e 0x1C 4 }
  let q8 := (List.range c.dim).map fun i => (Config.laneTable job (off + i)).toNat
  let d : Collection := { c with metric := byteAt job 5 }
  laneBlock (c.segsOf p) p.part snap dead.contains (fun a => byteAt e 4 == 0 || Config.lanePredicate job a)
    (d.score table q8 false) (if byteAt e 5 % 2 == 1 then some (field e 0x18 4, field e 0x10 8) else none)

/-- The bytes of a program's result block for query entry i: the collections' segments that its list names. -/
def State.programBytes (s : State) (p : LanePass) (job : Bytes) (i : Nat) : Bytes :=
  let e := slice job (0x40 + 64 * i) 64
  let none_ : LaneBlock := ⟨0, 0, 0, []⟩
  let b := ((s.colls.find? fun c => c.ofJob job && !(c.segsOf p).isEmpty).map fun c => c.programBlock p job e).getD none_
  b.bytes (field job 0 4) 0 (field e 2 2) true

/-! ### Lane jobs (R134 to R136, R148, R149) -/

/-- The lanes that hold segments of a partition. -/
def Collection.lanesOf (c : Collection) (gen part : Nat) : List Nat :=
  distinct ((c.segs.filter fun g => g.part == part && g.gens.contains gen).map (·.lane))

/-- The segment list of a partition on a lane: every segment that the generation holds, ascending by first_slot (R136). -/
def Collection.segList (c : Collection) (gen part lane : Nat) : List Nat :=
  (sortBy (fun a b : Segment => a.firstSlot < b.firstSlot)
    (c.segs.filter fun g => g.part == part && g.gens.contains gen && g.lane == lane)).map (·.addr)

/-- The width of R149's last condition: m, or d in the raw modes. -/
def Collection.width (c : Collection) : Nat := if c.pq then c.m else c.dim

/-- Bytes of a pass's images. -/
def LanePass.imageBytes (p : LanePass) : Nat := sumBy (fun e : PassEntry => e.image.length) p.entries

/-- Whether a query's job with an image of some bytes may join an open pass of its partition, generation and lane set (R149). -/
def Collection.joinable (c : Collection) (gen part image : Nat) (lanes : List Nat) (p : LanePass) : Bool :=
  p.coll == c.cid && p.gen == gen && p.part == part && p.lanes == lanes && !p.filled && !p.started && p.program.isNone && p.entries.length < 8
    && 10 * (p.entries.length + 1) * c.width ≤ 64 * c.slotSize && p.imageBytes + image ≤ 131072

/-- The job whose lane jobs may all be joined, if any. -/
def State.openJob (s : State) (c : Collection) (gen part image : Nat) (lanes : List Nat) : Option Nat :=
  let able := s.comp.passes.filter (c.joinable gen part image lanes)
  (able.find? fun p => lanes.all fun k => able.any fun r => r.job == p.job && r.lane == k).map (·.job)

/-- A query's entry in a pass of a partition. The device chooses where its result block goes: free (log 2). -/
def State.passEntry (s : State) (c : Collection) (g : Generation) (q : QueryWork) (m : Member) (n part pass : Nat) : PassEntry :=
  { cmd := n, member := m.idx, index := pass, resultAddr := 0x200000000000 + Config.freeNat s.free % 0x20000000
    image := c.imageOf g q m part, offset := 0, window := c.windowOf g q.snapshot part, preds := q.plan.filter.preds }

/-- A scan job of one pass: joined to the open pass of its lanes, which then keeps the earlier of the two places (R83, R135), or put
in the lanes' queues at the place of its query's order (R83, R339). Whether it was joined. -/
def State.queueJob (s : State) (c : Collection) (g : Generation) (q : QueryWork) (m : Member) (n part pass : Nat) : State × Bool :=
  let lanes := c.lanesOf q.gen part
  let e := s.passEntry c g q m n part pass
  match s.openJob c q.gen part e.image.length lanes with
  | some j =>
    let join (p : LanePass) : LanePass := { p with entries := p.entries ++ [e], order := min p.order m.order }
    ({ s with comp.passes := updWhere (fun p => p.job == j && p.program.isNone) join s.comp.passes, free := s.free + 1 }, true)
  | none =>
    let new := lanes.map fun k =>
      ({ lane := k, coll := c.cid, gen := q.gen, part, entries := [e], order := m.order, started := false
         paused := s.mem.refreshing.contains k, splices := [], program := none, job := s.comp.nextJob, segs := c.segList q.gen part k
         filled := false, lanes, listAddr := 0x200000000000 + Config.freeNat (s.free + 1) % 0x20000000, bulkRead := 0 } : LanePass)
    ({ s with comp.passes := s.comp.passes ++ new, comp.nextJob := (s.comp.nextJob + 1) % 2 ^ 32, free := s.free + 2 }, false)

/-- The bytes of a query entry of a pass (R134). -/
def Collection.queryEntry (c : Collection) (q : QueryWork) (m : Member) (t : LookupTable) (e : PassEntry) (above : Option Entry) : Bytes :=
  let main := roundUp (if c.pq then 2 * c.m * c.bookSize else c.dim) 64
  let allow (i : Nat) : Nat := if i < q.plan.filter.allows.length then
      e.offset + main + sumBy (fun a : AllowList => roundUp a.bits.length 64) (q.plan.filter.allows.take i) else 0
  toLe 2 m.querySlot ++ toLe 2 e.index ++ toLe 1 e.preds.length
    ++ toLe 1 (bitsNat [above.isSome, q.plan.filter.allows.length > 0, q.plan.filter.allows.length > 1])
    ++ toLe 1 (if c.pq then wrapInt 8 t.e else 0) ++ [0] ++ toLe 8 q.snapshot ++ toLe 8 ((above.map (·.id)).getD 0)
    ++ toLe 4 ((above.map (·.key)).getD 0) ++ toLe 4 (if c.pq then t.base else 0) ++ toLe 4 e.offset ++ toLe 4 (allow 0) ++ toLe 4 (allow 1)
    ++ toLe 4 0 ++ toLe 8 e.resultAddr ++ zeros 8

/-- The first 64 bytes of a lane job (R134). -/
def LanePass.header (c : Collection) (p : LanePass) : Bytes :=
  toLe 4 p.job ++ toLe 1 c.form ++ toLe 1 (if c.metric == 1 then 1 else 2) ++ toLe 1 p.entries.length ++ [0] ++ toLe 4 p.part
    ++ toLe 4 ((((c.gens.find? fun g => g.num == p.gen).bind fun g => g.part? p.part).map (·.owner)).getD p.gen)
    ++ toLe 2 c.slotSize ++ toLe 2 c.codeLen ++ toLe 2 c.width ++ toLe 2 p.segs.length ++ toLe 8 p.listAddr ++ toLe 2 p.lane ++ zeros 30

/-! ### The order of a lane's passes, and table memory (R83, R135, R137, R138, R151) -/

/-- The pass that a lane begins next: the queries' passes in their order, then bulk passes as they came (R83, R151). -/
def State.nextPass (s : State) (lane : Nat) : Option Nat :=
  let waiting := ((List.range s.comp.passes.length).zip s.comp.passes).filter fun x => x.2.lane == lane && !x.2.started
  let best := (waiting.filter fun x => x.2.program.isNone).foldl (fun (b : Option (Nat × LanePass)) x => match b with
    | none => some x
    | some y => if x.2.order < y.2.order then some x else b) none
  (best.orElse fun _ => waiting.head?).map (·.1)

/-- Entries laid out in table memory from an offset on, one image after another. -/
def placeImages : Nat → List PassEntry → List PassEntry
  | _, [] => []
  | a, e :: r => { e with offset := a } :: placeImages (a + e.image.length) r

/-- Images that another pass of the lane holds in a bank of table memory. -/
def State.bankHeld (s : State) (lane i bank : Nat) : Bool :=
  ((List.range s.comp.passes.length).zip s.comp.passes).any fun x =>
    x.1 != i && x.2.lane == lane && x.2.filled && x.2.entries.any fun e => e.offset / 131072 == bank

/-- A pass's images filled into table memory: into a bank that holds none, or over both banks where they take more than 128 KiB, and
then the lane holds no other pass's. -/
def State.fillPass (s : State) (i : Nat) : State :=
  match s.comp.passes[i]? with
  | none => s
  | some p =>
    let big := p.imageBytes > 131072
    let base := if big || !s.bankHeld p.lane i 0 then 0 else 131072
    let clash (q : LanePass) : Bool := q.lane == p.lane && !q.started && q.filled && (big || q.entries.any fun e => e.offset / 131072 == base / 131072)
    let rest := updWhere clash (fun q => { q with filled := false }) s.comp.passes
    { s with comp.passes := updAt i (fun p => { p with filled := true, entries := placeImages base p.entries }) rest }

/-- While a pass runs the lane fills the next one's images, where each of the two takes at most 128 KiB (R137). -/
def State.fillAhead (s : State) (lane running : Nat) : State :=
  match s.nextPass lane with
  | none => s
  | some i =>
    match s.comp.passes[i]?, s.comp.passes[running]? with
    | some p, some r => if !p.filled && p.imageBytes ≤ 131072 && r.imageBytes ≤ 131072 then s.fillPass i else s
    | _, _ => s

/-- The most that a bulk pass reads in its 2 µs: 40 bytes in each of 2,500 lane cycles but the 64 of set-up (R131, R150, R151). -/
def bulkSlice : Nat := 97440

/-- Bytes of segments that a program's lane job names. -/
def State.jobBytes (s : State) (p : LanePass) : Nat :=
  sumBy (fun c : Collection => sumBy (fun g : Segment => (c.segRange g).2) (c.segs.filter fun g => p.segs.contains g.addr && g.addr != 0)) s.colls

/-- What the next bulk pass of a program's lane job reads. -/
def State.sliceBytes (s : State) (p : LanePass) : Nat := min bulkSlice (s.jobBytes p - p.bulkRead)

/-- The bulk share of a lane's stack that this round has left takes a pass; a query's pass needs none (R151). -/
def State.bulkRoom (s : State) (p : LanePass) : Bool :=
  p.program.isNone || s.comp.ledger.bulk.getD (p.lane / 64) 0 + s.sliceBytes p ≤ s.planNow.bulk

/-- A lane begins a pass: its images are filled if they are not yet, so that it begins with them complete (R138), a bulk pass takes
its share, and the images of the pass after it are filled meanwhile where they may (R137). -/
def State.startPass (s : State) (lane i : Nat) : State :=
  let s1 := if (s.comp.passes[i]?).all (·.filled) then s else s.fillPass i
  let bulk := match s.comp.passes[i]? with
    | some p => if p.program.isSome then s.sliceBytes p else 0
    | none => 0
  let s2 := { s1 with comp.passes := updAt i (fun p => { p with started := true, bulkRead := p.bulkRead + bulk }) s1.comp.passes
                      comp.ledger.bulk := updAt (lane / 64) (· + bulk) s1.comp.ledger.bulk }
  s2.fillAhead lane i

end Sys2Proof.Machine
end

