-- ==== Sys2Proof/Machine/Members.lean ====
section
/-!
DEFINITION. Queries and their members by number, this module's own and those that it serves for other coordinators, and the early
end of a member or of a request.
-/

namespace Sys2Proof.Machine

/-! ### Queries by number: commands of this module's host, and requests that it serves as holder -/

def Cmd.query? (c : Cmd) : Option QueryWork :=
  match c.body with
  | .query q => some q
  | _ => none

/-- The collection and work of a number. -/
def State.work? (s : State) (n : Nat) : Option (Nat × QueryWork) :=
  match (s.cmd? n).bind fun c => c.query?.map fun q => (c.hdr.collection, q) with
  | some x => some x
  | none => (s.group.requests.find? fun r => r.served != 0 && r.served == n).map fun r => (r.coll, r.work)

/-- A number's work changed. -/
def State.updWork (s : State) (n : Nat) (f : QueryWork → QueryWork) : State :=
  let s1 := s.updCmd n fun c => match c.body with
    | .query q => { c with body := .query (f q) }
    | _ => c
  { s1 with group.requests := updWhere (fun r => r.served != 0 && r.served == n) (fun r => { r with work := f r.work }) s1.group.requests }

def QueryWork.member? (q : QueryWork) (i : Nat) : Option Member := q.members.find? fun m => m.idx == i
def QueryWork.updMember (q : QueryWork) (i : Nat) (f : Member → Member) : QueryWork :=
  { q with members := updWhere (fun m => m.idx == i) f q.members }
def State.updMember (s : State) (n i : Nat) (f : Member → Member) : State := s.updWork n fun q => q.updMember i f

/-- Members that have not ended. -/
def QueryWork.active (q : QueryWork) : List Member := q.members.filter fun m => m.status.isNone

/-- The generation that a query walks. -/
def QueryWork.gen? (q : QueryWork) (c : Collection) : Option Generation := c.gens.find? fun g => g.num == q.gen

/-! ### The end of a member or of a request -/

/-- What a member has under way, dropped. -/
def State.dropMember (s : State) (n i : Nat) : State :=
  let cut := s.comp.passes.map fun p => { p with entries := p.entries.filter fun e => !(e.cmd == n && e.member == i) }
  let s1 := { s with comp.passes := cut.filter fun p => p.program.isSome || !p.entries.isEmpty }
  (s1.comp.runs.filter fun r => match r.why with
    | .rerank c k => c == n && k == i
    | _ => false).foldl (fun s r => (s.finishMoves r []).removeRun r.rid) s1

/-- The status of a QUERY_BATCH whose members have ended: DONE, or that of the lowest-indexed member that did not end so. -/
def QueryWork.status (q : QueryWork) : Nat := ((q.members.filterMap (·.status)).find? fun x => x != 0).getD 0

/-- A status with its words: a member ends with INVALID_DESCRIPTOR only where its rerank faulted (R321, R535). -/
def endResult (status instr : Nat) : Result := if status == 3 then .invalid 0x0A instr else .of status

/-- The result of a QUERY_BATCH whose members have ended. -/
def QueryWork.ended (q : QueryWork) : Result :=
  endResult q.status (((q.members.find? fun m => m.status == some 3).map (·.faultAt)).getD noItem)

/-- A QUERY_BATCH whose members have all ended completes. -/
def State.finishBatch (s : State) (n : Nat) : State :=
  match (s.cmd? n).bind Cmd.query? with
  | some q => if q.members.all fun m => m.status.isSome then s.complete n q.ended else s
  | none => s

/-- A served request answered with a load, and gone. -/
def State.answer (s : State) (n : Nat) (load : Load) : State :=
  match s.group.requests.find? fun r => r.served != 0 && r.served == n with
  | none => s
  | some r =>
    let s1 := s.dropMember n r.member
    ({ s1 with group.requests := s1.group.requests.filter fun x => x.served != n }).launch 2 r.coord r.query r.member load

/-- A member ends early with a status and no result list: a QUERY completes, a member of a QUERY_BATCH waits for the others
(R550), a holder tells the coordinator. -/
def State.endMember (s : State) (n i status : Nat) (instr : Nat := noItem) : State :=
  match s.cmd? n with
  | none => s.answer n (.ended status)
  | some c =>
    if (c.query?.any fun q => q.plan.batch) then
      ((s.dropMember n i).updMember n i ({ · with status := some status, faultAt := instr })).finishBatch n
    else (s.dropWork c).complete n (endResult status instr)

end Sys2Proof.Machine
end

