-- ==== Sys2Proof/Machine/Cores.lean ====
section
/-!
DEFINITION. Chapter 9's core instruction set: local memory, issue and its hazards, each instruction, and runtime faults.
A row names a run and a virtual core, whose next instruction it issues.
-/

namespace Sys2Proof.Machine

/-! ### Local addresses (R265) -/

/-- Whether n bytes at a local address lie in a program range. -/
def localGood (a n : Nat) : Bool := n == 0 || a + n ≤ 0x38000 || (0x800000 ≤ a && a + n ≤ 0xF80000)

/-! ### Elements of a buffer (R211, R266) -/

def BufReg.fmt? (b : BufReg) : Option Fmt := Fmt.ofCode b.fmt

/-- Whether the offset of a first element is out of step with its container (R266). -/
def offsetBad (f : Fmt) (off : Nat) : Bool :=
  match f with
  | .k4 | .i4 => off % 2 != 0
  | .k6 => off % 4 != 0
  | _ => false

/-- The bytes that n elements from an offset take: address and count. -/
def BufReg.span (b : BufReg) (f : Fmt) (off n : Nat) : Nat × Nat :=
  let lo := off * f.container / 8
  (b.base + lo, ceilDiv ((off + n) * f.container) 8 - lo)

/-- Element codes of a buffer. -/
def Run.elems (r : Run) (v : Nat) (b : BufReg) (f : Fmt) (off n : Nat) : List Nat :=
  (List.range n).map fun i => readElem (r.localByte v) b.base f (off + i)

/-- Codes written into a buffer from an offset. -/
def Run.putElems (r : Run) (v : Nat) (b : BufReg) (f : Fmt) (off : Nat) (codes : List Nat) : Run :=
  ((List.range codes.length).zip codes).foldl (fun r x =>
    let w := writeElem (r.localByte v) b.base f (off + x.1) x.2
    r.localWrite v w.1 w.2) r

/-! ### Instruction words (R273) -/

/-- Bits [hi:lo] of an instruction. -/
def wf (w : BitVec 64) (hi lo : Nat) : Nat := bits w.toNat hi lo

def VCore.s! (c : VCore) (i : Nat) : Nat := (c.s.getD i 0).toNat
def VCore.buf (c : VCore) (i : Nat) : BufReg := c.bufs.getD i ⟨0, 0, 0, 0, 0⟩
def VCore.tile (c : VCore) (i : Nat) : Tile := c.tiles.getD i Tile.cleared
def VCore.setS (c : VCore) (i v : Nat) : VCore := { c with s := c.s.set i (BitVec.ofNat 32 v) }
def VCore.setTile (c : VCore) (i : Nat) (t : Tile) : VCore := { c with tiles := c.tiles.set i t }

/-- An instruction that is about to issue: the local bytes it reads and writes, the fault it raises, its effect, and the
cycles it keeps its unit busy. -/
structure Issue where
  reads : List (Nat × Nat) := []
  writes : List (Nat × Nat) := []
  fault : Option Nat := none
  effect : Run → Run := id
  busy : Nat := 1

/-- Runtime fault codes (R305). -/
def faultRange : Nat := 1
def faultAlign : Nat := 2
def faultFormat : Nat := 3
def faultScale : Nat := 4
def faultLoop : Nat := 5
def faultBounds : Nat := 6
def faultScan : Nat := 7
def faultCycles : Nat := 8

/-- The first fault of an instruction: its own, then an address outside the program ranges (log 34). -/
def Issue.faults (i : Issue) : Option Nat :=
  match i.fault with
  | some f => some f
  | none => if (i.reads ++ i.writes).any fun x => !localGood x.1 x.2 then some faultRange else none

/-- One range from the lowest to the highest byte (R270). -/
def hull (l : List (Nat × Nat)) : Option (Nat × Nat) :=
  match l.filter fun x => x.2 > 0 with
  | [] => none
  | x :: r => some (r.foldl (fun (h : Nat × Nat) y => (min h.1 y.1, max h.2 (y.1 + y.2 - 1))) (x.1, x.1 + x.2 - 1))

def meets (a b : Option (Nat × Nat)) : Bool :=
  match a, b with
  | some x, some y => x.1 ≤ y.2 && y.1 ≤ x.2
  | _, _ => false

/-- Whether a transfer in flight of the same core holds an instruction back (R270). -/
def Transfer.blocks (t : Transfer) (v : Nat) (i : Issue) : Bool :=
  t.vcore == v && (t.writes.any (fun w => meets (some w) (hull i.reads) || meets (some w) (hull i.writes))
    || t.reads.any fun w => meets (some w) (hull i.writes))

/-! ### Scalar and control (R275 to R278) -/

/-- The program counter after an instruction, through the ends of loop bodies (R277). -/
def endLoops : List LoopLevel → Nat → Nat × List LoopLevel
  | [], pc => (pc, [])
  | l :: r, pc =>
    if pc != l.stop then (pc, l :: r)
    else if l.left > 1 then (l.start, { l with left := l.left - 1 } :: r)
    else endLoops r pc

/-- The unit that an opcode goes to: scalar, matrix, output, vector, select, mover interface (chapter 9, Issue and hazards). -/
def unitOf (op : Nat) : Nat :=
  if op == 0x10 || op == 0x18 then 5 else if op < 0x20 then 0 else if op < 0x30 then 1 else if op < 0x38 then 3
  else if op < 0x40 then 2 else 4

/-- A core that goes on to its next instruction, at its pace after its unit accepted this one, which keeps the unit busy. -/
def VCore.advance (c : VCore) (unit busy pace : Nat) : VCore :=
  let (pc, loops) := endLoops c.loops (c.pc + 1)
  let start := max c.cycles (c.units.getD unit 0)
  { c with pc, loops, wait := none, cycles := start + pace, units := c.units.set unit (start + busy) }

def setsIssue (w : BitVec 64) (v : Nat) : Issue :=
  { effect := fun r => r.updCore v fun c => c.setS (wf w 55 52) (wf w 31 0) }

def addsIssue (w : BitVec 64) (v : Nat) : Issue :=
  { effect := fun r => r.updCore v fun c => c.setS (wf w 55 52) (c.s! (wf w 51 48) + wf w 31 0) }

def mulsIssue (w : BitVec 64) (v : Nat) : Issue :=
  { effect := fun r => r.updCore v fun c => c.setS (wf w 55 52) (c.s! (wf w 51 48) * c.s! (wf w 47 44)) }

/-- A buffer entry of the pool (chapter 9, Buffer entry). -/
def bufOfEntry (e : Bytes) : BufReg :=
  { base := field e 0 3, fmt := byteAt e 4, stride := field e 8 4, scale := BitVec.ofNat 32 (field e 0x0C 4)
    origin := field e 0x10 8 }

def Program.entry (p : Program) (i : Nat) : Bytes := p.pool.getD i []

def setbIssue (p : Program) (w : BitVec 64) (c : VCore) : Issue :=
  let b := bufOfEntry (p.entry (wf w 11 0))
  let off := if wf w 47 47 == 1 then c.s! (wf w 51 48) else 0
  let f := (b.fmt?).getD .k8
  { fault := if offsetBad f off then some faultAlign else none
    effect := fun r => r.updCore c.idx fun c =>
      { c with bufs := c.bufs.set (wf w 55 52) { b with base := b.base + off * f.container / 8 } } }

/-- LOOP: a count of 0 goes to the end of the body; a fifth level faults (R277). -/
def loopIssue (w : BitVec 64) (c : VCore) : Issue :=
  let count := if wf w 51 51 == 1 then c.s! (wf w 55 52) else wf w 31 16
  let stop := c.pc + 1 + wf w 15 0
  { fault := if count > 0 && c.loops.length ≥ 4 then some faultLoop else none
    effect := fun r => r.updCore c.idx fun c =>
      if count == 0 then { c with pc := stop - 1 }
      else { c with loops := ⟨count, c.pc + 1, stop⟩ :: c.loops } }

/-! ### Tiles and matrix instructions (R286 to R292) -/

def tclrIssue (w : BitVec 64) (v : Nat) : Issue :=
  { effect := fun r => r.updCore v fun c => c.setTile (wf w 55 51) Tile.cleared, busy := 16 }

def taddIssue (w : BitVec 64) (c : VCore) : Issue :=
  let d := c.tile (wf w 55 51)
  let s := c.tile (wf w 50 46)
  let (t, fl) := d.add s
  { fault := if scalesConflict d.scales s.scales then some faultScale else none
    effect := fun r => (r.updCore c.idx fun c => c.setTile (wf w 55 51) t).noteFlags c.idx c.pc fl, busy := 32 }

/-- The address of TSAVE and TLOAD. -/
def tileAddr (w : BitVec 64) (c : VCore) : Nat := wf w 23 0 + c.s! (wf w 50 47)

def tileBusy (a : Nat) : Nat := if a < 0x800000 then 64 else 256

def tsaveIssue (w : BitVec 64) (c : VCore) : Issue :=
  let a := tileAddr w c
  { writes := [(a, 4160)], fault := if a % 64 != 0 then some faultAlign else none
    effect := fun r => r.localWrite c.idx a (c.tile (wf w 55 51)).bytes, busy := tileBusy a }

def tloadIssue (w : BitVec 64) (c : VCore) : Issue :=
  let a := tileAddr w c
  { reads := [(a, 4160)], fault := if a % 64 != 0 then some faultAlign else none
    effect := fun r => r.updCore c.idx fun c => c.setTile (wf w 55 51) (Tile.ofBytes (r.localRead c.idx a 4160))
    busy := tileBusy a }

/-- The formats that MMA takes: native ones, and the two that are sliced (R292). -/
def nativeFmt (f : Fmt) : Bool := [Fmt.k4, .k6, .k8, .k12, .i4, .i8].contains f
def slicedFmt (f : Fmt) : Bool := f = .k16 || f = .k24

/-- Whether two formats and a precision go together (R292). -/
def mmaFormats (a b : Option Fmt) (prec : Nat) : Bool :=
  match a, b with
  | some f, some g =>
    (nativeFmt f || slicedFmt f) && (nativeFmt g || slicedFmt g) && ((prec == 0) == (nativeFmt f && nativeFmt g))
  | _, _ => false

/-- Busy cycles of an MMA (chapter 9's latency tables). -/
def mmaBusy (f g : Fmt) (prec kblk : Nat) : Nat :=
  let rank (x : Fmt) : Nat := match x with
    | .k4 => 4 | .i4 => 4 | .k6 => 8 | .k8 => 16 | .i8 => 16 | _ => 64
  match prec with
  | 0 => kblk * max (rank f) (rank g)
  | 1 => 64 * kblk
  | 2 => 192 * kblk
  | _ => 384 * kblk

/-- The terms that MMA adds to each accumulator, row by row (R291, R239). -/
def mmaTerms (r : Run) (v : Nat) (a b : BufReg) (f g : Fmt) (xa xb prec k : Nat) : List (List Val) :=
  let ra := (List.range 16).map fun i => (r.elems v a f (xa + i * a.stride) k).map (decode f)
  let rb := (List.range k).map fun j => (r.elems v b g (xb + j * b.stride) 16).map (decode g)
  ra.flatMap fun row => (List.range 16).map fun c =>
    (row.zip rb).flatMap fun x => pairTerms prec x.1 (x.2.getD c .zero)

def mmaIssue (w : BitVec 64) (c : VCore) : Issue :=
  let a := c.buf (wf w 50 47)
  let b := c.buf (wf w 46 43)
  let xa := c.s! (wf w 42 39)
  let xb := c.s! (wf w 38 35)
  let prec := wf w 34 33
  let kblk := if wf w 32 25 == 0 then 256 else wf w 32 25
  let n := 16 * kblk
  let tile := wf w 55 51
  if !mmaFormats a.fmt? b.fmt? prec then { fault := some faultFormat }
  else
    let f := (a.fmt?).getD .k8
    let g := (b.fmt?).getD .k8
    let new := (a.scale, b.scale)
    { reads := (List.range 16).map (fun i => a.span f (xa + i * a.stride) n)
        ++ (List.range n).map fun j => b.span g (xb + j * b.stride) 16
      fault := if offsetBad f xa || offsetBad g xb then some faultAlign
        else if scalesConflict (c.tile tile).scales (some new) then some faultScale else none
      effect := fun r =>
        let t := c.tile tile
        let t1 := if t.scales.isNone && !t.saturated then { t with scales := some new } else t
        let (t2, fl) := t1.mma (n * termsPer prec) (mmaTerms r c.idx a b f g xa xb prec n)
        (r.updCore c.idx fun c => c.setTile tile t2).noteFlags c.idx c.pc fl
      busy := mmaBusy f g prec kblk }

/-! ### VOP (R293 to R295) -/

/-- Operations that take two operands, and the reductions. -/
def vopTwo (op : Nat) : Bool := op ≤ 0x04 || op == 0x12 || op == 0x13
def vopReduces (op : Nat) : Bool := 0x10 ≤ op && op ≤ 0x14

/-- Busy cycles of a VOP. -/
def vopBusy (op n : Nat) : Nat :=
  let k := ceilDiv n 64
  if 0x08 ≤ op && op ≤ 0x0D then 4 * k else if vopReduces op then k + 16 else k

/-- Real values of elements: code values × the buffer's scale (R209). -/
def realVals (f : Fmt) (scale : BitVec 32) (codes : List Nat) : List Val :=
  codes.map fun c => (decode f c).mul (decodeF32 scale.toNat)

/-- A code that the spec leaves open, with the flags that go with it: OUT into a buffer that no SETB has loaded, whose scale
is zero, or OUT or a VOP but RKEY into a U32 buffer, to which R225 has no conversion (log 87). -/
def Run.openCode (r : Run) (c : VCore) (f : Fmt) (k : Nat) : Nat × ConvFlags :=
  let b (j : Nat) : Byte := Config.freeByte r.fill (2 ^ 64 * (1 + c.idx + 2 ^ 17 * c.cycles) + 8 * k + j)
  let code := leNat [b 0, b 1, b 2, b 3] % 2 ^ f.bits
  (code, { sat := (b 4).toNat % 2 == 1, nar := codeNar f code, flushed := (b 5).toNat % 2 == 1 })

/-- The result codes of a VOP with the flags each conversion sets. RKEY maps the code of an element itself. -/
def vopResults (op : Nat) (f g : Fmt) (a b : List Val) (raw : List Nat) (scale : BitVec 32) (rnd ovf : Nat) :
    List (Nat × ConvFlags) :=
  if op == 0x18 then raw.map fun c => (rankKey (decode f c).isNar c, {})
  else if vopReduces op then [convResult g scale (.val (vopReduce op a b)) rnd ovf]
  else ((List.range a.length).zip a).map fun x => convResult g scale (vopElem op x.2 (b.getD x.1 .zero)) rnd ovf

def vopIssue (w : BitVec 64) (c : VCore) : Issue :=
  let op := wf w 55 50
  let n := if wf w 23 12 == 0 then 4096 else wf w 23 12
  let d := c.buf (wf w 49 46)
  let a := c.buf (wf w 45 42)
  let b := c.buf (wf w 41 38)
  let xd := c.s! (wf w 37 34)
  let xa := c.s! (wf w 33 30)
  let xb := c.s! (wf w 29 26)
  match a.fmt?, d.fmt?, b.fmt? with
  | some f, some g, bf =>
    let two := vopTwo op
    let h := bf.getD .k8
    if (op == 0x18 && !(f = .f32 && g = .u32)) || (two && bf.isNone) then { fault := some faultFormat }
    else
      let outs := if vopReduces op then 1 else n
      { reads := a.span f xa n :: (if two then [b.span h xb n] else []), writes := [d.span g xd outs]
        fault := if offsetBad f xa || offsetBad g xd || (two && offsetBad h xb) then some faultAlign else none
        effect := fun r =>
          let raw := r.elems c.idx a f xa n
          let va := realVals f a.scale raw
          let vb := if two then realVals h b.scale (r.elems c.idx b h xb n) else []
          let res := if g = .u32 && op != 0x18 then (List.range outs).map (r.openCode c g)
            else vopResults op f g va vb raw d.scale (wf w 25 25) (wf w 24 24)
          (r.putElems c.idx d g xd (res.map (·.1))).noteFlags c.idx c.pc
            { outSat := res.any fun x => x.2.sat, outNar := res.any fun x => x.2.nar }
        busy := vopBusy op n }
  | _, _, _ => { fault := some faultFormat }

/-! ### OUT and ACCM (R296 to R300) -/

/-- A constant entry's lo and hi (R298). -/
def clipBounds (e : Bytes) : Mid × Mid := (boundOf (field e 0 4), boundOf (field e 4 4))

/-- A constant entry's value (R300). -/
def Program.constValue (p : Program) (i : Nat) : Val := decodeF32 (field (p.entry i) 8 4)

/-- The 256 results of an OUT, row by row. -/
def outResults (r : Run) (v : Nat) (p : OutParams) (t : Tile) (bias : Option (BufReg × Nat)) (elem : Option (BufReg × Fmt × Nat)) :
    List (Nat × ConvFlags) :=
  let bs := bias.map fun x => realVals .k16 x.1.scale (r.elems v x.1 .k16 x.2 16)
  (List.range 16).flatMap fun i =>
    let es := elem.map fun x => realVals x.2.1 x.1.scale (r.elems v x.1 x.2.1 (x.2.2 + i * x.1.stride) 16)
    (List.range 16).map fun j =>
      outElem p (t.acc.getD (16 * i + j) 0) (t.nar.getD (16 * i + j) false) (bs.map fun l => l.getD j .zero)
        (es.map fun l => l.getD j .zero)

def outIssue (p : Program) (w : BitVec 64) (c : VCore) : Issue :=
  let o := c.buf (wf w 50 47)
  let xo := c.s! (wf w 46 43)
  let bb := c.buf (wf w 42 39)
  let xbias := c.s! (wf w 38 35)
  let eb := c.buf (wf w 34 31)
  let xe := c.s! (wf w 30 27)
  let biasOn := wf w 26 26 == 1
  let ew := wf w 25 24
  let tile := wf w 55 51
  let out := wf w 9 4
  match o.fmt? with
  | none => { fault := some faultFormat }
  | some f =>
    let h := (eb.fmt?).getD .k8
    if (biasOn && bb.fmt? != some .k16) || (ew != 0 && eb.fmt?.isNone) then { fault := some faultFormat }
    else
      let t := c.tile tile
      let pr : OutParams := { fmt := f, scale := o.scale, scales := t.scales, rnd := wf w 11 11, ovf := wf w 10 10
                              clip := if wf w 23 12 == 0 then none else some (clipBounds (p.entry (wf w 23 12))), ew }
      { reads := (if biasOn then [bb.span .k16 xbias 16] else [])
          ++ (if ew == 0 then [] else (List.range 16).map fun i => eb.span h (xe + i * eb.stride) 16)
        writes := (List.range 16).map fun i => o.span f (xo + i * o.stride) 16
        fault := if offsetBad f xo || (ew != 0 && offsetBad h xe) then some faultAlign else none
        effect := fun r =>
          let res := if !scaleGood o.scale || f = .u32 then (List.range 256).map (r.openCode c f) else outResults r c.idx pr t
            (if biasOn then some (bb, xbias) else none) (if ew == 0 then none else some (eb, h, xe))
          let r1 := (List.range 16).foldl (fun r i =>
            r.putElems c.idx o f (xo + i * o.stride) (((res.drop (16 * i)).take 16).map (·.1))) r
          let hists := updWhere (fun x => x.output == out) (fun x => res.foldl (fun x y => x.note f y.1 y.2) x) r1.hists
          let r2 := { r1 with hists := hists, elements := r1.elements + 256 }
          let r3 := r2.noteFlags c.idx c.pc { outSat := res.any fun x => x.2.sat, outNar := res.any fun x => x.2.nar }
          if wf w 3 3 == 1 then r3.updCore c.idx fun c => c.setTile tile Tile.cleared else r3
        busy := 64 }

/-- One element of ACCM (R247). -/
def accmUpdate (sum : Nat) (acc : Int) (nar : Bool) (sc : Val) (seed idx count : Nat) : Nat × ConvFlags :=
  let v := (decode .k24 sum).add (if nar then .nar else (Val.fin acc (-64)).mul sc)
  encode .k24 v 3 (mix64 (mix64 seed idx) count / 2 ^ 32) 0

def accmIssue (p : Program) (w : BitVec 64) (c : VCore) : Issue :=
  let b := c.buf (wf w 50 47)
  let xs := c.s! (wf w 46 43)
  let sr := wf w 42 39
  let seed := c.s! sr + 2 ^ 32 * c.s! (sr + 1)
  let count := c.s! (wf w 38 35)
  let sc := p.constValue (wf w 34 23)
  let t := c.tile (wf w 55 51)
  let rows := (List.range 16).map fun i => b.span .k24 (xs + i * b.stride) 16
  if b.fmt? != some .k24 then { fault := some faultFormat }
  else
    { reads := rows, writes := rows
      effect := fun r =>
        (List.range 16).foldl (fun r i =>
          let off := xs + i * b.stride
          let old := r.elems c.idx b .k24 off 16
          let res := ((List.range 16).zip old).map fun x =>
            accmUpdate x.2 (t.acc.getD (16 * i + x.1) 0) (t.nar.getD (16 * i + x.1) false) sc seed (b.origin + off + x.1) count
          (r.putElems c.idx b .k24 off (res.map (·.1))).noteFlags c.idx c.pc
            { outSat := res.any fun x => x.2.sat, outNar := res.any fun x => x.2.nar }) r
      busy := 128 }

/-! ### Selection (R301 to R303) -/

def selAddr (w : BitVec 64) (c : VCore) : Nat := wf w 23 0 + c.s! (wf w 41 38)

/-- A 16-byte select entry. -/
def selEntryOf (b : Bytes) : SelEntry := ⟨field b 0 8, field b 8 4, field b 12 4⟩

/-- An entry fed by a program: of two with one selection key the unit keeps the smaller aux (R302). -/
def SelUnit.feedAux (u : SelUnit) (e : SelEntry) : SelUnit :=
  if u.held.any fun h => h.key == e.key && h.id == e.id then
    { u with held := updWhere (fun h => h.key == e.key && h.id == e.id) (fun h => { h with aux := min h.aux e.aux }) u.held }
  else u.feed e

def selInitIssue (w : BitVec 64) (c : VCore) : Issue :=
  let a := selAddr w c
  let low := wf w 37 37 == 1
  { reads := if low then [] else [(a, 16)]
    effect := fun r =>
      let e := selEntryOf (r.localRead c.idx a 16)
      r.updCore c.idx fun c => { c with sel := SelUnit.setUp (wf w 53 42) low (if low then 0 else e.key) (if low then 0 else e.id) }
    busy := 4 }

def selFeedIssue (w : BitVec 64) (c : VCore) : Issue :=
  let a := selAddr w c
  let n := if wf w 53 42 == 0 then 4096 else wf w 53 42
  { reads := [(a, 16 * n)]
    effect := fun r =>
      let es := (List.range n).map fun i => selEntryOf (r.localRead c.idx (a + 16 * i) 16)
      r.updCore c.idx fun c => { c with sel := es.foldl SelUnit.feedAux c.sel }
    busy := n }

/-- What SEL READ writes. -/
def SelUnit.summary (u : SelUnit) : Bytes :=
  toLe 4 u.held.length ++ toLe 4 u.ties ++ toLe 4 u.narCount ++ zeros 4
    ++ u.held.flatMap fun e => toLe 8 e.id ++ toLe 4 e.key ++ toLe 4 e.aux

def selReadIssue (w : BitVec 64) (c : VCore) : Issue :=
  let a := selAddr w c
  { writes := [(a, 16 + 16 * c.sel.held.length)], effect := fun r => r.localWrite c.idx a c.sel.summary
    busy := c.sel.held.length + 1 }

/-! ### MOVE and SCAN (R283 to R285, R310) -/

/-- The tensor that a table entry stands for in a run: an argument as supplied, any other as the loader placed it. -/
def Run.tensor (r : Run) (p : Program) (i : Nat) : Option (TensorDesc × Bool) :=
  (p.tensors[i]?).bind fun t =>
    if t.role == 1 then ((r.args.find? fun a => a.1 == t.argSlot).map fun a => (a.2, false)) else some (t.desc, t.role == 4)

/-- A block entry's extents and origins (R311). -/
structure Block where
  src : Nat
  dst : Nat
  extent : List Nat
  srcOrigin : List Nat
  dstOrigin : List Nat

def Program.block (p : Program) (i : Nat) : Block :=
  let b := padTo 32 (p.entry i) ++ padTo 32 (p.entry (i + 1))
  { src := byteAt b 0, dst := byteAt b 1, extent := [field b 4 4, field b 8 4, field b 0xC 4, field b 0x2C 4]
    srcOrigin := [field b 0x10 4, field b 0x14 4, field b 0x18 4, field b 0x30 4]
    dstOrigin := [field b 0x20 4, field b 0x24 4, field b 0x28 4, field b 0x34 4] }

/-- Whether a block reaches beyond a tensor. -/
def outOfBounds (t : TensorDesc) (origin extent : List Nat) : Bool :=
  (List.range 4).any fun k => origin.getD k 0 + extent.getD k 1 > t.dim k

/-- The local byte ranges of a tensor's block. -/
def TensorDesc.localSpans (t : TensorDesc) (f : Fmt) (origin extent : List Nat) : List (Nat × Nat) :=
  (rows extent).map fun r =>
    let off := t.offset (addIdx r origin)
    let lo := off * f.container / 8
    (t.address + lo, ceilDiv ((off + extent.getD 0 1) * f.container) 8 - lo)

/-- A transfer put in flight under the run's next number. -/
def Run.start (r : Run) (t : Transfer) : Run := { r with moves := r.moves ++ [{ t with tid := r.nextTid }], nextTid := r.nextTid + 1 }

/-- An issued MOVE. -/
def moveIssue (p : Program) (r : Run) (w : BitVec 64) (c : VCore) : Issue :=
  let b := p.block (wf w 11 0)
  let so := if wf w 39 39 == 1 then b.srcOrigin.modify (wf w 51 50) (· + c.s! (wf w 47 44)) else b.srcOrigin
  let do_ := if wf w 38 38 == 1 then b.dstOrigin.modify (wf w 49 48) (· + c.s! (wf w 43 40)) else b.dstOrigin
  match r.tensor p b.src, r.tensor p b.dst with
  | some (src, sl), some (dst, dl) =>
    match src.fmt?, dst.fmt? with
    | some f, some g =>
      let reads := if sl then src.localSpans f so b.extent else []
      let writes := if dl then dst.localSpans g do_ b.extent else []
      { reads, writes
        fault := if outOfBounds src so b.extent || outOfBounds dst do_ b.extent then some faultBounds else none
        effect := fun r => r.start
          { tid := 0, vcore := c.idx, tag := wf w 55 52, scan := false, src := { src with rsv3 := sl.toNat }
            dst := { dst with rsv3 := dl.toNat }, extent := b.extent, srcOrigin := so, dstOrigin := do_
            reads := (hull reads).toList, writes := (hull writes).toList, job := [], flown := none } }
    | _, _ => { fault := some faultFormat }
  | _, _ => { fault := some faultBounds }

/-- The query entries of a scan job that break R285. -/
def scanBad (job : Bytes) : Bool :=
  (List.range (byteAt job 6)).any fun i =>
    let e := slice job (0x40 + 64 * i) 64
    let a := field e 0x30 8
    field e 0 2 != 0 || byteAt e 5 / 8 % 2 != 1 || !(0x800000 ≤ a && a + 0x620 ≤ 0xF80000)

/-- An issued SCAN: its job becomes a bulk pass of the job's lane. -/
def scanIssue (r : Run) (w : BitVec 64) (c : VCore) : Issue :=
  let a := wf w 23 0 + c.s! (wf w 51 48)
  let job := r.localRead c.idx a 576
  let bad := byteAt job 6 == 0 || byteAt job 6 > 8 || scanBad job
  let outs := if bad then [] else (List.range (byteAt job 6)).map fun i => (field (slice job (0x40 + 64 * i) 64) 0x30 8, 0x620)
  { reads := [(a, 64 + 64 * byteAt job 6)], writes := outs
    fault := if bad then some faultScan else none
    effect := fun r => r.start
      { tid := 0, vcore := c.idx, tag := wf w 55 52, scan := true, src := parseTensor [], dst := parseTensor [], extent := []
        srcOrigin := [], dstOrigin := [], reads := [(a, a + 64 + 64 * byteAt job 6 - 1)], writes := (hull outs).toList, job, flown := none } }

/-! ### Waiting (R279 to R282) -/

/-- The transfers of a core. -/
def Run.movesOf (r : Run) (v : Nat) : List Transfer := r.moves.filter fun t => t.vcore == v

/-- Whether a core has reached barrier n of a scope, its earlier instructions and transfers complete (R271, R279), or has ended. -/
def Run.reached (r : Run) (c : VCore) (scope n : Nat) : Bool :=
  let k := c.bars.getD scope 0
  c.ended || k > n || (k == n && (c.wait != some (.bar scope) || (r.movesOf c.idx).isEmpty))

/-- Whether every virtual core of a run's program has reached barrier n of a scope. -/
def Run.allReached (r : Run) (p : Program) (scope n : Nat) : Bool := r.cores.length == p.vcores && r.cores.all fun x => r.reached x scope n

/-- Whether a barrier that a core waits at is over. -/
def State.barOver (s : State) (r : Run) (p : Program) (c : VCore) (scope : Nat) : Bool :=
  let n := c.bars.getD scope 0
  let mine := (r.movesOf c.idx).isEmpty
  match scope with
  | 0 => mine
  | 1 => mine && r.cores.all fun x => teamOf x.idx != teamOf c.idx || r.reached x 1 n
  | _ =>
    let here := mine && r.allReached p scope n
    if scope == 2 || !s.groupMember then here
    else here && s.group.barriers.any fun b => b.1 == r.handle && b.2.1 == n && b.2.2 + 1 ≥ s.group.size

/-- Whether a core waits no longer. -/
def State.waitOver (s : State) (r : Run) (p : Program) (c : VCore) : Bool :=
  match c.wait with
  | none => true
  | some (.bar k) => s.barOver r p c k
  | some (.tag t) => !((r.movesOf c.idx).any fun m => m.tag == t)
  | some _ => false

/-- The last arrival of a run's virtual cores at the next group barrier, or the END that counts as one, announced (R279, BARRIER). -/
def State.announceBar (s : State) (rid : Nat) : State :=
  match s.run? rid with
  | none => s
  | some r =>
    let n := r.announced + 1
    if (s.program? r.handle).any fun p => r.allReached p 3 n && r.cores.any fun c => c.bars.getD 3 0 ≥ n then
      (s.updRun rid ({ · with announced := n })).announce 0x09 (toLe 4 r.handle ++ toLe 4 n)
    else s

/-! ### Ending a run (R304 to R306, R317, R320, R321) -/

/-- A stopped run whose transfers have all completed ends what it runs for: RUN_PROGRAM with the status block as it stands
(R305, R306), an EMBED_INSERT, or the member whose rerank it is, with INVALID_DESCRIPTOR and the index of the faulting instruction (R321,
R535, R550). -/
def State.stopRun (s : State) (r : Run) : State :=
  let s1 := s.removeRun r.rid
  let (code, pc, v) := r.fault.getD (0, 0, 0)
  match r.why with
  | .command cid =>
    let block := ((s.program? r.handle).map (·.status)).getD 0
    let res : Result := if r.medium then { Result.of 8 with c := block }
      else { status := 3, detail := 0x0A, fault := code, a := pc, b := v, c := block }
    (s1.writeT1 block r.statusBytes).complete cid res
  | .embed cid _ _ =>
    let s2 := (s1.dropUncommitted cid).dropRuns cid
    s2.complete cid (if r.medium then .of 8 else .invalid 0x0A pc)
  | .rerank cid member =>
    let c := s.cmd? cid
    let a : RecArgs := { code := 0x0038, severity := 1, address := r.handle, tag := (c.map (·.hdr.tag)).getD 0, ring := (c.map (·.ring)).getD 0
                         collection := (c.map (·.hdr.collection)).getD 0xFFFF }
    if r.medium then s1.endMember cid member 8 else (s1.raise a).endMember cid member 3 pc

/-- A run that has stopped ends as soon as no transfer of it is in flight. -/
def State.settleRun (s : State) (rid : Nat) : State :=
  match s.run? rid with
  | none => s
  | some r => if (r.fault.isSome || r.medium) && r.moves.isEmpty then s.stopRun r else s

/-- The first poisoned word that a read of n bytes meets. -/
def State.badWord (s : State) (a n : Nat) : Option Nat :=
  (sortNats (s.mem.poison.filter fun w => w < a + n && a < w + 32)).head?

/-- The record of an uncorrectable word that a command's read met, with its pseudo-channel and page (R378). -/
def State.poisonRecord (s : State) (cid word : Nat) : State :=
  let c := s.cmd? cid
  let at_ := s.pageOf word
  s.record { code := 0x0011, severity := 1, unitKind := if at_.isSome then 7 else 0, unit := (at_.map (·.1)).getD 0, page := at_.map (·.2)
             address := word, tag := (c.map (·.hdr.tag)).getD 0, ring := (c.map (·.ring)).getD 0
             collection := (c.map (·.hdr.collection)).getD 0xFFFF }

/-- The same for a word that a run met (R306). -/
def State.wordRecord (s : State) (r : Run) (word : Nat) : State := s.poisonRecord r.why.cmd word

/-- A scan whose segment list cannot be read: its transfer is over, and the program stops. -/
def State.scanUnreadable (s : State) (rid tid a n : Nat) : State :=
  match s.run? rid with
  | none => s
  | some r =>
    let s1 := (s.badWord a n).elim s (s.wordRecord r)
    (s1.updRun rid fun r => { r with moves := r.moves.filter (fun t => t.tid != tid), medium := true }).settleRun rid

/-- A runtime fault (R304). -/
def State.faultRun (s : State) (rid code pc v : Nat) : State :=
  (s.updRun rid fun r => { r with fault := some (code, pc, v) }).settleRun rid

/-! ### Issue (R268) -/

/-- The window kind that a run uses: embedding ingest, rerank rerank, every RUN_PROGRAM general (R332, R322). -/
def RunFor.window : RunFor → Nat
  | .command _ => 3
  | .embed _ _ _ => 0
  | .rerank _ _ => 2

/-- Cycles from one issue of a core to its next: one, or four while the hardware clamp limits its window (R631, R642). -/
def State.pace (s : State) (r : Run) : Nat := if s.power.clampLimit && r.why.window != 2 then 4 else 1

/-- A core whose next instruction may issue: its run is not stopped, its team is placed, it does not wait, and its cycles
are within the bound. -/
def State.issuer (s : State) (rid v : Nat) : Option (Run × Program × VCore × BitVec 64) :=
  (s.run? rid).bind fun r => (s.program? r.handle).bind fun p => (r.core? v).bind fun c => (p.code[c.pc]?).bind fun w =>
    let ok := r.fault.isNone && !r.medium && (r.teams.any fun t => t.1 == teamOf v) && !c.ended
      && s.waitOver r p c && c.cycles ≤ p.maxCycles
    if ok then some (r, p, c, w) else none

/-- The row of an instruction: the core's next instruction is one of the row's opcode (and sub-operation), and no transfer
holds it back. It faults or takes effect. -/
def isaEvent (s : State) (rid v op : Nat) (sub : Option Nat) (issue : Run → Program → VCore → BitVec 64 → Issue) :
    Host.Outcome State Fault Refusal :=
  match s.issuer rid v with
  | none => .next s
  | some (r, p, c, w) =>
    let i := issue r p c w
    let done (x : Run) : Run := (i.effect x).updCore v fun c => c.advance (unitOf op) i.busy (s.pace r)
    event s (wf w 63 56 == op && (sub.all fun k => wf w 55 54 == k) && !(r.moves.any fun t => t.blocks v i))
      (match i.faults with
        | some f => s.settled (s.faultRun rid f c.pc v)
        | none => s.updRun rid done)

/-- The row of an instruction that leaves the core waiting (BAR, WAITR, WAITM). -/
def waitEvent (s : State) (rid v op : Nat) (mark : BitVec 64 → VCore → VCore) : Host.Outcome State Fault Refusal :=
  match s.issuer rid v with
  | none => .next s
  | some (r, _, _, w) =>
    event s (wf w 63 56 == op)
      ((s.updRun rid fun x => x.updCore v fun c => mark w (c.advance (unitOf op) 0 (s.pace r))).announceBar rid)

def execNopInstruction (run core : Nat) (s : State) : Host.Outcome State Fault Refusal :=
  isaEvent s run core 0x00 none fun _ _ _ _ => {}

def execSets (run core : Nat) (s : State) : Host.Outcome State Fault Refusal :=
  isaEvent s run core 0x01 none fun _ _ c w => setsIssue w c.idx

def execAdds (run core : Nat) (s : State) : Host.Outcome State Fault Refusal :=
  isaEvent s run core 0x02 none fun _ _ c w => addsIssue w c.idx

def execMuls (run core : Nat) (s : State) : Host.Outcome State Fault Refusal :=
  isaEvent s run core 0x03 none fun _ _ c w => mulsIssue w c.idx

def execSetb (run core : Nat) (s : State) : Host.Outcome State Fault Refusal :=
  isaEvent s run core 0x04 none fun _ p c w => setbIssue p w c

def execLoop (run core : Nat) (s : State) : Host.Outcome State Fault Refusal :=
  isaEvent s run core 0x05 none fun _ _ c w => loopIssue w c

/-- BAR: the core has reached the barrier and waits. -/
def execBar (run core : Nat) (s : State) : Host.Outcome State Fault Refusal :=
  waitEvent s run core 0x06 fun w c =>
    let k := wf w 55 54
    { c with bars := c.bars.modify k (· + 1), wait := some (.bar k) }

def execWaitr (run core : Nat) (s : State) : Host.Outcome State Fault Refusal :=
  waitEvent s run core 0x07 (fun w c => { c with wait := some (if wf w 55 54 == 0 then .round else .bulk) })

def execWaitm (run core : Nat) (s : State) : Host.Outcome State Fault Refusal :=
  waitEvent s run core 0x09 (fun w c => { c with wait := some (.tag (wf w 55 52)) })

/-- Teams whose virtual cores have all ended leave their clusters (R263). -/
def Run.closeTeams (r : Run) (p : Program) : Run :=
  let finished (t : Nat × Nat) : Bool :=
    let mine := r.cores.filter fun c => teamOf c.idx == t.1
    mine.length == min 64 (p.vcores - 64 * t.1) && mine.all (·.ended)
  { r with teamsDone := r.teamsDone ++ (r.teams.filter finished).map (·.1), teams := r.teams.filter fun t => !finished t }

/-- END: the core ends now, or when its last transfer completes (R282). -/
def execEndCore (run core : Nat) (s : State) : Host.Outcome State Fault Refusal :=
  match s.issuer run core with
  | none => .next s
  | some (r, p, c, w) =>
    let stop (c : VCore) : VCore :=
      if (r.movesOf c.idx).isEmpty then { c with ended := true, wait := none } else { c with wait := some .ending }
    event s (wf w 63 56 == 0x08)
      ((s.updRun run fun r => (r.updCore c.idx stop).closeTeams p).announceBar run)

/-- MOVE; one that names T2 does not start while either module of the loan sheds (R389). -/
def execMoveInstruction (run core : Nat) (s : State) : Host.Outcome State Fault Refusal :=
  let named := (s.issuer run core).elim [] fun x =>
    let b := x.2.1.block (wf x.2.2.2 11 0)
    [b.src, b.dst].filterMap fun i => (x.1.tensor x.2.1 i).bind fun t => if t.2 then none else some t.1
  if s.t2Shed named then .next s else isaEvent s run core 0x10 none fun r p c w => moveIssue p r w c

/-- SCAN: issued, its job joins the queue of its lane as a bulk job (R151). A segment list that holds an uncorrectable word stops the
program (R306). -/
def execScan (run core : Nat) (s : State) : Host.Outcome State Fault Refusal :=
  match s.issuer run core with
  | none => .next s
  | some (r, _, c, w) =>
    let i := scanIssue r w c
    let job := r.localRead core (wf w 23 0 + c.s! (wf w 51 48)) 576
    let lane := field job 0x20 2 % 512
    let pass : LanePass :=
      { lane, coll := 0xFFFF, gen := field job 0xC 4, part := field job 8 4, entries := [], order := 0, started := false
        paused := s.mem.refreshing.contains lane, splices := [], program := some (run, r.nextTid), job := field job 0 4, segs := s.jobSegs job
        filled := false, lanes := [lane], listAddr := field job 0x18 8, bulkRead := 0 }
    event s (wf w 63 56 == 0x18 && !(r.moves.any fun t => t.blocks core i))
      (match i.faults with
        | some f => s.settled (s.faultRun run f c.pc core)
        | none =>
          let s1 := s.updRun run fun x => (i.effect x).updCore core fun c => c.advance (unitOf 0x18) 1 (s.pace r)
          if s.jobPoisoned job then s.settled (s1.scanUnreadable run r.nextTid (field job 0x18 8) (8 * field job 0x16 2))
          else { s1 with comp.passes := s.comp.passes ++ [pass] })

def execTclr (run core : Nat) (s : State) : Host.Outcome State Fault Refusal :=
  isaEvent s run core 0x20 none fun _ _ c w => tclrIssue w c.idx

def execTadd (run core : Nat) (s : State) : Host.Outcome State Fault Refusal :=
  isaEvent s run core 0x21 none fun _ _ c w => taddIssue w c

def execTsave (run core : Nat) (s : State) : Host.Outcome State Fault Refusal :=
  isaEvent s run core 0x22 none fun _ _ c w => tsaveIssue w c

def execTload (run core : Nat) (s : State) : Host.Outcome State Fault Refusal :=
  isaEvent s run core 0x23 none fun _ _ c w => tloadIssue w c

def execMma (run core : Nat) (s : State) : Host.Outcome State Fault Refusal :=
  isaEvent s run core 0x28 none fun _ _ c w => mmaIssue w c

def execVop (run core : Nat) (s : State) : Host.Outcome State Fault Refusal :=
  isaEvent s run core 0x30 none fun _ _ c w => vopIssue w c

def execOutInstruction (run core : Nat) (s : State) : Host.Outcome State Fault Refusal :=
  isaEvent s run core 0x38 none fun _ p c w => outIssue p w c

def execAccm (run core : Nat) (s : State) : Host.Outcome State Fault Refusal :=
  isaEvent s run core 0x3C none fun _ p c w => accmIssue p w c

def execSelInit (run core : Nat) (s : State) : Host.Outcome State Fault Refusal :=
  isaEvent s run core 0x40 (some 0) fun _ _ c w => selInitIssue w c

def execSelFeed (run core : Nat) (s : State) : Host.Outcome State Fault Refusal :=
  isaEvent s run core 0x40 (some 1) fun _ _ c w => selFeedIssue w c

def execSelRead (run core : Nat) (s : State) : Host.Outcome State Fault Refusal :=
  isaEvent s run core 0x40 (some 2) fun _ _ c w => selReadIssue w c

end Sys2Proof.Machine
end

