-- ==== Sys2Proof/Machine/Blocks.lean ====
section
/-!
DEFINITION. What a hawser port puts on its link (chapter 12, Blocks and flits; Slot windows and replay): messages, flits and blocks as
bytes, the blocks of a link slot, the positions that a transfer list reserves, the copies kept for replay, and a lost block.
-/

namespace Sys2Proof.Machine

/-! ### Messages, flits and blocks (R415, R417, R419) -/

/-- A control message's 32 bytes. -/
def Ctrl.bytes (c : Ctrl) : Bytes :=
  toLe 1 c.type ++ toLe 1 (bitsNat [c.groupWide]) ++ toLe 2 c.origin ++ toLe 4 c.seq ++ toLe 8 c.sent ++ padTo 16 c.body

/-- An idle flit. -/
def Flit.idle : Flit := { type := 0, replayed := false, last := false, index := 0, length := 0, flow := none, msgs := [] }

/-- A flit's 16-byte header. A flit of no transfer has zero in the fields of one (log 106). -/
def Flit.header (f : Flit) : Bytes :=
  toLe 1 f.type ++ toLe 1 (bitsNat [f.replayed, f.last]) ++ toLe 2 ((f.flow.map (·.src)).getD 0) ++ toLe 2 ((f.flow.map (·.dst)).getD 0)
    ++ toLe 2 f.index ++ toLe 4 ((f.flow.map (·.tid)).getD 0) ++ toLe 2 f.length ++ zeros 2

/-- A flit's 256 bytes: a control flit's seven message places and its CRC-32, or a data flit's payload, which the spec does not lay out
(log 39). -/
def Flit.bytes (f : Flit) : Bytes :=
  match f.flow with
  | some w => f.header ++ (List.range 240).map (Config.flitPayload w f.index)
  | none =>
    if f.type == 1 then
      let b := f.header ++ padTo 224 f.msgs.flatten ++ zeros 12
      b ++ toLe 4 (crc32 b)
    else f.header ++ zeros 240

/-- A block's 1,285 data bytes: sync, block_seq, nack_seq and five flits, idle where none is given. -/
def blockBytes (seq nack : Nat) (flits : List Flit) : Bytes :=
  toLe 1 0xB8 ++ toLe 2 seq ++ toLe 2 nack ++ (List.range 5).flatMap fun i => (flits.getD i Flit.idle).bytes

/-- The data symbols of one of a block's two codewords: symbol i of its 1,028 goes to codeword i mod 2. Symbols are taken from the
bytes' least significant bit up (log 106). -/
def codewordSymbols (block : Bytes) (k : Nat) : List Nat :=
  let n := leNat block
  (List.range 514).map fun j => bits n (10 * (2 * j + k) + 9) (10 * (2 * j + k))

/-- Whether a received control flit's CRC fails (R419). -/
def controlBad (f : Bytes) : Bool := byteAt f 0 == 1 && crc32 (f.take 252) != field f 252 4

/-- Whether a received block is lost: one with a codeword that cannot be corrected (it has no bytes), a wrong sync byte, or a control
flit whose CRC fails (R416, R419). -/
def blockLost (block : Option Bytes) : Bool :=
  match block with
  | none => true
  | some b => byteAt b 0 != 0xB8 || (List.range 5).any fun i => controlBad (slice b (5 + 256 * i) 256)

/-! ### The blocks of a link slot (R424, R434, R435) -/

/-- Blocks that a slot takes less its guards: 7 blocks in 85 ticks. -/
def slotBlocks (ticks : Nat) : Nat := (ticks - 8) * 7 / 85

/-- block_seq of a slot's first block: the first that lies inside the slot's transmit window (R424, log 106). -/
def slotFirst (start : Nat) : Nat := ceilDiv ((start + 4) * 7) 85

/-- The slot record and the entry that reserve this module's positions for a flow in slots of a kind (R434). -/
def Timetable.slotEntry (t : Timetable) (kind src dst inPort : Nat) : Option (TtSlot × List Nat) :=
  (t.slots.filter fun s => s.kind == kind).findSome? fun s => (s.list.find? fun e =>
    e.getD 0 0 == src && e.getD 1 0 == dst && e.getD 5 0 == (if inPort == 255 then 0xFF else inPort)).map fun e => (s, e)

/-- Flits at consecutive positions of a slot: block_seq and place of each. -/
def placeFlits (slot : TtSlot) (pos : Nat) (l : List Flit) : List (Nat × Nat × Flit) :=
  ((List.range l.length).zip l).map fun x => (slotFirst slot.start + (pos + x.1) / 5, (pos + x.1) % 5, x.2)

/-- Positions of an entry that this round's flits on a port have taken. -/
def Port.taken (p : Port) (slot : TtSlot) (e : List Nat) : Nat :=
  (p.kept.filter fun x =>
    let at_ := 5 * (x.1 - slotFirst slot.start) + x.2.1
    slotFirst slot.start ≤ x.1 && e.getD 2 0 ≤ at_ && at_ < e.getD 2 0 + e.getD 3 0).length

/-- The five flits of the block of a number that a port sends in this round: those that it sent in link slots, and idle ones in every
other place; a block is sent whether or not any slot is open (R417, R435). -/
def Port.blockFlits (p : Port) (seq : Nat) : List Flit :=
  (List.range 5).map fun i => ((p.kept.find? fun x => x.1 == seq && x.2.1 == i).map (·.2.2)).getD Flit.idle

/-- The block of a number as a port sends it, when k blocks are still to go out before it (R425). -/
def Port.blockOut (p : Port) (seq k : Nat) : Bytes := blockBytes seq (p.nacks.getD k 0xFFFF) (p.blockFlits seq)

/-- Flits of a data transfer, from one index up to another, of as many as it takes. -/
def dataFlits (type : Nat) (w : Flow) (bytes from_ to_ total : Nat) : List Flit :=
  (List.range (to_ - from_)).map fun i =>
    let k := from_ + i
    { type, replayed := false, last := k + 1 == total, index := k, length := if k + 1 == total then bytes - 240 * k else 240, flow := some w
      msgs := [] }

/-- Messages in control flits, seven to a flit. -/
def controlFlits (l : List Bytes) : List Flit :=
  (List.range (ceilDiv l.length 7)).map fun i =>
    let m := (l.drop (7 * i)).take 7
    { type := 1, replayed := false, last := i + 1 == ceilDiv l.length 7, index := i, length := m.length, flow := none, msgs := m }

/-- Flits that one control slot of this round takes on every port (R438). -/
def Timetable.controlRoom (t : Timetable) : Nat := sumBy (fun s : TtSlot => 5 * slotBlocks s.len) (t.slots.filter fun s => s.kind == 0)

/-! ### Replay at the transmitter (R425, R426, R428) -/

/-- The flits of a port's reported blocks in the order of replay: control, fan-out, return, bulk, and in each by block_seq. -/
def Port.replayed (p : Port) (reported : List Nat) : List (Nat × Nat × Flit) :=
  sortBy (fun a b : Nat × Nat × Flit => keyLt a.2.2.type (5 * a.1 + a.2.1) b.2.2.type (5 * b.1 + b.2.1)) (p.kept.filter fun x => reported.contains x.1)

/-- The replay slot at a port: the flits of the blocks reported lost go out again, marked; bulk flits that are missed there too wait for
later bulk slots; no copy is kept any longer. -/
def Port.replay (p : Port) (room : Nat) (reported missed : List Nat) : Port :=
  let order := p.replayed reported
  let out := order.take room
  let lost := (out.filter fun x => missed.contains x.1) ++ order.drop room
  { p with resent := out.map fun x => { x.2.2 with replayed := true }
           again := p.again ++ (lost.filter fun x => x.2.2.type == 4).map (·.2.2), kept := [] }

/-- Flits that the replay slot takes on a port. -/
def Timetable.replayRoom (t : Timetable) (p : Nat) : Nat :=
  sumBy (fun s : TtSlot => 5 * slotBlocks s.len) (t.slots.filter fun s => s.kind == 4 && s.ports.testBit p)

end Sys2Proof.Machine
end

