-- ==== Sys2Proof/Machine/Timetables.lean ====
section
/-!
DEFINITION. Timetable images and switching (chapter 10): the checks of TIMETABLE_LOAD, proposals, acceptance and abort, the
switch at its round.
-/

namespace Sys2Proof.Machine

/-! ### The image (R326 to R328, R433) -/

/-- A transfer list's entries: source, destination, first flit, flits, out port, in port, hop. -/
def readList (b : Bytes) (off : Nat) : List (List Nat) :=
  if off == 0 then [] else
  (List.range (field b off 4)).map fun i =>
    let e := off + 16 + 16 * i
    [field b e 2, field b (e + 2) 2, field b (e + 4) 2, field b (e + 6) 2, byteAt b (e + 8), byteAt b (e + 9), byteAt b (e + 10)]

def readSlot (b : Bytes) (o : Nat) : TtSlot :=
  { kind := byteAt b o, ports := byteAt b (o + 1), start := field b (o + 4) 4, len := field b (o + 8) 4
    list := readList b (field b (o + 12) 4) }

def readWindow (b : Bytes) (o : Nat) : TtWindow :=
  { kind := byteAt b o, prewake := field b (o + 2) 2, first := field b (o + 4) 4, rounds := field b (o + 8) 4
    clusters := (List.range 64).filter fun i => (field b (o + 16) 8).testBit i }

def readPlan (b : Bytes) (o : Nat) : TtPlan :=
  { cStack := field b o 4, nScan := field b (o + 4) 2, nRr := field b (o + 6) 2, refineReads := field b (o + 8) 4
    admitQuota := field b (o + 12) 4, rerankCap := field b (o + 16) 4
    wait := (List.range 4).map (fun i => field b (o + 20 + 2 * i) 2), bulk := field b (o + 28) 4 }

/-- The timetable that an image's bytes give. -/
def readTimetable (b : Bytes) : Timetable :=
  let n := field b 0x10 2
  let share := field b 0x40 8
  { ident := field b 8 8, single := byteAt b 6 % 2 == 1, size := n, hops := byteAt b 0x12, ticks := field b 0x14 4
    cycle := field b 0x18 4
    slots := (List.range (field b 0x1C 2)).map (fun i => readSlot b (field b 0x20 8 + 16 * i))
    windows := (List.range (field b 0x1E 2)).map (fun i => readWindow b (field b 0x28 8 + 32 * i))
    full := readPlan b (field b 0x30 8), lean := readPlan b (field b 0x38 8)
    shares := if share == 0 then [] else (List.range n).map fun r => (List.range n).map fun c => field b (share + 2 * (n * r + c)) 2 }

/-- Header fields out of range, a bad CRC or a reserved byte (R326). -/
def ttHeaderBad (b : Bytes) : Bool :=
  let n := field b 0x10 2
  let single := n == 1
  let slots := field b 0x1C 2
  let windows := field b 0x1E 2
  let len := field b 0x48 4
  let outside (off size : Nat) : Bool := off % 64 != 0 || off + size > len
  b.length < 0x80 || len != b.length || len > 67108864 || field b 0 4 != 0x4B545431 || field b 4 2 != 1 || field b 6 2 > 1
    || field b 8 8 == 0 || n == 0 || n > 512 || (byteAt b 6 % 2 == 1 && !single) || byteAt b 0x12 > 6 || (single && byteAt b 0x12 != 0)
    || byteAt b 0x13 != 0 || field b 0x14 4 < 500 || field b 0x14 4 > 500000 || field b 0x18 4 == 0 || field b 0x18 4 > 4096
    || slots < 2 || slots > 64 || windows > 1024 || outside (field b 0x20 8) (16 * slots) || outside (field b 0x28 8) (32 * windows)
    || outside (field b 0x30 8) 64 || outside (field b 0x38 8) 64
    || (single && field b 0x40 8 != 0) || (!single && (field b 0x40 8 == 0 || field b 0x40 8 + 2 * n * n > len))
    || !zeroAt b 0x50 48 || crc32 (b.take 0x4C ++ zeros 4 ++ b.drop 0x50) != field b 0x4C 4

/-- A slot record or its transfer list at fault. -/
def slotBad (b : Bytes) (t : Timetable) (i : Nat) : Bool :=
  let o := field b 0x20 8 + 16 * i
  let s := readSlot b o
  let off := field b (o + 12) 4
  s.kind > 5 || !zeroAt b (o + 2) 2 || (s.kind == 5 && (s.ports != 0 || off != 0)) || (t.size == 1 && off != 0)
    || (off != 0 && (off + 16 + 16 * field b off 4 > b.length || field b off 4 > 65536 || !zeroAt b (off + 4) 12))
    || ((List.range s.list.length).zip s.list).any fun x =>
      let e := x.2
      e.getD 0 0 ≥ t.size || e.getD 1 0 ≥ t.size || e.getD 3 0 == 0 || e.getD 4 0 > 7 || !s.ports.testBit (e.getD 4 0)
        || (e.getD 5 0 > 7 && e.getD 5 0 != 0xFF) || !zeroAt b (off + 16 + 16 * x.1 + 11) 5
        || (x.1 > 0 && e.getD 2 0 < (s.list.getD (x.1 - 1) []).getD 2 0)

/-- A round layout that breaks R328. -/
def layoutBad (t : Timetable) : Bool :=
  let ofKind (k : Nat) : List TtSlot := t.slots.filter fun s => s.kind == k
  let links := t.slots.filter fun s => s.kind != 5
  let used := distinct ((t.slots.flatMap (·.list)).flatMap fun e => [e.getD 4 0, e.getD 5 0].filter fun p => p != 0xFF)
  let clash (a b : TtSlot) : Bool := (a.ports &&& b.ports) != 0 && a.start < b.start + b.len && b.start < a.start + a.len
  (ofKind 0).length != 1 || (ofKind 0).any (fun s => s.start != 0 || s.len < 250)
    || (ofKind 5).length != 1 || (ofKind 5).any (fun s => s.len < 2000)
    || (t.size > 1 && used.any fun p => [1, 2, 4].any fun k => !(ofKind k).any fun s => s.ports.testBit p)
    || (List.range links.length).any (fun i => (List.range i).any fun j => match links[i]?, links[j]? with
        | some a, some b => clash a b
        | _, _ => false)
    || t.slots.any fun s => s.start + s.len > t.ticks

/-- Two windows that give one cluster to a round, a window at fault, or one that names a cluster out of service. -/
def windowsBad (b : Bytes) (t : Timetable) (out : List Nat) : Bool :=
  let n := t.windows.length
  (List.range n).any (fun i =>
      let o := field b 0x28 8 + 32 * i
      let w := readWindow b o
      w.kind > 3 || byteAt b (o + 1) > 1 || (byteAt b (o + 1) == 0 && w.prewake != 0) || (byteAt b (o + 1) == 1 && w.prewake < 1000)
        || w.first ≥ t.cycle || w.rounds == 0 || w.rounds > t.cycle || !zeroAt b (o + 12) 4 || !zeroAt b (o + 24) 8
        || w.clusters.any out.contains)
    || (List.range n).any fun i => (List.range i).any fun j => match t.windows[i]?, t.windows[j]? with
      | some a, some c => (a.clusters.any c.clusters.contains)
          && (List.range t.cycle).any fun r => a.coversAt t.cycle r && c.coversAt t.cycle r
      | _, _ => false

def planBad (b : Bytes) (o : Nat) : Bool :=
  let p := readPlan b o
  p.nScan == 0 || p.nRr == 0 || p.nRr > 255 || p.admitQuota == 0 || p.admitQuota > 65536 || !zeroAt b (o + 0x20) 32

/-- R348's condition on an image's plans. -/
def Timetable.leanGood (t : Timetable) : Bool := t.lean.nScan * t.lean.cStack ≥ t.full.nScan * t.full.cStack

/-- Whether an image breaks a check of R326 that its bytes decide. -/
def timetableBad (b : Bytes) (out : List Nat) : Bool :=
  if ttHeaderBad b then true else
  let t := readTimetable b
  (List.range t.slots.length).any (slotBad b t) || layoutBad t || windowsBad b t out || planBad b (field b 0x30 8)
    || planBad b (field b 0x38 8) || !t.leanGood || t.shares.any fun r => r.sum == 0

/-! ### Proposals (R346 to R349) -/

/-- Whether switching from one image to another is seamless (R346). -/
def seamless (a b : Timetable) : Bool := a.ticks == b.ticks && a.cycle == b.cycle && decide (a.slots = b.slots)

/-- A switch is proposed and not settled: ACCEPTED or DRAINING. -/
def State.switching (s : State) : Bool := s.sw.state ≥ 2

/-- The size that the group has, or that a group in formation will have. -/
def State.formingSize (s : State) : Nat := if s.group.joining.isSome then s.group.joinSize else s.group.size

/-- Whether this module accepts a proposal (R348). A drained switch may lead to images of a new group size (log 38). -/
def State.acceptable (s : State) (ident : Nat) (drained : Bool) : Bool :=
  match s.staged with
  | none => false
  | some t => t.ident == ident && (t.size == s.formingSize || (drained && s.groupMember)) && t.leanGood && s.sw.state == 1

/-- The leader proposes a switch to its staged image in the control slot of the next round (R347). -/
def State.propose (s : State) (msg : Option Nat) : State :=
  match s.staged with
  | none => s
  | some t =>
    let joining := s.group.joining.isSome
    let drained := joining || !seamless s.active t || (s.groupMember && t.size != s.group.size)
    let h := if joining then t.hops else s.active.hops
    let p := s.clock.round + 1
    let wait := 3 * h + 1 + (if drained then s.active.nDrain else 0)
    let s1 := { s with sw := { s.sw with state := 2, atRound := p + wait, there := p + wait, ident := t.ident, drained, proposal := p
                                         leading := true, accepts := [], refusals := [], msg } }
    if joining || s.groupMember then s1.line 0x04 (toLe 8 t.ident ++ toLe 4 wait ++ toLe 1 drained.toNat) else s1

/-- A proposal put aside: STAGED again, admission resumes, and a TIMETABLE_LOAD that asked for it is refused (R349, R589). -/
def State.abortSwitch (s : State) : State :=
  ({ s with sw := { s.sw with state := 1, leading := false, msg := none } }).refuseLater 0x60 s.sw.msg 6 noOffset 0

/-- A received SWITCH_PROPOSE: accepted or refused in the next control slot; the reason of a refusal is free (log 2). A refused
proposal too is unsettled until it is aborted or its round comes (R326). -/
def State.onPropose (s : State) (m : Bytes) : State :=
  let ident := field m 0x10 8
  let wait := field m 0x18 4
  let drained := byteAt m 0x1C % 2 == 1
  let sent := field m 8 8
  if s.acceptable ident drained then
    let here := if s.group.joining.isSome then s.clock.round + wait else sent + wait
    ({ s with sw := { s.sw with state := 2, atRound := here, there := sent + wait, ident, drained, proposal := sent, leading := false } }).line
      0x05 (toLe 8 ident)
  else
    let s1 := { s.draw 1 with sw.refused := some (ident, if s.group.joining.isSome then s.clock.round + wait else sent + wait) }
    s1.line 0x06 (toLe 8 ident ++ toLe 1 (Config.freeNat s.free))

/-- A received SWITCH_ACCEPT or SWITCH_REFUSE at the leader. -/
def State.onAnswer (s : State) (m : Bytes) (accept : Bool) : State :=
  if s.sw.leading && s.switching && field m 0x10 8 == s.sw.ident then
    if accept then { s with sw.accepts := s.sw.accepts ++ [field m 2 2] } else { s with sw.refusals := s.sw.refusals ++ [field m 2 2] }
  else s

/-- A received SWITCH_ABORT. -/
def State.onAbort (s : State) (m : Bytes) : State :=
  let s1 := if s.sw.refused.any fun x => x.1 == field m 0x10 8 then { s with sw.refused := none } else s
  if s1.switching && field m 0x10 8 == s1.sw.ident then s1.abortSwitch else s1

/-- Members other than this one whose acceptance has not arrived. -/
def State.unanswered (s : State) : List Nat :=
  let size := if s.group.joining.isSome then s.group.joinSize else s.group.size
  let me := if s.group.joining.isSome then s.group.joinIndex else s.group.index
  (List.range size).filter fun m => m != me && !s.sw.accepts.contains m && !s.group.lost.contains m

/-- SWITCH_ABORT_DEADLINE (R349). -/
def execSwitchAbortDeadline (s : State) : Host.Outcome State Fault Refusal :=
  let h := if s.group.joining.isSome then (s.staged.map (·.hops)).getD 0 else s.active.hops
  event s (s.sw.leading && s.switching && s.clock.round ≥ s.sw.proposal + 2 * h + 1 && s.clock.round < s.sw.atRound
      && (!s.sw.refusals.isEmpty || !s.unanswered.isEmpty))
    ((s.line 0x07 (toLe 8 s.sw.ident)).abortSwitch)

/-! ### TIMETABLE_LOAD (R326, R353, R589) -/

/-- The TIMETABLE_LOAD rows: flags[0] is the row's, the image is checked, and it is staged. The refusal codes are the
model's choice (log 35). -/
def loadEvent (s : State) (cells : Bytes) (host : HostImage) (propose : Bool) (after : State → Nat → Timetable → State) :
    Host.Outcome State Fault Refusal :=
  let m := msgBytes cells
  let a := field m 0x20 8
  let n := field m 0x28 4
  let img := hostRead host a n
  let bad := fieldAt [(a + n > 2 ^ 47, 0x20), (n > 67108864, 0x28), (timetableBad img s.comp.out, 0x20)]
  messageEvent s ⟨0x60, 0x30, Component.fabric, false⟩ cells [(0x2C, 1, 0xFE), (0x2D, 3, 0xFF)] ((byteAt m 0x2C % 2 == 1) == propose)
    bad fun s seq =>
      if s.switching || s.sw.refused.any (fun x => s.clock.round < x.2) then s.refuse 0x60 seq 6 noOffset 0
      else if propose && s.groupMember && s.group.leader != s.group.index then s.refuse 0x60 seq 6 0x2C 0
      else if propose && (readTimetable img).size != s.group.size && !s.groupMember then s.refuse 0x60 seq 6 0x20 0
      else
        let t := readTimetable img
        after { s with staged := some t, sw.state := 1 } seq t

def execTimetableLoadStage (cells : Bytes) (host : HostImage) (s : State) : Host.Outcome State Fault Refusal :=
  loadEvent s cells host false fun s seq t => s.reply 0x60 seq (toLe 8 t.ident ++ toLe 8 0)

def execTimetableLoadPropose (cells : Bytes) (host : HostImage) (s : State) : Host.Outcome State Fault Refusal :=
  loadEvent s cells host true fun s seq _ => s.propose (some seq)

/-! ### The switch round (R334, R349, R352, R353, R442) -/

/-- A cluster that left service dropped from every window of both images (R334). -/
def State.dropFromWindows (s : State) (cluster : Nat) : State :=
  let cut (t : Timetable) : Timetable :=
    { t with windows := t.windows.map fun w => { w with clusters := w.clusters.filter fun c => c != cluster } }
  { s with active := cut s.active, staged := s.staged.map cut }

/-- Whether a query or a served request of an admitting round in [a, b) is under way. -/
def State.workFrom (s : State) (a b : Nat) : Bool :=
  s.rings.cmds.any (fun c => c.admitted && !c.finished && c.query?.any fun q => a ≤ q.admitRound && q.admitRound < b)
    || s.group.requests.any fun r => a ≤ r.work.admitRound && r.work.admitRound < b

/-- The staged image in force from the round under way: its rounds count from here, and a TIMETABLE_LOAD that asked for
the switch is answered. Windows and plans of earlier images stay for the work admitted under them (R345, R351). -/
def State.switchNow (s : State) : State :=
  match s.staged with
  | none => s
  | some t =>
    let past : Former := { base := s.clock.baseRound, last := s.clock.round, windows := s.active.windows, full := s.active.full, lean := s.active.lean }
    let s1 := { s with active := t, staged := none, former := (past :: s.former).filter (fun f => s.workFrom f.base f.last)
                       clock.baseRound := s.clock.round, clock.baseTick := s.roundTick s.clock.round
                       sw := { s.sw with state := 0, leading := false, msg := none } }
    s1.replyLater 0x60 s.sw.msg (toLe 8 t.ident ++ toLe 8 s.clock.round)

/-- A member enters the group at its switch round: it takes the leader's group time and round number (the time is free: no
rule lets it be computed here, log 2), its MEASURED ports become TIMED, and GROUP_JOIN is answered (R442, R589). -/
def State.joinNow (s : State) (seq : Nat) : State :=
  let leader := s.group.joinLeader == s.group.joinIndex
  let s1 := if leader then s else
    { s with clock.round := s.sw.there, clock.groupTime := Config.freeNat s.free, free := s.free + 1 }
  let s2 := if leader then s1.switchNow else { s1.switchNow with clock.baseTick := s1.clock.groupTime }
  let s3 := { s2 with
    ports := s2.ports.map (fun (p : Port) => if p.state == 3 then { p with state := 4 } else p)
    group := { s2.group with size := s2.group.joinSize, index := s2.group.joinIndex, leader := s2.group.joinLeader, joining := none
                             heard := (List.range s2.group.joinSize).map (fun m => (m, s2.clock.round)), measured := [], lost := []
                             stages := [], orphan := 0, noLeader := 0, brokenPorts := [], brokenFrom := [], upFrom := [] } }
  s3.replyLater 0x61 (some seq) []

/-- The switch at round s: entering a group, a change of its size, or another image (R442). A member that the new size leaves
out runs alone under the default timetable. -/
def State.switchRound (s : State) : State :=
  match s.group.joining, s.staged with
  | some seq, some _ => s.joinNow seq
  | none, some t =>
    if s.groupMember && s.group.index ≥ t.size then
      let s1 := s.switchNow.leaveGroup
      { s1 with active := Timetable.builtin }
    else if s.groupMember then { s.switchNow with group.size := t.size } else s.switchNow
  | _, none => s

end Sys2Proof.Machine
end

