-- ==== Sys2Proof/Machine/Links.lean ====
section
/-!
DEFINITION. Hawser ports, control messages and groups (chapter 12), neighbour lending (chapters 11, 12), and what a broken
route does to queries.
-/

namespace Sys2Proof.Machine

/-! ### Routes (R428, R433, R453, R454) -/

/-- The entry of a slot kind's transfer lists that reserves this module's positions for a flow (R434). -/
def Timetable.entryFor (t : Timetable) (kind src dst inPort : Nat) : Option (List Nat) :=
  (t.slotEntry kind src dst inPort).map (·.2)

/-- Whether this module cannot reach another in slots of a kind: it is lost, its port of the route is not TIMED, or the route
crosses a port announced DOWN. -/
def State.routeCut (s : State) (slot m : Nat) : Bool :=
  if m == s.group.index then false
  else if !s.groupMember || s.group.lost.contains m then true
  else
    match s.active.entryFor slot s.group.index m 255 with
    | none => true
    | some e => (s.ports.map (·.state)).getD (e.getD 4 0) 0 != 4
        || s.group.brokenPorts.any fun b => Config.routeCrosses s.active.ident m b.1 b.2

/-- Whether queries cannot reach a module. -/
def State.unreachable (s : State) (m : Nat) : Bool := s.routeCut 1 m

/-- Windows whose lender's bulk route is lost close at once (R388, R459). -/
def State.cutLoans (s : State) : State := s.closeLoans fun l => l.borrow && s.routeCut 3 l.peer

/-- The modules that hold a partition: one, or two during a move. -/
def Partition.holders (p : Partition) : List Nat := p.holder :: p.move.toList

/-- A list that can no longer come, where another placement answers for its partition, is awaited no more (R452). -/
def Member.forget (m : Member) (out : Nat → Bool) : Member :=
  { m with lists := m.lists.filter fun l => l.done || !out l.holder || !m.lists.any fun x => x.part == l.part && !out x.holder }

/-- The module that a candidate's refinement was asked of; this one where none was asked. -/
def Member.askedOf (m : Member) (here id : Nat) : Nat := ((m.asked.find? fun x => x.1 == id).map (·.2)).getD here

/-- Whether a member's remaining lists, or the answers to its refine requests, must come from a holder out of reach (R454). -/
def Member.cut (m : Member) (here : Nat) (out : Nat → Bool) : Bool :=
  m.status.isNone && (m.lists.any (fun l => !l.done && out l.holder) || m.refLeft.any fun e => out (m.askedOf here e.id))

/-- The placements that answer a query for a partition: both of a move from r_both on, for queries admitted from that round
(R448). -/
def State.answerers (s : State) (coll : Nat) (r : Partition) (admission : Nat) : List Nat :=
  if s.group.moves.any fun x => x.coll == coll && x.part == r.num && x.bothAt.any fun b => b ≤ admission then r.holders else [r.holder]

/-- Whether a query needs a broken route or a lost module. -/
def State.cut (s : State) (q : QueryWork) : Bool := q.members.any fun m => m.cut s.group.index s.unreachable

/-- Queries forget the lists that another placement makes good. -/
def State.forgetLists (s : State) : State :=
  { s with rings.cmds := s.rings.cmds.map fun c => match c.body with
      | .query q => { c with body := .query { q with members := q.members.map fun m => m.forget s.unreachable } }
      | _ => c }

/-- Queries that a broken route or a lost module cuts complete with INTERRUPTED_RETRY and no result list. -/
def State.cutQueries (s : State) : State :=
  s.forgetLists.endAll (fun c => match c.body with
    | .query q => c.admitted && s.forgetLists.cut q
    | _ => false) (.of 2)

/-! ### Port states (R420 to R423, R453, R455) -/

def State.portState (s : State) (p : Nat) : Nat := (s.ports.map (·.state)).getD p 0
def State.updPort (s : State) (p : Nat) (f : Port → Port) : State := { s with ports := updAt p f s.ports }
def State.port (s : State) (p : Nat) : Port := s.ports.getD p Port.down

/-- The record of a port or a cage at fault (R414, R421, R422). -/
def State.portFault (s : State) (kind unit : Nat) : State := s.record { code := 0x0030, severity := 2, unitKind := kind, unit }

/-- Whether a port's cage holds a module that may leave low-power mode (R414). -/
def State.cageGood (s : State) (p : Nat) : Bool :=
  match s.cages[p / 2]? with
  | none => false
  | some c => c.module && c.powerClass ≤ 4 && !c.lowPower

/-- The four lanes of a port in its cage's transmitter disable: set where the port does not transmit (R413). -/
def State.setLanes (s : State) (p : Nat) (on : Bool) : State :=
  let mask := if p % 2 == 0 then 0x0F else 0xF0
  { s with cages := updAt (p / 2) (fun c => { c with txDisable := if on then c.txDisable &&& (255 - mask) else c.txDisable ||| mask }) s.cages }

/-- A port that trains where its lanes are enabled and its module is allowed. -/
def State.train (s : State) (p : Nat) : State :=
  let on := (s.port p).enabled && s.cageGood p && !s.regs.shelter
  (s.updPort p fun x => if on then { x with state := 1, retry := false, hello := false, trips := [], delay := 0 } else { x with state := 0 }).setLanes
    p on

/-- The control slot offset at which a change lies that every module must know in time (R448, R455). -/
def State.safeAt (s : State) : Nat := s.active.hops + 1

/-- A port that goes DOWN: where it was TIMED, PORT_DOWN is announced and its routes break from the next round (R453). -/
def State.portDown (s : State) (p : Nat) : State :=
  let x := s.port p
  let s1 := s.updPort p fun x => { x with state := 0, hello := false, trips := [], delay := 0, lost := 0, nacks := [], kept := [], timedAt := none }
  if x.state == 4 then
    let s2 := s1.announce 0x0F (toLe 2 s.group.index ++ toLe 1 p ++ toLe 2 x.farModule ++ toLe 1 x.farPort)
    { s2 with group.brokenFrom := s2.group.brokenFrom ++ [(s.clock.round + 1, s.group.index, p), (s.clock.round + 1, x.farModule, x.farPort)]
              group.parent := if s2.group.parent == some p then none else s2.group.parent }.cutLoans
  else s1

/-- Every port of the map is MEASURED. -/
def State.allMeasured (s : State) : Bool := s.ports.all fun p => !p.used || p.state ≥ 3

/-- The leader of a group in formation proposes once every module has reported (R441). -/
def State.tryForm (s : State) : State :=
  let others := (List.range s.group.joinSize).filter fun m => m != s.group.joinIndex
  if s.group.joining.isSome && s.group.joinLeader == s.group.joinIndex && s.allMeasured && !s.switching
      && others.all s.group.measured.contains then s.propose none else s

/-- A port that has become MEASURED: in a group it announces PORT_UP with a round; in formation the module reports to the
leader once every port of its map is MEASURED, an untimed report recorded as sent (log 4). -/
def State.onMeasured (s : State) (p : Nat) : State :=
  let x := s.port p
  if s.groupMember && s.group.joining.isNone then
    let at0 := s.clock.round + 1 + s.safeAt
    let s1 := s.announce 0x10 (toLe 2 s.group.index ++ toLe 1 p ++ toLe 2 x.farModule ++ toLe 1 x.farPort ++ zeros 6 ++ toLe 4 s.safeAt)
    { s1.updPort p ({ · with timedAt := some at0 }) with
        group.upFrom := s1.group.upFrom ++ [(at0, s.group.index, p), (at0, x.farModule, x.farPort)] }
  else if s.group.joining.isSome && s.allMeasured then
    if s.group.joinLeader == s.group.joinIndex then s.tryForm
    else { s with group.sent := (p, s.ctrl 0 []) :: s.group.sent }
  else s

/-- Half the round trip averaged over 64 exchanges, once there are so many, in 1/16 ticks (R422). -/
def Port.oneWay (x : Port) : Option Nat := if x.trips.length ≥ 64 then some (x.trips.sum / 128) else none

/-- A LOCKED port with a matching far end and a measured delay of at most 1 µs becomes MEASURED (R421, R422). -/
def State.tryMeasure (s : State) (p : Nat) : State :=
  let x := s.port p
  match x.oneWay with
  | none => s
  | some d =>
    if x.state != 2 then s
    else if x.trips.sum > 128 * 8000 then (s.updPort p ({ · with trips := [] })).portFault 10 p
    else if x.hello then (s.updPort p ({ · with state := 3, delay := d })).onMeasured p
    else s

/-- LINK_HELLO sent on a port, recorded as an output (log 4). -/
def State.sendHello (s : State) (p : Nat) : State :=
  let (index, size) := if s.group.joining.isSome then (s.group.joinIndex, s.group.joinSize) else (s.group.index, s.group.size)
  let c : Ctrl := { type := 1, groupWide := false, origin := index, seq := 0, sent := s.clock.round
                    body := toLe 8 s.group.ident ++ toLe 2 index ++ toLe 1 p ++ toLe 2 size ++ zeros 3, inPort := 255 }
  { s with group.sent := (p, c) :: s.group.sent }

/-- BLOCK_LOCK: a trained port is LOCKED, and LINK_HELLO goes out. -/
def execBlockLock (port : Nat) (s : State) : Host.Outcome State Fault Refusal :=
  event s (port < 8 && s.portState port == 1)
    ((s.updPort port fun x => { x with state := 2, hello := false, trips := [], delay := 0 }).sendHello port)

/-- TRAINING_TIMEOUT: back to DOWN; it trains again after 1 s. -/
def execTrainingTimeout (port : Nat) (s : State) : Host.Outcome State Fault Refusal :=
  event s (port < 8 && s.portState port == 1)
    (s.updPort port fun x => { x with state := 0, retry := true })

def execTrainingRetry (port : Nat) (s : State) : Host.Outcome State Fault Refusal :=
  event s (port < 8 && s.portState port == 0 && (s.port port).retry)
    (s.train port)

/-- BLOCK_LOCK_LOSS: loss of block lock, or more than 16 lost blocks in a round; the port is DOWN and trains again. -/
def execBlockLockLoss (port : Nat) (s : State) : Host.Outcome State Fault Refusal :=
  event s (port < 8 && s.portState port == 4) ((s.portDown port).train port)

/-- LOST_BLOCK: a block at its place in the stream that cannot be corrected, whose sync byte is wrong, or one of whose control flits fails
its CRC: all its flits are lost, and it is reported by nack_seq in the next four blocks (R416, R419, R425). The command names the flits
that its sender put there, which replay may bring again. -/
def execLostBlock (port blockSeq : Nat) (block : Option Bytes) (flits : List Flit) (s : State) : Host.Outcome State Fault Refusal :=
  let s1 := s.updPort port fun x => { x with lost := x.lost + 1, nacks := x.nacks ++ List.replicate 4 blockSeq }
  event s (port < 8 && s.portState port ≥ 2 && blockLost block)
    { s1 with group.lostFlits := s1.group.lostFlits ++ flits.map fun f => ⟨port, blockSeq, f⟩ }

/-- LINK_HELLO: a far end that does not match the port map leaves the port LOCKED and queues a record (R421). -/
def execLinkHello (port : Nat) (group farModule farPort : Nat) (s : State) : Host.Outcome State Fault Refusal :=
  let x := s.port port
  let good := x.used && group == s.group.ident && x.farModule == farModule && x.farPort == farPort
  event s (port < 8 && (s.portState port == 2 || s.portState port == 3))
    (s.settled (if good then (s.updPort port ({ · with hello := true })).tryMeasure port
      else (s.updPort port ({ · with state := 2, hello := false })).portFault 10 port))

/-- The phase correction from the time parent's exchange: at most 0.25 ns, 8/64 of a tick, each round; group time moves by the whole ticks
that the corrections come to (R430). -/
def State.correct (s : State) (port tx arrival : Nat) : State :=
  if s.group.parent == some port then
    let off : Int := 4 * ((tx : Int) + (s.port port).delay - arrival)
    let sum := s.group.phase + max (-8) (min 8 off)
    { s with group.phase := sum % 64, clock.groupTime := (s.clock.groupTime + sum / 64).toNat }
  else s

/-- The round trip of an exchange: from this port's TIME_SYNC to the one that answers it, less the time that the far end held it; none
where the far end has had no TIME_SYNC. -/
def Port.roundTrip (x : Port) (tx rx arrival : Nat) : Option Nat := if rx == 0 then none else some ((arrival + rx) - (x.syncSent + tx))

/-- TIME_SYNC, with the tx_time and rx_time that it carries and the time of its arrival, in 1/16 ticks: the exchange counts toward the
delay, and corrects the phase where the port leads to the time parent. -/
def execTimeSync (port : Nat) (txTime rxTime arrival : Nat) (s : State) : Host.Outcome State Fault Refusal :=
  let s1 := s.updPort port fun x =>
    { x with lastTx := txTime, lastRx := arrival
             trips := (x.trips ++ (x.roundTrip txTime rxTime arrival).toList).drop (x.trips.length + 1 - 64) }
  event s (port < 8 && s.portState port ≥ 2)
    (s.settled ((s1.tryMeasure port).correct port txTime arrival))

/-! ### Losing modules and the leader (R388, R452, R454, R456, R457) -/

/-- A module's own copy of a partition freed; the home module keeps its record of what the partition holds. -/
def State.dropCopy (s : State) (coll part : Nat) : State :=
  let clear (c : Collection) : Collection :=
    if c.home == s.group.index then c.unplace part
    else { c with segs := c.segs.filter (·.part != part), tombs := c.tombs.filter (·.part != part) }
  (s.updColl coll clear).layout

/-- A move given up: A keeps the partition, and an UPKEEP that waits for it is refused. -/
def State.abandonMove (s0 : State) (m : MoveOp) : State :=
  let s := if m.dst == s0.group.index then s0.dropCopy m.coll m.part else s0
  let s1 := s.updColl m.coll fun c =>
    { c with gens := c.gens.map fun g => { g with parts := updWhere (fun p => p.num == m.part) ({ · with move := none }) g.parts } }
  ({ s1 with group.moves := s1.group.moves.filter fun x => !(x.coll == m.coll && x.part == m.part) }).refuseLater 0x23 m.msg 6 noOffset 0

/-- From r_close the partition lies at B alone under the new epoch (R448, step 5). -/
def State.closeEpoch (s : State) (m : MoveOp) : State :=
  (s.updColl m.coll fun c =>
    { c with gens := c.gens.map fun g =>
        { g with parts := updWhere (fun p => p.num == m.part) ({ · with holder := m.dst, epoch := m.epoch, move := none }) g.parts } })

/-- The effect of a module's loss on the moves (R452). -/
def State.loseMoves (s : State) (m : Nat) : State :=
  s.group.moves.foldl (fun s x =>
    let both := x.bothAt.any fun r => r ≤ s.clock.round
    if x.dst == m && !both then s.abandonMove x
    else if x.src == m && both then
      ({ s with group.moves := updWhere (fun y => y.coll == x.coll && y.part == x.part) ({ · with closes := some s.clock.round }) s.group.moves
         }).closeEpoch x
    else s) s

/-- The leader after a loss: the lowest-indexed member still reached, from the next round; a module that becomes leader
sends LEADER (R457). -/
def State.electLeader (s : State) : State :=
  let reach := (List.range s.group.size).filter fun m => !s.group.lost.contains m
  if reach.length ≤ 1 then s
  else match reach.head? with
    | none => s
    | some l =>
      let s1 := { s with group.leaderFrom := some (s.clock.round + 1, l) }
      if l == s.group.index then s1.announce 0x12 (toLe 2 l ++ toLe 4 1) else s1

/-- A member lost to this one (R456). -/
def State.loseModule (s : State) (m : Nat) : State :=
  if m == s.group.index || s.group.lost.contains m then s else
  let s1 := { s with group.lost := m :: s.group.lost, group.stages := s.group.stages.filter fun x => x.1 != m }
  let s2 := (s1.closeLoans fun l => l.peer == m).loseMoves m
  let s3 := if m == s.group.leader then s2.electLeader else s2
  s3.cutQueries

/-- MODULE_LOST: a member's HEARTBEAT has been missing for 24 + h rounds. -/
def execModuleLost (module : Nat) (s : State) : Host.Outcome State Fault Refusal :=
  event s (s.groupMember && module < s.group.size && module != s.group.index && !s.group.lost.contains module
      && s.clock.round > assoc s.group.heard module + 24 + s.active.hops) (s.settled (s.loseModule module))

/-! ### Control messages received (R436, R571) -/

/-- The loan that a LEND message of a peer names. -/
def State.onLend (s : State) (m : Bytes) : State :=
  let kind := byteAt m 0x10
  let window := byteAt m 0x11
  let gib := field m 0x12 2
  let from_ := field m 2 2
  let at0 := field m 8 8 + field m 0x16 4
  if field m 0x14 2 != s.group.index then s
  else match kind with
    | 0 =>
      match s.mem.offers.find? fun o => o.1 == gib && o.2.1 == from_ with
      | some o =>
        let start := s.clock.round + 1 + s.safeAt
        let loan : Loan :=
          { window, gib, peer := from_, borrow := false, opened := false, start := some start, stop := none, msg := none, regions := o.2.2 }
        ({ s with mem.offers := s.mem.offers.erase o, mem.loans := s.mem.loans ++ [loan] }).announce 0x0E
          (toLe 1 1 ++ toLe 1 window ++ toLe 2 gib ++ toLe 2 from_ ++ toLe 4 s.safeAt)
      | none => s
    | 1 =>
      match s.mem.loans.find? fun l => l.borrow && l.peer == from_ && l.window == window && l.start.isNone with
      | none => s
      | some l =>
        let s1 := { s with mem.loans := updWhere (fun x => x.borrow && x.window == window) ({ · with start := some at0, msg := none }) s.mem.loans }
        s1.replyLater 0x62 l.msg (toLe 8 (0x400000000000 + window * 0x4000000000) ++ toLe 8 at0)
    | _ => { s with mem.loans := updWhere (fun x => x.peer == from_ && x.window == window) ({ · with stop := some at0 }) s.mem.loans }

/-- A placement message's move: EPOCH_OPEN begins it, EPOCH_READY sets r_both, EPOCH_CLOSE sets r_close (R448). -/
def State.onEpoch (s : State) (m : Bytes) : State :=
  let coll := field m 0x10 2
  let part := field m 0x12 4
  let epoch := field m 0x16 4
  let holder := field m 0x1A 2
  let at0 := field m 8 8 + field m 0x1C 2
  let is (x : MoveOp) : Bool := x.coll == coll && x.part == part
  match byteAt m 0 with
  | 0x0B =>
    if s.group.moves.any is then { s with group.moves := updWhere is ({ · with opens := at0 }) s.group.moves }
    else { s with group.moves := s.group.moves ++ [{ coll, part, epoch, src := field m 2 2, dst := holder, opens := at0, bothAt := none
                                                     closes := none, copied := false, drain := 0, msg := none, sent := false
                                                     came := false }] }
  | 0x0C => { s with group.moves := updWhere is ({ · with bothAt := some at0, copied := true }) s.group.moves }
  | _ => { s with group.moves := updWhere is ({ · with closes := some at0 }) s.group.moves }

/-- What a received control message does. A BARRIER of a program whose last run here has ended is answered: its cores count as having
reached it (R279, log 101). -/
def State.act (s : State) (m : Bytes) : State :=
  let origin := field m 2 2
  match byteAt m 0 with
  | 0x03 => { s with group.heard := setAssoc s.group.heard origin s.clock.round, group.stages := setAssoc s.group.stages origin (byteAt m 0x10) }
  | 0x04 => s.onPropose m
  | 0x05 => s.onAnswer m true
  | 0x06 => s.onAnswer m false
  | 0x07 => s.onAbort m
  | 0x08 => { s with group.stages := setAssoc s.group.stages origin (byteAt m 0x10) }
  | 0x09 =>
    let h := field m 0x10 4
    let n := field m 0x14 4
    let key (b : Nat × Nat × Nat) : Bool := b.1 == h && b.2.1 == n
    if s.group.barred.any fun b => b.1 == h && b.2 < n then
      ({ s with group.barred := updWhere (fun b => b.1 == h) (fun _ => (h, n)) s.group.barred }).announce 0x09 (toLe 4 h ++ toLe 4 n)
    else if s.group.barriers.any key then { s with group.barriers := updWhere key (fun b => (b.1, b.2.1, b.2.2 + 1)) s.group.barriers }
    else { s with group.barriers := s.group.barriers ++ [(h, n, 1)] }
  | 0x0A => s.onCommit (field m 0x10 2) (field m 0x18 8)
  | 0x0B | 0x0C | 0x0D => s.onEpoch m
  | 0x0E => s.onLend m
  | 0x0F => { s with group.brokenFrom := s.group.brokenFrom ++ [(s.clock.round + 1, field m 0x10 2, byteAt m 0x12), (s.clock.round + 1, field m 0x13 2, byteAt m 0x15)] }
  | 0x10 =>
    let at0 := field m 8 8 + field m 0x1C 4
    let near := fun (x : Port) => x.farModule == field m 0x10 2 && x.farPort == byteAt m 0x12 && x.state == 3
    { s with group.upFrom := s.group.upFrom ++ [(at0, field m 0x10 2, byteAt m 0x12), (at0, field m 0x13 2, byteAt m 0x15)]
             ports := updWhere near ({ · with timedAt := some at0 }) s.ports }
  | 0x11 => s.loseModule (field m 0x10 2)
  | 0x12 => { s with group.leaderFrom := some (field m 8 8 + field m 0x12 4, field m 0x10 2) }
  | _ => s

/-- A group-wide message: a copy already seen is discarded; otherwise it is put in line for the next control slot on every
other TIMED port, and acted on, or held while the fabric service restarts (up to 4,096; HEARTBEAT is the hardware's). -/
def State.receive (s : State) (port : Nat) (m : Bytes) : State :=
  let origin := field m 2 2
  let seq := field m 4 4
  let wide := byteAt m 1 % 2 == 1
  if wide && s.group.seen.contains (origin, seq) then s
  else
    let c : Ctrl := { type := byteAt m 0, groupWide := wide, origin, seq, sent := field m 8 8, body := slice m 0x10 16, inPort := port }
    let s1 := if wide then { s with group.seen := (origin, seq) :: s.group.seen, group.toSend := s.group.toSend ++ [c] } else s
    if s1.compUp Component.fabric || byteAt m 0 == 3 then s1.act m
    else if s1.group.heldMsgs.length < 4096 then { s1 with group.heldMsgs := s1.group.heldMsgs ++ [(port, m)] } else s1

/-- The row of a control message: 32 bytes of the row's type that came in a control flit whose CRC holds, on a TIMED port. While a group
forms, the messages of its first switch come untimed on MEASURED ports (R441, log 38). -/
def ctrlEvent (s : State) (type port : Nat) (msg : Bytes) : Host.Outcome State Fault Refusal :=
  event s (port < 8 && msg.length == 32 && byteAt msg 0 == type
      && (s.portState port == 4 || (s.portState port == 3 && s.group.joining.isSome && 4 ≤ type && type ≤ 7))) (s.settled (s.receive port msg))

def execHeartbeat (port : Nat) (msg : Bytes) (s : State) : Host.Outcome State Fault Refusal := ctrlEvent s 0x03 port msg
def execSwitchPropose (port : Nat) (msg : Bytes) (s : State) : Host.Outcome State Fault Refusal := ctrlEvent s 0x04 port msg
def execSwitchAccept (port : Nat) (msg : Bytes) (s : State) : Host.Outcome State Fault Refusal := ctrlEvent s 0x05 port msg
def execSwitchRefuse (port : Nat) (msg : Bytes) (s : State) : Host.Outcome State Fault Refusal := ctrlEvent s 0x06 port msg
def execSwitchAbort (port : Nat) (msg : Bytes) (s : State) : Host.Outcome State Fault Refusal := ctrlEvent s 0x07 port msg
def execShedStage (port : Nat) (msg : Bytes) (s : State) : Host.Outcome State Fault Refusal := ctrlEvent s 0x08 port msg
def execBarrier (port : Nat) (msg : Bytes) (s : State) : Host.Outcome State Fault Refusal := ctrlEvent s 0x09 port msg
def execCommit (port : Nat) (msg : Bytes) (s : State) : Host.Outcome State Fault Refusal := ctrlEvent s 0x0A port msg
def execEpochOpen (port : Nat) (msg : Bytes) (s : State) : Host.Outcome State Fault Refusal := ctrlEvent s 0x0B port msg
def execEpochReady (port : Nat) (msg : Bytes) (s : State) : Host.Outcome State Fault Refusal := ctrlEvent s 0x0C port msg
def execEpochClose (port : Nat) (msg : Bytes) (s : State) : Host.Outcome State Fault Refusal := ctrlEvent s 0x0D port msg
def execLend (port : Nat) (msg : Bytes) (s : State) : Host.Outcome State Fault Refusal := ctrlEvent s 0x0E port msg
def execPortDown (port : Nat) (msg : Bytes) (s : State) : Host.Outcome State Fault Refusal := ctrlEvent s 0x0F port msg
def execPortUp (port : Nat) (msg : Bytes) (s : State) : Host.Outcome State Fault Refusal := ctrlEvent s 0x10 port msg
def execLeave (port : Nat) (msg : Bytes) (s : State) : Host.Outcome State Fault Refusal := ctrlEvent s 0x11 port msg
def execLeader (port : Nat) (msg : Bytes) (s : State) : Host.Outcome State Fault Refusal := ctrlEvent s 0x12 port msg

/-- PLACEMENT_COPY_DONE at B: what the partition holds has been written here, and EPOCH_READY goes out with r_both, unless either side
sheds at stage 2 (R448, R451). -/
def execPlacementCopyDone (coll part : Nat) (s : State) : Host.Outcome State Fault Refusal :=
  match s.group.moves.find? fun x => x.coll == coll && x.part == part with
  | none => .next s
  | some x =>
    let at0 := s.clock.round + 1 + s.safeAt
    let s1 := { s with group.moves := updWhere (fun y => y.coll == coll && y.part == part) ({ · with copied := true, bothAt := some at0 }) s.group.moves }
    event s (x.dst == s.group.index && x.opens ≤ s.clock.round && x.came && !x.copied && s.power.applied < 2 && assoc s.group.stages x.src < 2
        && s.compUp Component.fabric)
      (s1.layout.announce 0x0C (toLe 2 coll ++ toLe 4 part ++ toLe 4 x.epoch ++ toLe 2 x.dst ++ toLe 2 s.safeAt))

/-! ### Leaving (R432, R458) -/

def execTimeParentTimeout (s : State) : Host.Outcome State Fault Refusal :=
  event s (s.groupMember && s.group.parent.isNone && s.group.leader != s.group.index && s.group.orphan ≥ 64) (s.settled s.leaveGroup.cutQueries)

def execLeaderSearchTimeout (s : State) : Host.Outcome State Fault Refusal :=
  event s (s.groupMember && s.group.noLeader ≥ 64) (s.settled s.leaveGroup.cutQueries)

/-! ### Forming a group (R439 to R442) -/

/-- A port map entry of a GROUP_JOIN. -/
def mapEntry (m : Bytes) (i : Nat) : Nat × Nat × Nat := (field m (0x30 + 4 * i) 2, byteAt m (0x32 + 4 * i), byteAt m (0x33 + 4 * i))

/-- GROUP_JOIN: admission stops and the mapped ports are enabled for training. The message carries no timetable_id, so the
staged image is checked for its size and flags (log 38). Bits [7:1] of an entry's used byte and the far module and port of an unused entry
are taken as reserved, which the layout does not say: DESIGN CHOICE (log 111). -/
def execGroupJoin (cells : Bytes) (_host : HostImage) (s : State) : Host.Outcome State Fault Refusal :=
  let m := msgBytes cells
  let size := field m 0x28 2
  let bad := fieldAt ([(size < 2 || size > 512, 0x28), (field m 0x2A 2 ≥ size, 0x2A), (field m 0x2C 2 ≥ size, 0x2C)]
    ++ (List.range 8).flatMap fun i =>
      let e := mapEntry m i
      [(e.2.2 == 1 && e.1 ≥ size, 0x30 + 4 * i), (e.2.2 == 1 && e.2.1 > 7, 0x32 + 4 * i)])
  let unusedMap := (List.range 8).flatMap fun i => (0x33 + 4 * i, 1, 0xFE) ::
    (if (mapEntry m i).2.2 == 0 then [(0x30 + 4 * i, 3, 0xFF)] else [])
  messageEvent s ⟨0x61, 0x50, Component.fabric, false⟩ cells ((0x2E, 2, 0xFF) :: unusedMap) true bad fun s seq =>
    let ready := s.staged.any fun t => t.size == size && !t.single
    if s.groupMember || s.group.joining.isSome || !ready || s.switching then s.refuse 0x61 seq 6 noOffset 0
    else
      let conf (i : Nat) (x : Port) : Port :=
        let e := mapEntry m i
        { x with used := e.2.2 == 1, enabled := e.2.2 == 1, farModule := e.1, farPort := e.2.1 }
      let s1 : State :=
        { s with group := { s.group with joining := some seq, joinSize := size, joinIndex := field m 0x2A 2, joinLeader := field m 0x2C 2
                                         ident := field m 0x20 8, measured := [] }
                 ports := ((List.range s.ports.length).zip s.ports).map fun x => conf x.1 x.2 }
      -- a port that is already up is held to the new map from LOCKED on (R421)
      let s2 := { s1 with ports := s1.ports.map fun (p : Port) => if p.state ≥ 2 then { p with state := 2, hello := false, trips := [], delay := 0 } else p }
      (List.range 8).foldl (fun s p => if s.portState p == 0 then s.train p else if s.portState p == 2 then s.sendHello p else s) s2

/-- PORTS_MEASURED_REPORT at the leader. -/
def execPortsMeasuredReport (port : Nat) (msg : Bytes) (s : State) : Host.Outcome State Fault Refusal :=
  event s (port < 8 && s.portState port ≥ 2 && s.group.joining.isSome && s.group.joinLeader == s.group.joinIndex && msg.length == 32
      && field msg 2 2 < s.group.joinSize)
    ({ s with group.measured := field msg 2 2 :: s.group.measured.filter fun m => m != field msg 2 2 }).tryForm

/-- GROUP_FORMATION_TIMEOUT: GROUP_JOIN is refused, and the previous timetable goes on (R441). The ports of the map go DOWN
with their lanes disabled (log 38). -/
def execGroupFormationTimeout (s : State) : Host.Outcome State Fault Refusal :=
  match s.group.joining with
  | none => .next s
  | some seq =>
    let s1 := { s with group.joining := none
                       ports := s.ports.map fun (p : Port) => { p with state := 0, enabled := false, used := false, retry := false }
                       cages := s.cages.map fun (c : Cage) => { c with txDisable := 255 } }
    event s (!s.switching) (s1.refuseLater 0x61 (some seq) 6 noOffset 0)

/-! ### Lending (R385, R386, R388, R459) -/

/-- GiB that this module lends and offers, and GiB that it borrows. -/
def State.lentGib (s : State) : Nat :=
  sumBy (fun o : Nat × Nat × List Nat => o.1) s.mem.offers + sumBy (fun l : Loan => if l.borrow then 0 else l.gib) s.mem.loans
def State.borrowedGib (s : State) : Nat := sumBy (fun l : Loan => if l.borrow then l.gib else 0) s.mem.loans

/-- The LEND_MEMORY rows: kind, fields and membership. The refusal codes are the model's choice (log 35). -/
def lendEvent (s : State) (cells : Bytes) (kind : Nat) (reserved : List (Nat × Nat × Nat)) (run : State → Nat → Nat → Nat → Nat → State) :
    Host.Outcome State Fault Refusal :=
  let m := msgBytes cells
  let gib := field m 0x22 2
  let bad := fieldAt [(byteAt m 0x20 > 2, 0x20), (kind != 0 && byteAt m 0x21 > 15, 0x21), (kind != 2 && (gib == 0 || gib > 256), 0x22)]
  messageEvent s ⟨0x62, 0x30, Component.fabric, false⟩ cells ((0x26, 10, 0xFF) :: if byteAt m 0x20 > 2 then [] else reserved)
    (byteAt m 0x20 == kind || (kind == 0 && byteAt m 0x20 > 2)) bad fun s seq =>
    let peer := field m 0x24 2
    if !s.groupMember || peer ≥ s.group.size || peer == s.group.index then s.refuse 0x62 seq 6 0x24 0
    else run s seq (byteAt m 0x21) gib peer

/-- Offer: a spread region, zeroed, is lent to whom the peer field names once it asks (R385). An offer's window and an end's gib, which
those kinds do not use, are taken as reserved: DESIGN CHOICE (log 111). -/
def execLendMemoryOffer (cells : Bytes) (_host : HostImage) (s : State) : Host.Outcome State Fault Refusal :=
  lendEvent s cells 0 [(0x21, 1, 0xFF)] fun s seq _ gib peer =>
    match if s.lentGib + gib > 256 then none else (s.freeRun gib).bind fun r => (State.openRun gib r s).map fun s1 => (s1, r) with
    | none => s.refuse 0x62 seq 7 noOffset 0
    | some (s1, r) =>
      let l := (List.range gib).map (r + ·)
      State.reply { s1.zeroRegions l with mem.offers := s1.mem.offers ++ [(gib, peer, l)] } 0x62 seq (zeros 16)

/-- Borrow: a LEND request goes out; the message is answered by the grant (R386). -/
def execLendMemoryBorrow (cells : Bytes) (_host : HostImage) (s : State) : Host.Outcome State Fault Refusal :=
  lendEvent s cells 1 [] fun s seq window gib peer =>
    let loan : Loan := { window, gib, peer, borrow := true, opened := false, start := none, stop := none, msg := some seq, regions := [] }
    let s1 := { s with mem.loans := s.mem.loans ++ [loan] }
    if s.mem.loans.any fun l => l.borrow && l.window == window then s.refuse 0x62 seq 6 0x21 0
    else if s1.borrowedGib > 256 then s.refuse 0x62 seq 7 0x22 0
    else s1.announce 0x0E (toLe 1 0 ++ toLe 1 window ++ toLe 2 gib ++ toLe 2 peer)

/-- End: LEND end goes out with the round at which the loan closes (R388). -/
def execLendMemoryEnd (cells : Bytes) (_host : HostImage) (s : State) : Host.Outcome State Fault Refusal :=
  lendEvent s cells 2 [(0x22, 2, 0xFF)] fun s seq window _ peer =>
    match s.mem.loans.find? fun l => l.window == window && l.peer == peer with
    | none => s.refuse 0x62 seq 6 0x21 0
    | some l =>
      let at0 := s.clock.round + 1 + s.safeAt
      let s1 := { s with mem.loans := updWhere (fun x => x.window == window && x.peer == peer) ({ · with stop := some at0 }) s.mem.loans }
      (s1.announce 0x0E (toLe 1 2 ++ toLe 1 window ++ toLe 2 l.gib ++ toLe 2 peer ++ toLe 4 s.safeAt)).reply 0x62 seq
        (toLe 8 (if l.borrow then 0x400000000000 + window * 0x4000000000 else 0) ++ toLe 8 at0)

/-- LEND_WINDOW_CLOSE: the loan's closing round has come. -/
def execLendWindowClose (window : Nat) (s : State) : Host.Outcome State Fault Refusal :=
  let is (l : Loan) : Bool := l.window == window && l.stop.any fun r => r ≤ s.clock.round
  event s (s.mem.loans.any is) (s.closeLoans is)

/-! ### Cages (R413, R414, R422) -/

/-- CAGE_MODULE_INSERTED: the module's memory map is read, and its low-power control, transmitter disable and Application Select are written
(R413); which application the spec does not say: free (log 2). -/
def execCageModuleInserted (cage : Nat) (info : CageInfo) (s : State) : Host.Outcome State Fault Refusal :=
  let low := info.powerClass > 4 || s.regs.shelter
  let new : Cage :=
    { module := true, ident := info.ident, powerClass := info.powerClass, lanes := info.lanes, temp := info.temp, txPower := info.txPower
      rxPower := info.rxPower, txDisable := 255, appSelect := Config.freeNat s.free % 16, lowPower := low }
  let s1 := { s.draw 1 with cages := updAt cage (fun _ => new) s.cages }
  event s (cage < 4 && !((s.cages.map (·.module)).getD cage true))
    (s.settled (if info.powerClass > 4 then s1.portFault 11 cage else (s1.train (2 * cage)).train (2 * cage + 1)))

/-- CAGE_MODULE_REMOVED: its TIMED ports go DOWN. -/
def execCageModuleRemoved (cage : Nat) (s : State) : Host.Outcome State Fault Refusal :=
  let s1 := (s.portDown (2 * cage)).portDown (2 * cage + 1)
  event s (cage < 4 && (s.cages.map (·.module)).getD cage false)
    ((({ s1 with cages := updAt cage (fun _ => Cage.empty) s1.cages }.endRecovery (10, 2 * cage)).endRecovery (10, 2 * cage + 1)).endRecovery
      (11, cage))

/-- CMIS_HIGH_ALARM: low-power mode, its ports DOWN, and a record (chapter 18, Thermal limits). -/
def execCmisHighAlarm (cage : Nat) (s : State) : Host.Outcome State Fault Refusal :=
  let s1 := (s.portDown (2 * cage)).portDown (2 * cage + 1)
  event s (cage < 4 && (s.cages.map (·.module)).getD cage false)
    (s.settled ({ s1 with cages := updAt cage ({ · with lowPower := true, txDisable := 255 }) s1.cages }.portFault 11 cage))

end Sys2Proof.Machine
end

