-- ==== Sys2Proof/Machine/Registers.lean ====
section
/-!
DEFINITION. The setup registers and the doorbell watcher (chapters 13 and 14), MSI-X pending messages, host reads that
fail, PTM captures, and the SMBus writes of chapter 20.
-/

namespace Sys2Proof.Machine

/-! ### Writes of BAR0 (R468 to R475) -/

/-- Bits [46:12] of a page address register; the others are reserved. -/
def pageMask (v : Nat) : BitVec 64 := BitVec.ofNat 64 (bits v 46 12 * 4096)

/-- The fields of HIF_ADMIN_RING: cq_vector, cq_size, sq_size. -/
def adminMask (v : Nat) : BitVec 32 := BitVec.ofNat 32 (v % 2 ^ 32) &&& 0x00FF0F0F

/-- The page address registers' offsets. -/
def pageOffsets : List Nat := [0x020, 0x028, 0x030, 0x038, 0x040]

def Regs.page (r : Regs) (off : Nat) : BitVec 64 :=
  match off with
  | 0x020 => r.doorbell
  | 0x028 => r.mboxTo
  | 0x030 => r.mboxFrom
  | 0x038 => r.adminSq
  | _ => r.adminCq

def Regs.setPage (r : Regs) (off : Nat) (v : BitVec 64) : Regs :=
  match off with
  | 0x020 => { r with doorbell := v }
  | 0x028 => { r with mboxTo := v }
  | 0x030 => { r with mboxFrom := v }
  | 0x038 => { r with adminSq := v }
  | _ => { r with adminCq := v }

/-- The value that a write of an upper half gives a page register, with the lower half held before it, or the present
one where none is held (R470). -/
def Regs.joined (r : Regs) (off upper : Nat) : BitVec 64 :=
  let low := ((r.held.find? fun h => h.1 == off).map (·.2.toNat)).getD ((r.page off).toNat % 2 ^ 32)
  pageMask (upper % 2 ^ 32 * 2 ^ 32 + low)

/-- Whether a write would change a locked field (R475). The lower half of a 64-bit register changes nothing by itself. -/
def State.locksOut (s : State) (off width value : Nat) : Bool :=
  s.hostPathRuns && (
    (width == 8 && pageOffsets.contains off && pageMask value != s.regs.page off)
    || (width == 4 && pageOffsets.contains (off - 4) && s.regs.joined (off - 4) value != s.regs.page (off - 4))
    || (off == 0x048 && adminMask value != s.regs.adminRing))

/-- The admin ring pair stops: ring 0 fetches nothing more, and admin_ready clears. Its outstanding commands still
complete to completion ring 0. -/
def State.stopAdmin (s : State) : State :=
  { s.updSq 0 fun r => { r with stopped := true } with regs.adminReady := false }

/-- A write of admin_enable (R476): 1 starts the pair of a tethered device unless it is live, and stays pending while
untethered; 0 stops it. -/
def State.setAdmin (s : State) (on : Bool) : State :=
  let s1 := { s with regs.adminEnable := on }
  if !on then s1.stopAdmin else if s.regs.untethered || s.regs.adminReady then s1 else s1.startAdmin

/-- A write of HIF_CONTROL: the shadow of sleep_enable, detach, then admin_enable. -/
def State.writeControl (s : State) (v : Nat) : State :=
  let s1 := { s with regs.sleepShadow := some (v.testBit 1) }
  let s2 := if v.testBit 2 then s1.untether 2 else s1
  s2.setAdmin (v.testBit 0)

/-- watch_interval and PTM period as they are taken: the nearer bound of 1 to 1,000, and 1 for 0. -/
def clampWatch (v : Nat) : Nat := max 1 (min 1000 v)
def clampPeriod (v : Nat) : Nat := max 1 v

/-- A 32-bit word written to a setup register, or to half of a 64-bit one, that no lock keeps. A lower half is held
until the upper half is written (R470). -/
def State.writeWord (s : State) (off w : Nat) : State :=
  if pageOffsets.contains off then
    { s with regs.held := (off, BitVec.ofNat 32 w) :: s.regs.held.filter fun h => h.1 != off }
  else if pageOffsets.contains (off - 4) && off ≥ 4 then
    let r := s.regs.setPage (off - 4) (s.regs.joined (off - 4) w)
    { s with regs := { r with held := r.held.filter fun h => h.1 != off - 4 } }
  else match off with
    | 0x00C => s.writeControl w
    | 0x010 => { s with regs.errLog := s.regs.errLog &&& ~~~ (BitVec.ofNat 4 w) }
    | 0x018 => s.wakeWatcher
    | 0x01C => { s with regs.watchWritten := w % 1024, regs.watchShadow := some (clampWatch (w % 1024)) }
    | 0x048 => { s with regs.adminRing := adminMask w }
    | 0x050 => { s with regs.scratch := BitVec.ofNat 32 w }
    | 0x060 =>
      { s with regs.ptmCapture := w.testBit 0, regs.ptmWritten := bits w 15 8, regs.ptmShadow := some (clampPeriod (bits w 15 8)) }
    | _ => s

/-- A word written to the MSI-X table: address, upper address, data, and the mask bit of Vector Control. -/
def State.writeMsix (s : State) (off w : Nat) : State :=
  let v := off / 16
  let k := off % 16 / 4
  if k == 3 then { s with msix.masked := s.msix.masked.set v (w.testBit 0) }
  else
    let e := (s.msix.table.getD v 0).toNat
    let e2 := e - bits e (32 * k + 31) (32 * k) * 2 ^ (32 * k) + w % 2 ^ 32 * 2 ^ (32 * k)
    { s with msix.table := s.msix.table.set v (BitVec.ofNat 96 e2) }

/-- A word written to BAR0; reserved offsets and the pending bit array take no write (R468). -/
def State.writeBar0 (s : State) (off w : Nat) : State :=
  if off < 0x78 then s.writeWord off w
  else if 0x8000 ≤ off && off < 0x8400 then s.writeMsix (off - 0x8000) w else s

/-- A register write: ignored and logged where it is narrow or misaligned (R469) or would change a locked field (R475);
else applied. -/
def State.writeRegister (s : State) (off width value : Nat) : State :=
  if !(width == 4 || width == 8) || off % width != 0 then s.errorLog 1 off
  else if s.locksOut off width value then (s.errorLog 0 off).raise { code := 0x0001, severity := 0, address := off }
  else if width == 8 && pageOffsets.contains off then
    let r := s.regs.setPage off (pageMask value)
    { s with regs := { r with held := r.held.filter fun h => h.1 != off } }
  else
    let s1 := s.writeBar0 off (value % 2 ^ 32)
    if width == 8 then s1.writeBar0 (off + 4) (value / 2 ^ 32 % 2 ^ 32) else s1

/-- Whether a memory request of the host reaches BAR0: the link is up, the function is in D0 with Memory Space Enable set,
and no FLR is under way (R480). -/
def State.decodesBar0 (s : State) : Bool := s.pcie.linkUp && s.pcie.memSpace && !s.pcie.d3hot && !s.pcie.flrBusy

def execRegisterWrite (offset width value : Nat) (s : State) : Host.Outcome State Fault Refusal :=
  event s s.decodesBar0 (s.writeRegister offset width value)

/-- DETACH: a write of 1 to HIF_CONTROL.detach; the register's other fields are written with their present values. -/
def execDetach (s : State) : Host.Outcome State Fault Refusal :=
  event s s.decodesBar0 (s.untether 2)

def execAdminEnable (value : BitVec 32) (s : State) : Host.Outcome State Fault Refusal :=
  event s s.decodesBar0 (s.writeRegister 0x00C 4 value.toNat)

def execNudge (value : BitVec 32) (s : State) : Host.Outcome State Fault Refusal :=
  event s s.decodesBar0 (s.writeRegister 0x018 4 value.toNat)

/-- STAGED_FIELD_BOUNDARY: the field's block applies the shadow (R471, R472). -/
def execStagedFieldBoundary (field : StagedField) (s : State) : Host.Outcome State Fault Refusal :=
  match field with
  | .sleepEnable => event s s.regs.sleepShadow.isSome
      { s with regs.sleepEnable := s.regs.sleepShadow.getD s.regs.sleepEnable, regs.sleepShadow := none }
  | .watchInterval => event s s.regs.watchShadow.isSome
      { s with regs.watch := s.regs.watchShadow.getD s.regs.watch, regs.watchShadow := none }
  | .ptmPeriod => event s s.regs.ptmShadow.isSome
      { s with regs.ptmPeriod := s.regs.ptmShadow.getD s.regs.ptmPeriod, regs.ptmShadow := none }

/-! ### MSI-X and PTM (R479, R487) -/

/-- MSIX_PENDING_SEND: a vector's sending conditions hold again, so its pending message goes. -/
def execMsixPendingSend (vector : Nat) (s : State) : Host.Outcome State Fault Refusal :=
  event s (s.msix.pend.getD vector false && s.msixReady vector)
    { s with msix.pend := s.msix.pend.set vector false, msix.sent := vector :: s.msix.sent }

/-- The shadow of the PTM period applied at its boundary, the next capture (R471). -/
def Regs.applyPeriod (r : Regs) : Regs := { r with ptmPeriod := r.ptmShadow.getD r.ptmPeriod, ptmShadow := none }

/-- The shadows of sleep_enable and watch_interval applied at their boundary, the end of a watch interval (R471). -/
def Regs.applyWatch (r : Regs) : Regs :=
  { r with sleepEnable := r.sleepShadow.getD r.sleepEnable, sleepShadow := none, watch := r.watchShadow.getD r.watch, watchShadow := none }

/-- PTM_CAPTURE: a dialogue's pair, published under HIF_PTM_SEQ, which rises before and after (R487). Group time is in
1/16 ticks; the model's clock counts whole ticks, so the fraction is free (log 2). -/
def execPtmCapture (hostTime : BitVec 64) (s : State) : Host.Outcome State Fault Refusal :=
  event s (s.regs.ptmCapture && s.pcie.ptmEnable && s.pcie.linkUp && !s.pcie.d3hot)
    { s with
      regs := { s.regs.applyPeriod with
        ptmSeq := s.regs.ptmSeq + 2
        ptmGroup := BitVec.ofNat 64 (16 * s.clock.groupTime + Config.freeNat s.free % 16)
        ptmHost := hostTime }
      free := s.free + 1 }

/-- COMPLETION_COALESCE_TIMEOUT: the oldest unsignalled entry has waited coalesce_time (R498). -/
def execCompletionCoalesceTimeout (cq : Nat) (s : State) : Host.Outcome State Fault Refusal :=
  match s.cq? cq with
  | none => .next s
  | some q =>
    let s1 := (s.advance (q.since + 500 * q.time)).updCq cq fun x => { x with unsignalled := 0 }
    event s (q.unsignalled > 0 && s.compUp Component.ringService) (s1.signal q.vector)

/-! ### Host reads that fail, internal errors of the port (R466, R467) -/

/-- A ring or page read that failed: logged, with one record for the run (R466). -/
def State.pageReadFailed (s : State) (a : Nat) : State :=
  let s1 := s.errorLog 3 0
  if s1.mail.readFailed.contains a then s1
  else ({ s1 with mail.readFailed := a :: s1.mail.readFailed }).raise { code := 0x0002, severity := 1, address := a }

/-- Whether the device reads host memory for a command (R537): the structures of one not yet admitted, the data of a STORE_WRITE, and
what a MOVE_TENSOR or a program's transfer reads in T4. -/
def State.readsHost (s : State) (c : Cmd) : Bool :=
  !c.unreachable && c.held.isNone && match c.body with
    | .query _ | .mutation _ => !c.admitted
    | .store w => decide (w.kind = .write)
    | .move m => !m.started || m.src.tier == 4
    | .run _ => !c.admitted || s.comp.runs.any fun r => r.why.serves c.cid && r.moves.any fun t => !t.scan && t.src.tier == 4
    | _ => false

/-- A command's data read that failed: a record with the bus address, and MEDIUM_ERROR. A STORE_WRITE keeps the sectors that it had
issued and a MOVE_TENSOR the bytes that it had written, how many is free (log 2); a program stops once its other transfers are done. -/
def State.commandReadFailed (s : State) (c : Cmd) (a : Nat) : State :=
  let s1 := s.raise { code := 0x0002, severity := 1, address := a, tag := c.hdr.tag, ring := c.ring
                      collection := match c.body with
                        | .query _ | .mutation _ => c.hdr.collection
                        | _ => 0xFFFF }
  match c.body with
  | .store w =>
    let n := if c.admitted then Config.freeNat s1.free % w.count else 0
    ((s1.storeApply w n true).draw 1).complete c.cid (.of 8)
  | .move m =>
    if !m.started then s1.complete c.cid (.of 8) else
    let (s2, n) := s1.moveStop m (freeHost s1.free m.src) true
    s2.complete c.cid { Result.of 8 with b := n }
  | .run _ =>
    (s1.comp.runs.filter fun r => r.why.serves c.cid).foldl (fun s r =>
      (s.updRun r.rid fun r => { r with medium := true, moves := r.moves.filter fun t => t.scan || t.src.tier != 4 }).settleRun r.rid) s1
  | _ => (s1.dropWork c).complete c.cid (.of 8)

def execHostReadFailed (read : HostRead) (address : Nat) (s : State) : Host.Outcome State Fault Refusal :=
  let asks := s.pcie.busMaster && !s.pcie.d3hot
  match read with
  | .command cid => match s.cmd? cid with
    | none => .next s
    | some c => event s (asks && s.readsHost c) (s.commandReadFailed c address)
  | .ring num => match s.sq? num with
    | none => .next s
    | some r => event s (asks && r.base ≤ address && address < r.base + 128 * r.size)
        (s.pageReadFailed address)
  | .doorbellPage =>
    event s (asks && s.regs.doorbell != 0 && s.regs.doorbell.toNat ≤ address && address < s.regs.doorbell.toNat + 4096) (s.pageReadFailed address)
  | .mailboxPage =>
    event s (asks && s.regs.mboxTo != 0 && s.regs.mboxTo.toNat ≤ address && address < s.regs.mboxTo.toNat + 4096) (s.pageReadFailed address)

/-- HOST_PORT_INTERNAL_ERROR: the AER status, and a record of the PCIe port. -/
def execHostPortInternalError (s : State) : Host.Outcome State Fault Refusal :=
  .next ({ s with pcie.aerInternal := true }.raise { code := 0x0002, severity := 1, unitKind := 12 })

/-- PME_STATUS_CLEAR: WAKE# is deasserted (R690). -/
def execPmeStatusClear (s : State) : Host.Outcome State Fault Refusal :=
  event s s.pcie.pmeStatus { s with pcie.pmeStatus := false, pcie.wake := false }

/-! ### The doorbell watcher (R503 to R506, R575, R579, R712) -/

/-- A u32 of the doorbell page. -/
def State.doorbellWord (s : State) (h : HostImage) (off : Nat) : Nat := field (hostRead h (s.regs.doorbell.toNat + off) 4) 0 4

/-- The record of an inconsistent word; its unit is the ring (R504). -/
def State.badDoorbell (s : State) (ring : Nat) : State := s.record { code := 0x0003, severity := 1, unit := ring }

/-- The tail word of a live ring read: taken, or ignored with one record for each run of invalid values. -/
def State.watchTail (h : HostImage) (s : State) (r : SubRing) : State :=
  let w := s.doorbellWord h (4 * r.num)
  if r.stopped then s
  else if w ≥ r.size then
    let s1 := s.updSq r.num fun x => { x with badWord := true }
    if r.badWord then s1 else s1.badDoorbell r.num
  else s.updSq r.num fun x => { x with tail := w, badWord := false }

/-- The head word of a completion ring read: entries before it are freed. -/
def State.watchHead (h : HostImage) (s : State) (q : CmpRing) : State :=
  let w := s.doorbellWord h (0x400 + 4 * q.num)
  if w ≥ q.size then
    let s1 := s.updCq q.num fun x => { x with badWord := true }
    if q.badWord then s1 else s1.badDoorbell q.num
  else s.updCq q.num fun x => { x with head := w, used := x.used - (w + q.size - q.head) % q.size, badWord := false }

/-- The mailbox words read while tethered (R712). -/
def State.watchMail (s : State) (h : HostImage) : State :=
  let t := s.doorbellWord h 0x800
  let f := s.doorbellWord h 0x804
  let bad := t ≥ 4032 || f ≥ 4032 || cellsUsed t s.mail.toHead > 63
    || cellsUsed f s.mail.fromHead > cellsUsed s.mail.fromTail s.mail.fromHead
  if bad then
    let s1 := { s with mail.badWord := true }
    if s.mail.badWord then s1 else s1.badDoorbell 0
  else { s with mail.toTail := t, mail.fromHead := f, mail.badWord := false }.flushMail

/-- Whether the watcher of an untethered device reads the mailbox words (R579). -/
def State.hears (s : State) : Bool :=
  s.regs.doorbell != 0 && s.regs.mboxTo != 0 && s.regs.mboxFrom != 0 && s.pcie.busMaster

/-- The to_dev_tail word read while untethered; 0 ends the wait after a refused HELLO. -/
def State.watchUntethered (s : State) (h : HostImage) : State :=
  let t := s.doorbellWord h 0x800
  { s with mail := { s.mail with toTail := t, refused := s.mail.refused && t != 0 } }

/-- An arbiter that found nothing to grant begins a new cycle with the next doorbell (R509, log 24). -/
def State.restArbiter (s : State) : State :=
  if (s.nextGrant (s.eligible 0)).isSome then s
  else { s with rings.cls := 0, rings.left := s.rings.nextWeights.getD 0 1, rings.weights := s.rings.nextWeights, rings.batch := none }

/-- Every word that the watcher reads, read once. -/
def State.readWords (s : State) (h : HostImage) : State :=
  let s0 := s.readOk s.regs.doorbell.toNat 4096
  let s1 := s0.restArbiter
  if s.regs.untethered then s0.watchUntethered h
  else ((s1.rings.cqs.foldl (State.watchHead h) (s1.rings.sqs.foldl (State.watchTail h) s1))).watchMail h

/-- What the watched words gave last. -/
def State.watched (s : State) : List Nat × List Nat × Nat × Nat :=
  (s.rings.sqs.map (·.tail), s.rings.cqs.map (·.head), s.mail.toTail, s.mail.fromHead)

/-- Whether the watcher may read the doorbell page. -/
def State.mayWatch (s : State) : Bool :=
  (s.regs.ready || s.regs.shelter) && !s.pcie.d3hot && s.pcie.busMaster && s.regs.doorbell != 0
    && (!s.regs.untethered || s.hears)

/-- DOORBELL_WATCH: an interval of the awake watcher ends, and the words are read. -/
def execDoorbellWatch (host : HostImage) (s : State) : Host.Outcome State Fault Refusal :=
  let s1 := s.readWords host
  let idle := if s1.watched == s.watched then min 1000 (s.rings.idle + 1) else 0
  event s (s.mayWatch && !s.regs.asleep)
    (s.settled { s1 with rings.idle := idle, regs := s1.regs.applyWatch })

/-- The latency tolerance that the device reports, in ns, for snooped and unsnooped requests alike: 2 µs while a command is outstanding
or the watcher is awake, and 1 ms while it is asleep (R485). -/
def State.ltr (s : State) : Nat := if s.regs.asleep && s.rings.cmds.isEmpty then 1000000 else 2000

/-- The kinds of request that the device makes of the host (R464). -/
inductive HostRequest where
  | descriptorRead | dataRead | pageRead | resultWrite | entryWrite | mailboxWrite | message
  deriving DecidableEq, Repr

/-- The Relaxed Ordering attribute of a request: on descriptor reads and result-data writes while it is enabled, on no completion entry,
mailbox write or MSI-X message; on other reads it is free (R464, log 2). -/
def State.relaxedOrdering (s : State) (k : HostRequest) : Bool :=
  s.pcie.relaxed && match k with
    | .descriptorRead | .resultWrite => true
    | .entryWrite | .mailboxWrite | .message => false
    | .dataRead | .pageRead => (Config.freeByte s.free 0).getLsbD 0

/-- Bytes that one write and one read request carry at most: the values programmed, within what the device supports (R463). -/
def State.payloadMax (s : State) : Nat := min 512 (128 * 2 ^ s.pcie.maxPayload)
def State.readMax (s : State) : Nat := min 4096 (128 * 2 ^ s.pcie.maxRead)

/-- Reads that may be outstanding at once (R463). -/
def State.readTags (s : State) : Nat := if s.pcie.tenBit then 768 else 256

/-- WATCHER_SLEEP: asleep is set, every word is read once more, and a change keeps the watcher awake (R505). Its idle
intervals count anew from the next time that it is awake. -/
def execWatcherSleep (host : HostImage) (s : State) : Host.Outcome State Fault Refusal :=
  let s1 := s.readWords host
  let same := s1.watched == s.watched
  event s (s.mayWatch && !s.regs.asleep && s.regs.sleepEnable && s.rings.cmds.isEmpty && s.mail.awaiting.isEmpty
      && s.rings.idle ≥ 1000)
    (s.settled { s1 with regs.asleep := same, rings.idle := 0 })

/-! ### SMBus writes (R694 to R701) -/

/-- SMB_CAP_WRITE: the board cap from the next ledger loop, or cap_refused. -/
def execSmbCapWrite (value : BitVec 16) (pecGood : Bool) (s : State) : Host.Outcome State Fault Refusal :=
  let w := value.toNat
  let good := 250 ≤ w && w ≤ 600 && w % 25 == 0
  event s s.power.v33
    (if !pecGood then s
     else if good then { s with power.capNext := some w } else { s with power.capRefused := true })

/-- SMBUS_WRITE_WORD: a 1 in bit 8 of SMB_STATUS clears cap_refused; every other register ignores a write. -/
def execSmbusWriteWord (code : Nat) (value : BitVec 16) (pecGood : Bool) (s : State) : Host.Outcome State Fault Refusal :=
  event s (s.power.v33 && code != 0x09)
    (if pecGood && code == 0x02 && value.getLsbD 8 then { s with power.capRefused := false } else s)

end Sys2Proof.Machine
end

