-- ==== Sys2Proof/Machine/Reset.lean ====
section
/-!
DEFINITION. Resets and start-up: the host-facing resets and power states (chapter 13), the end of a run at PERST#, power
loss or an internal restart (chapters 18, 11), start-up's steps (chapter 18), journal replay and the recovery report
(chapters 6, 11, 19).
-/

namespace Sys2Proof.Machine

/-! ### FLR, hot reset, D3hot, Bus Master Enable (R480 to R484) -/

/-- An FLR, or what acts as one: untethered, configuration space and setup registers as at reset, MSI-X cleared; the
AER status is sticky (R482). -/
def State.flrWith (s : State) (cause resetCause : Nat) : State :=
  let s1 := s.untether cause
  let keep := s1.regs
  { s1 with
    pcie := { Pcie.initial with linkUp := s1.pcie.linkUp, rate := s1.pcie.rate, width := s1.pcie.width, flrBusy := true
                                aerInternal := s1.pcie.aerInternal }
    regs := { Regs.initial with step := keep.step, ready := keep.ready, untethered := keep.untethered, shelter := keep.shelter
                                adminReady := keep.adminReady, asleep := keep.asleep, fwVersion := keep.fwVersion
                                cause := BitVec.ofNat 8 resetCause }
    msix := { Msix.initial with sent := s1.msix.sent }
    mail := { s1.mail with readFailed := [] } }

def execFlr (s : State) : Host.Outcome State Fault Refusal :=
  event s (s.pcie.linkUp && !s.pcie.flrBusy) (s.flrWith 3 3)

/-- FLR_COMPLETION: configuration requests are answered normally again (R480). -/
def execFlrCompletion (s : State) : Host.Outcome State Fault Refusal :=
  event s s.pcie.flrBusy { s with pcie.flrBusy := false }

/-- HOT_RESET: a hot reset or a link-down event acts as an FLR (R483); the link trains again. -/
def execHotReset (s : State) : Host.Outcome State Fault Refusal :=
  event s s.pcie.linkUp { s.flrWith 4 4 with pcie.linkUp := false }

def execD3hotEntry (s : State) : Host.Outcome State Fault Refusal :=
  event s (s.pcie.linkUp && !s.pcie.d3hot)
    { s.untether 5 with pcie.d3hot := true }

/-- D0_RETURN: No_Soft_Reset keeps configuration space and registers; WAKE# is deasserted (R484, R690). -/
def execD0Return (s : State) : Host.Outcome State Fault Refusal :=
  event s s.pcie.d3hot { s with pcie.d3hot := false, pcie.wake := false }

def execBusMasterEnableClear (s : State) : Host.Outcome State Fault Refusal :=
  event s s.pcie.busMaster { s.untether 6 with pcie.busMaster := false }

/-- LINK_UP: the link reaches L0, and host software has written the configuration bits [0] Memory Space Enable, [1] Bus Master Enable, [2]
MSI-X Enable, [3] Function Mask, [4] Enable Relaxed Ordering, [5] PTM Enable, [8:6] Max_Payload_Size, [11:9] Max_Read_Request_Size, [12]
10-Bit Tag Requester Enable. Clearing Bus Master Enable so untethers as R483 states; while an FLR is under way the writes are retried, not
made (R480). -/
def execLinkUp (rate width : Nat) (cfg : BitVec 16) (s : State) : Host.Outcome State Fault Refusal :=
  let s1 := if s.pcie.busMaster && !cfg.getLsbD 1 then s.untether 6 else s
  let p := { s1.pcie with linkUp := true, rate := rate, width := width }
  let q := if s.pcie.flrBusy then p else
    { p with memSpace := cfg.getLsbD 0, busMaster := cfg.getLsbD 1, msixEnable := cfg.getLsbD 2, funcMask := cfg.getLsbD 3
             relaxed := cfg.getLsbD 4, ptmEnable := cfg.getLsbD 5, maxPayload := bits cfg.toNat 8 6, maxRead := bits cfg.toNat 11 9
             tenBit := cfg.getLsbD 12 }
  event s (s.power.v12 && s.power.v33 && !s.power.perst && !s.power.hold && rate ≥ 1 && rate ≤ 5 && [1, 2, 4, 8].contains width)
    { (if s.pcie.flrBusy then s else s1) with pcie := q }

/-! ### The end of a run (R185, R397, R407, R643, R686, R711) -/

/-- Sectors of an atomic unit of a write (R397). -/
def State.unitSectors (s : State) : Nat := if s.atomicLimit == 262144 then 64 else 1

/-- A report entry of a command, before replay. -/
def Cmd.leftover (c : Cmd) (kind batch id : Nat) (listed : Bool) : ReportEntry :=
  { kind, ring := c.ring, coll := if kind == 0 then c.hdr.collection else 0, tag := c.hdr.tag, batch, committed := 0
    seq := if kind == 0 then 0xFFFFFFFFFFFFFFFF else 0, first := 0, count := 0, units := 0, trimmed := 0, bitmap := []
    mutationId := id, listed }

/-- A store command's entry in the report, where it had issued a sector: which of its sectors are new (R397, R407). -/
def State.storeReport (s : State) (c : Cmd) (w : StoreWork) (new : List Nat) : List ReportEntry :=
  let u := s.unitSectors
  let whole (i : Nat) : Bool := (List.range (min u (w.count - i * u))).all fun j => new.contains (i * u + j)
  if new.isEmpty then []
  else match w.kind with
  | .read => []
  | .write => [{ c.leftover 1 0 0 true with first := w.first, count := w.count, units := u
                                            bitmap := (List.range (ceilDiv w.count u)).filter whole }]
  | .trim => [{ c.leftover 2 0 0 true with first := w.first, count := w.count, trimmed := new.length }]

/-- Sectors that a store command had applied when it ended and its entry had still to be posted (R567). -/
def State.appliedBy (s : State) (c : Cmd) : Nat :=
  ((s.rings.waiting.find? fun x => x.1 == c.cid).map fun x => if x.2.status ≤ 1 then x.2.b else 0).getD 0

/-- A store command cut by the end of a run. Which sectors it had issued is open (log 2), those of a trim from the first on (R687);
flash programs in flight complete (R185), so an issued sector is new unless its atomic unit lacks another (R397). -/
def State.cutStore (s : State) (c : Cmd) (w : StoreWork) : State × List ReportEntry :=
  if !c.admitted then (s, [])
  else if c.finished then (s, s.storeReport c w (List.range (min w.count (s.appliedBy c))))
  else match w.kind with
  | .read => (s, [])
  | .write =>
    let u := s.unitSectors
    let issued := (List.range w.count).filter fun i => (Config.freeByte s.free i).getLsbD 0
    let whole (i : Nat) : Bool := (List.range (min u (w.count - i * u))).all fun j => issued.contains (i * u + j)
    let new := (List.range (ceilDiv w.count u)).filter whole
    (new.foldl (fun s i => s.tierWrite 3 ((w.first + i * u) * 4096) ((w.data.drop (i * u * 4096)).take (u * 4096))) (s.draw 1),
      s.storeReport c w issued)
  | .trim =>
    let n := Config.freeNat s.free % (w.count + 1)
    ((s.draw 1).storeApply w n false, s.storeReport c w (List.range n))

/-- Whether the sector of the host area that holds a byte is among those a cut transfer had issued: each is or is not, as a whole
(R185, log 2). -/
def issuedSector (n a : Nat) : Bool := (Config.freeByte n (a / 4096)).getLsbD 0

/-- A MOVE_TENSOR into the host area cut by the end of a run: the sectors that it had issued are there. -/
def State.cutMove (s : State) (m : MoveWork) : State :=
  if m.started && m.dst.tier == 3 && !s.moveFails m then
    let rows := rowBytesOf (s.moveRows m (freeHost s.free m.src))
    (s.draw 2).writeBytes 3 (rows.filter fun x => issuedSector (s.free + 1) x.1)
  else s

/-- A program's transfer into the host area cut so. -/
def State.cutTransfer (s : State) (r : Run) (t : Transfer) : State :=
  match t.src.fmt?, t.dst.fmt? with
  | some f, some g =>
    if t.scan || t.dst.rsv3 == 1 || t.dst.tier != 3 || s.transferFails r t f g then s
    else
      let whole := s.carryOut r t f g (freeHost s.free t.src)
      let places := (readRows t.dst g t.extent t.dstOrigin).flatMap fun x => (List.range x.2).map (x.1 + ·)
      let kept := places.filter (issuedSector (s.free + 1))
      { s.draw 2 with store.host := kept.foldl (fun m a => Mem.put m a (Mem.get whole.store.host a)) s.store.host }
  | _, _ => s

/-- Every program's transfers cut. -/
def State.cutRuns (s : State) : State := s.comp.runs.foldl (fun s r => r.moves.foldl (fun s t => s.cutTransfer r t) s) s

/-- What the commands under way leave for the recovery report, in fetch order (R686), and the sectors that change. A command that
ended while its entry waited (R567) is cut no more; a mutation that so ended without a commit is no longer under way. -/
def State.cutCommands (s : State) : List Cmd → State × List ReportEntry
  | [] => (s, [])
  | c :: r =>
    let (s1, e) := match c.body with
      | .mutation m => (s, if c.finished && m.committed.isNone then [] else [c.leftover 0 m.entries.length m.mutationId (m.issued > 0)])
      | .store w => s.cutStore c w
      | .move m => (if c.finished then s else s.cutMove m, [])
      | _ => (s, [])
    let (s2, l) := s1.cutCommands r
    (s2, e ++ l)

/-- Mutations that shelter mode abandoned (R659, R686). -/
def abandonedEntries (j : List Journal) : List ReportEntry :=
  (j.filter fun x => x.kind == 5).map fun x =>
    { kind := 0, ring := x.ring, coll := x.coll, tag := x.tag, batch := x.batch, committed := 0, seq := 0xFFFFFFFFFFFFFFFF, first := 0
      count := 0, units := 0, trimmed := 0, bitmap := [], mutationId := x.mutationId, listed := true }

/-- A collection as its durable image holds it: committed contents, persistent keys, and the block of payload counters used
up (R166). Nothing of it lies in T1 until it is loaded (R408); a drop under way is cancelled (R714). -/
def Collection.durable (c : Collection) : Collection :=
  { c with
    gens := c.gens.map (fun g => { g with parts := g.parts.map (fun p => { p with move := none, addr := 0 }), bookAddr := 0 })
    segs := (c.segs.filter fun g => g.seq.isSome).map (fun g => { g with addr := 0, refArray := 0 }), chunks := []
    tombs := c.tombs.filter (fun t => t.seq.isSome)
    superseded := [], load := .loading, permille := 0, copyBack := false
    keys := (c.keys.filter (·.persistent)).map ({ · with withdrawn := false })
    payloadCtr := c.payloadBlock, upkeep := [], eligible := [], dropMsg := none, destroying := [], homeFloor := c.homeFloor }

/-- Issued flash programs are completed, with the journal parts among them (R185). -/
def State.finishFlash (s : State) : State :=
  { s with store.journal := s.store.journal.map (fun j => { j with onMedium := true }) }

/-- A splice entry as the HBM repair map and the retirement list hold it. -/
def keptSplices (l : List Splice) : List Splice := (l.filter fun x => x.state == 3 && !x.back).map ({ · with msg := none, ppr := none, maint := 0 })

/-- What survives every reset that ends a run: the durable image of the store and the collections, configuration records,
firmware slots, and the always-on domain (chapter 18, Resets). Nothing else does. -/
def State.durable (s : State) : State :=
  { State.reset with
    pending := s.pending
    rings := { Rings.initial with nextCid := s.rings.nextCid, nextAdmit := s.rings.nextAdmit }
    tether := { Tether.initial with attach := s.tether.attach }
    host := s.host
    msix := { Msix.initial with sent := s.msix.sent }
    errors := { s.errors with depths := [], pages := [], coreWords := [], shelterCause := 0 }
    mem := { Memory.initial with regionBase := s.mem.regionBase, regionGib := s.mem.regionGib, retired := s.mem.retired
                                 splices := keptSplices s.mem.splices, lanesSpare := s.mem.lanesSpare, pprUsed := s.mem.pprUsed }
    store := { s.store with convMsg := none, sanMsg := none, formatting := none, relocate := [] }
    colls := s.colls.map Collection.durable
    cages := s.cages.map (fun c => { c with lowPower := c.powerClass > 4 })
    keys := { s.keys with seed := none, imports := [], nextImport := 1, log := [], sealCtr := s.keys.sealBlock, session := none }
    fw := { Firmware.initial with running := s.fw.running, compat := s.fw.compat, staged := s.fw.staged, atReset := s.fw.atReset
                                  report := s.fw.report, lastCause := s.fw.lastCause, abandoned := s.fw.abandoned, records := s.fw.records }
    power := s.power
    comp := { Compute.initial with defective := s.comp.defective }
    free := s.free }

/-- The end of a run, or of a start-up: flash programs in flight finish, what the commands leave is noted for the next
report, and everything but what survives is gone. The cause is noted where a run ends (R685). -/
def State.endRun (s : State) (cause : Nat) : State :=
  let (s1, l) := s.finishFlash.cutRuns.cutCommands s.rings.cmds
  let s2 := if s.regs.ready then
    { s1 with fw.lastCause := cause, fw.abandoned := abandonedEntries s1.store.journal ++ l } else s1
  s2.durable

/-- The error queue emptied, as power-on and PERST# do (R655). -/
def State.clearErrors (s : State) : State := { s with errors := Errors.initial, tether := Tether.initial }

/-- The registers' reset values with a cause. -/
def State.resetCause (s : State) (n : Nat) : State := { s with regs := { Regs.initial with cause := BitVec.ofNat 8 n } }

/-- One more start-up counted in record 0x0013 (R604). -/
def State.countBoot (s : State) : State := { s with keys.bootCount := (s.keys.bootCount + 1) % 2 ^ 32 }

/-- PERST_ASSERT (R643, R645). -/
def execPerstAssert (s : State) : Host.Outcome State Fault Refusal :=
  let s1 := ((s.endRun 1).clearErrors.resetCause 2).countBoot
  event s (!s.power.perst)
    (if s.power.v12 && s.power.v33 then { s1 with power := { s1.power with perst := true, hold := false } }
     else { s with power.perst := true })

/-- PERST_DEASSERT: start-up begins at step 1 once power is good (R646). -/
def execPerstDeassert (s : State) : Host.Outcome State Fault Refusal :=
  event s s.power.perst { s with power.perst := false }

/-- The SMBus registers of a card whose 12 V is absent (R727). -/
def Power.unpowered (p : Power) : Power :=
  { p with v12 := false, hold := false, statusReg := 0x0012, ceilingReg := 0, temps := [-32768, -32768, -32768, -32768] }

/-- Power lost with a cause for the next report (R638). -/
def State.losePower (s : State) (cause : Nat) : State :=
  let s1 := (s.endRun cause).clearErrors.resetCause 1
  { s1 with power := s1.power.unpowered }

def execPowerLoss (s : State) : Host.Outcome State Fault Refusal :=
  event s s.power.v12 (s.losePower 0)

/-- THERMAL_CUT_OFF: as power loss, and off until 12 V is removed and restored (R641). -/
def execThermalCutOff (die : Nat) (s : State) : Host.Outcome State Fault Refusal :=
  let s1 := s.losePower 3
  event s (s.power.v12 && die < 2) { s1 with power.cutOff := true }

/-- POWER_GOOD: power-on. The SMBus registers and the always-on domain's state start anew; the pins stay as they are
(R646, R701). -/
def execPowerGood (s : State) : Host.Outcome State Fault Refusal :=
  let p := { Power.initial with v12 := true, v33 := true, perst := s.power.perst, pwrbrk := s.power.pwrbrk, capDefault := s.power.capDefault }
  event s (!s.power.v12 || !s.power.v33)
    { s.countBoot with power := p, regs := { Regs.initial with cause := 1 } }

/-- Whether the lodge and the gatehouse have power. -/
def State.alwaysOn (s : State) : Bool := s.power.v12 && s.power.v33 && !s.power.perst && !s.power.hold

/-! ### An internal restart (R644, R662, R711) -/

/-- The lodge restarts everything except the always-on domain and the PCIe port: configuration space, the MSI-X table and
the pending bits are kept, and start-up begins at step 2; shelter mode persists. -/
def State.internalRestart (s : State) : State :=
  let s1 := (s.endRun 2).resetCause 5
  { s1 with
    pcie := s.pcie
    msix := s.msix
    regs := { s1.regs with step := 2, shelter := s.regs.shelter }
    errors := { s1.errors with shelterCause := s.errors.shelterCause } }

/-! ### Start-up (R646 to R650, chapter 19's table of step failures) -/

/-- Start-up runs: power is good, PERST# is deasserted, nothing holds it, and shelter mode has not stopped it. -/
def State.starting (s : State) : Bool :=
  s.power.v12 && s.power.v33 && !s.power.perst && !s.power.hold && !s.regs.ready && !s.regs.shelter && s.regs.step ≤ 6

/-- The sense ceiling of the 12V-2x6 pins, open or grounded (R628). -/
def senseCeiling (open0 open1 : Bool) : Nat :=
  match open0, open1 with
  | false, false => 600
  | true, false => 500
  | false, true => 350
  | true, true => 200

/-- A step that failed, or passed its maximum: the Fatal record, and shelter mode (R648). -/
def State.failStep (s : State) : State := s.raise { code := 0x0043, severity := 3, address := s.regs.step }

/-- The event code of a boot measurement, by its place (R600, R602). -/
def bootEvent (i : Nat) : Nat :=
  if i == 0 then 1 else if i == 1 then 2 else if i == 2 then 4 else if i < 12 then 3 else 5

/-- Step 2: measured boot. A staged image arranged for this start-up becomes the running one (R594). -/
def State.bootStep (s : State) (r : StartReport) : State :=
  let v := r.fwVersion
  let now := s.fw.staged.filter fun x => s.fw.atReset && x.1 == v
  let log := ((List.range r.measured.length).zip r.measured).map fun x =>
    ({ event := bootEvent x.1, comp := x.2.component, version := x.2.version, digest := x.2.digest } : LogEntry)
  { s with
    regs.fwVersion := BitVec.ofNat 24 (v / 65536 * 256 + v % 256)
    regs.step := 3
    keys.log := log.take 512
    fw := { s.fw with running := v, atReset := false, staged := if now.isSome then none else s.fw.staged
                      compat := (now.map (·.2.1)).getD s.fw.compat } }

/-- A cap that a record may give: 250 to 600 W in steps of 25 W; else the shipped 450 W. -/
def legalCap (w : Nat) : Nat := if 250 ≤ w && w ≤ 600 && w % 25 == 0 then w else 450

/-- The default cap: that of record 0x0020. An empty body, as shipped and as POWER_CAP writes it, stands for the value
beside it (log 12). -/
def State.defaultCap (s : State) : Nat :=
  match (s.fw.records.find? fun r => r.num == 0x0020).bind CfgRecord.inForce with
  | none => 450
  | some x => if x.2.isEmpty then s.power.capDefault else legalCap (Config.capOfRecord x.2)

/-- The driver region's size in GiB: that of record 0x0021 (R370). -/
def State.defaultRegion (s : State) : Nat :=
  match (s.fw.records.find? fun r => r.num == 0x0021).bind CfgRecord.inForce with
  | none => 8
  | some x => if x.2.isEmpty then 8 else max 1 (min 64 (Config.regionOfRecord x.2))

/-- Clusters out of service: fewer than 64 good cores of their 68 (R21). -/
def outOf (defective : List (Nat × Nat)) : List Nat :=
  (List.range 64).filter fun c => (distinct ((defective.filter fun d => d.1 == c).map (·.2))).length > 4

/-- The enabled cores of each cluster, as start-up builds them from the core repair map: 64 that are not defective, and none of a
cluster out of service (R20). Which good cores stay spare is the device's choice: the model takes the highest (log 14). -/
def coresOf (defective : List (Nat × Nat)) : List (List Nat) :=
  (List.range 64).map fun c =>
    let good := (List.range 68).filter fun k => !defective.contains (c, k)
    if good.length < 64 then [] else good.take 64

/-- An operator record without a valid copy is rewritten with the shipped default (R676). -/
def State.defaultRecords (s : State) : State :=
  (s.fw.records.filter fun r => r.inForce.isNone).foldl (fun s r =>
    ({ s with fw.records := updWhere (fun x => x.num == r.num) (fun x => { x with validA := true, bodyA := [], seqA := max x.seqA x.seqB + 1 }) s.fw.records
              power.capDefault := if r.num == 0x0020 then 450 else s.power.capDefault
      }).record { code := 0x0045, severity := 2, address := r.num }) s

/-- A Karulo-owned record has no valid copy, so step 3 fails (R676). -/
def State.recordsFail (s : State) : Bool := s.fw.records.any fun r => karuloRecords.contains r.num && r.inForce.isNone

/-- Step 3: configuration records loaded (R597, R20), and the driver region reserved in spread regions (R370, R375). -/
def State.recordStep (s : State) : State :=
  let s1 := s.defaultRecords
  let gib := s1.defaultRegion
  let s2 := (State.openRun gib (s1.mem.regionBase / 2 ^ 30) { s1 with mem.regions := [] }).getD s1
  { s2 with
    keys.seed := some Config.pufSeed
    power.cap := s1.defaultCap, power.capNext := none, power.capReg := s1.defaultCap, power.capDefault := s1.defaultCap
    mem.regionGib := gib
    comp.out := outOf s1.comp.defective, comp.enabled := coresOf s1.comp.defective
    regs.step := 4 }

/-- A core that fails the short self-test of step 4 is mapped out (R20, R663). -/
def State.testStep (s : State) (bad : List (Nat × Nat)) : State :=
  let d := s.comp.defective ++ bad.filter fun x => !s.comp.defective.contains x
  { s with comp.defective := d, comp.out := outOf d, comp.enabled := coresOf d, regs.step := 5 }

/-! ### Journal replay (R186, R403 to R406) -/

/-- A journal entry as a batch entry, for the lookups of its ID. -/
def JEntry.asEntry (e : JEntry) : MutEntry := { id := e.id, attr := e.attr, vec := none, payload := none, record := none }

/-- The slot of an INSERT entry written anew: its full vector and its payload record lie in the index area already, its partition
and its code are computed again (R176, R177). A full vector that cosine left all zeros is zero-norm (R145). -/
def Collection.placeStored (c : Collection) (g : Generation) (attr : Nat) (x : Slot) : NewSlot :=
  let zero := c.metric == 3 && x.full.all fun v => v == 0
  let k8 := c.k8Of x.full
  let part := c.assign g zero k8
  let centroid := ((g.part? part).map (·.centroid)).getD []
  { part, kind := if zero then .zeroNorm else .insert, slot := { x with code := c.encodeSlot g centroid k8, attr } }

/-- What journal entries write at replay, uncommitted (R186). -/
def Collection.replayWrites (c : Collection) (kind : Nat) (entries : List JEntry) : Collection :=
  match c.gens.find? fun g => g.num == c.lastGen with
  | none => c
  | some g =>
    let es := entries.map JEntry.asEntry
    let c1 := { c with tombs := c.tombs ++ c.tombLive 0 g.num (c.liveIds es) }
    let last := (laterSame es).zip entries
    match kind with
    | 0 => c1.writeSlots 0 g.num none (last.filterMap fun x => x.2.stored.map fun k => { c.placeStored g x.2.attr k with dead := x.1 })
    | 1 => c1
    | _ => c1.writeSlots 0 g.num none (last.filterMap fun x => if x.1 then none else c.movedSlot x.2.asEntry)

/-- The entries of the consecutive parts from the first that are on the medium: programmed, and their part_crc holds (R404). -/
def partsFrom (l : List Journal) : Nat → Nat → List JEntry
  | 0, _ => []
  | fuel + 1, i => match l.find? fun j => j.index == i && j.onMedium && j.crcGood with
    | none => []
    | some j => j.entries ++ partsFrom l fuel (i + 1)

/-- A mutation's report entry after replay: how many of its entries are committed, and at which sequence. -/
def State.replayNote (s : State) (id n seq : Nat) : State :=
  { s with fw.abandoned := s.fw.abandoned.map fun e => if e.kind == 0 && e.mutationId == id then { e with committed := n, seq } else e }

/-- The commit of a mutation's entries at replay, at the next sequence of its collection; its report entry says so. -/
def State.replayCommit (s : State) (coll id kind : Nat) (entries : List JEntry) : State :=
  match s.coll? coll with
  | none => s
  | some c =>
    let c1 := ((c.replayWrites kind entries).tag 0 (c.latest + 1)).nextSeq 0
    (s.updColl coll fun _ => c1).replayNote id entries.length (c.latest + 1)

/-- Every mutation of the same collection and ring that was fetched before one, and had not completed, is committed in
full (R186). -/
def State.clearBefore (s : State) (j : Journal) : Bool :=
  s.fw.abandoned.all fun e => !(e.kind == 0 && e.coll == j.coll && e.ring == j.ring && e.mutationId < j.mutationId)
    || e.committed == e.batch

/-- The mutation had committed before the run ended: its last part's sequence is one that the collection holds. -/
def State.hadCommitted (s : State) (j : Journal) : Bool := j.seq != 0 && (s.coll? j.coll).any fun c => j.seq ≤ c.latest

/-- Replay of one mutation's parts: the first pass commits those whose last part is on the medium, the second the
prefixes that R186 allows; nothing of one that an abandon part cancels (R403). -/
def State.replayOne (s : State) (second : Bool) (id : Nat) : State :=
  let l := s.store.journal.filter fun j => j.mutationId == id && j.onMedium && j.crcGood
  match l.find? fun j => j.kind < 3 with
  | none => s
  | some j =>
    if j.done || l.any fun x => x.kind == 5 then s
    else
      let entries := partsFrom l l.length 0
      match l.find? fun x => x.last with
      | some x =>
        if second then s
        else if s.hadCommitted x then s.replayNote id x.batch x.seq else s.replayCommit j.coll id j.kind entries
      | none =>
        if second && !j.atomic && !entries.isEmpty && s.clearBefore j then s.replayCommit j.coll id j.kind entries else s

/-- The parts that a read at replay found to fail their part_crc (R404). -/
def State.badParts (s : State) (l : List (Nat × Nat)) : State :=
  { s with store.journal := updWhere (fun j => l.contains (j.mutationId, j.index)) (fun j => { j with crcGood := false }) s.store.journal }

/-- A part that fails part_crc while later parts hold (chapter 19, the table of step failures). -/
def brokenJournal : List Journal → Bool
  | [] => false
  | j :: r => (!j.crcGood && r.any (·.crcGood)) || brokenJournal r

/-- Mutations that replay found on the journal and committed. -/
def State.replayCount (s : State) : Nat :=
  (distinct ((s.store.journal.filter fun j => j.kind < 3 && j.crcGood && (j.last || j.done)).map (·.mutationId))).length

/-- Step 6: the journal replayed in ascending mutation_id, the latest sequences fixed as the only admissible snapshots
(R409), and the recovery report placed (R685). -/
def State.replay (s : State) : State :=
  let ids := sortNats (s.store.journal.map (·.mutationId))
  let s1 := ids.foldl (State.replayOne · false) s
  let s2 := ids.foldl (State.replayOne · true) s1
  let kept := (s2.fw.abandoned.filter (·.listed))
  let prefixes := (s2.fw.abandoned.filter fun e => e.kind == 0 && e.committed > 0 && e.committed < e.batch).length
  let rep : Report := { cause := s.fw.lastCause, boot := s.keys.bootCount, replayed := s.replayCount + prefixes, entries := kept }
  ({ s2 with store.journal := [], colls := s2.colls.map (fun (c : Collection) => { c with mountSeq := c.latest, superseded := [] })
             fw.report := some rep, fw.abandoned := [] }).record { code := 0x0050, severity := 0 }

/-- READY: the default timetable, round 0 of a group of one, and stage 0 from every source but R629's, the sensors' and
PWRBRK#'s (R650). -/
def State.becomeReady (s : State) : State :=
  let s1 := { s with
    regs := { s.regs with ready := true, step := 7 }
    clock := Clock.initial, active := Timetable.builtin, staged := none
    power := { s.power with voltage := 0, capStage := 0, over2 := 0, over5 := 0, under := 0, announced := 0, leanPlan := false } }
  let s2 := if s1.ceiling < 250 then { s1 with power.capStage := 5 } else s1
  { s2 with power.applied := s2.shed, power.leanPlan := s2.shed ≥ 4 }

/-- STARTUP_STEP_END: the step in progress ends as reported. A failed step 2 stays at step 2 (R601). -/
def execStartupStepEnd (report : StartReport) (s : State) : Host.Outcome State Fault Refusal :=
  let ok := s.starting
  let s1 : State :=
    match s.regs.step with
    | 1 => { s with power.sense := senseCeiling report.sense0Open report.sense1Open, power.senseLow := none, regs.step := 2 }
    | 2 => if report.passed then s.bootStep report else s
    | 3 =>
      if s.recordsFail then s.failStep
      else if report.passed then s.recordStep else s.raise { code := 0x0042, severity := 3, unitKind := 3 }
    | 4 =>
      let s2 := s.testStep report.badCores
      if report.passed && s2.comp.out.length ≤ 32 then s2 else s.failStep
    | 5 => if report.passed then { s with regs.step := 6 } else s.failStep
    | _ =>
      let s2 := s.badParts report.badParts
      if !report.passed then s.failStep
      else if s.store.sanitise.isSome then ({ s with store.journal := [], fw.abandoned := [] }).becomeReady
      else if brokenJournal s2.store.journal then s2.failStep
      else s2.replay.becomeReady
  event s ok s1

def execStartupStepTimeout (s : State) : Host.Outcome State Fault Refusal :=
  event s s.starting s.failStep

/-- STARTUP_HOLD (R649). -/
def execStartupHold (s : State) : Host.Outcome State Fault Refusal :=
  let s1 := (s.endRun 0).resetCause 6
  event s s.starting { s1 with power := { s1.power with hold := true } }

/-- HOLD_INPUT_RECOVERED: start-up begins again at step 1. -/
def execHoldInputRecovered (s : State) : Host.Outcome State Fault Refusal :=
  event s s.power.hold { s with power.hold := false }

end Sys2Proof.Machine
end

