-- ==== Sys2Proof/Machine/Firmware.lean ====
section
/-!
DEFINITION. Firmware processors and components (chapter 16): failures, restarts and what becomes of the work they own,
the watchdogs of the lodge and the gatehouse, FW_STAGE and FW_ACTIVATE, and the end of recovery periods (chapter 19).
-/

namespace Sys2Proof.Machine

/-! ### What a component owns (chapter 16's component table) -/

/-- Whether a component owns a command. -/
def Cmd.ownedBy (c : Cmd) (k : Nat) : Bool :=
  c.held.isNone && !c.finished && match c.body with
    | .fence _ => k == Component.ringService
    | .store _ => c.admitted && (k == Component.store0 || k == Component.store1)
    | .move m => m.started && k == Component.memory
    | .run _ => k == Component.loader
    | .mutation m =>
      if c.admitted then k == Component.store0 && m.committed.isNone else k == Component.ingest && decide (m.kind = .embed)
    | _ => false

/-- Whether a failure of the owner ends a command with INTERRUPTED_RETRY (R563): not an admitted mutation that has issued a
journal part (R565). -/
def Cmd.interrupted (c : Cmd) (k : Nat) : Bool :=
  c.ownedBy k && match c.body with
    | .mutation m => !c.admitted || m.issued == 0
    | _ => true

/-- Whether a component owns commands or messages, so that an activation waits for it (R593). -/
def State.busy (s : State) (k : Nat) : Bool := s.rings.cmds.any (Cmd.ownedBy · k) || s.mail.awaiting.any fun a => a.owner == k

/-! ### A component stops -/

/-- A store command cut by a restart (R566): each sector of a write or trim holds its old or its new content, and of a
read's destination each byte its old or its new value, as free values give (log 2). -/
def State.cutSectors (s : State) (w : StoreWork) (reach : Bool) : State :=
  let s1 := s.draw 1
  match w.kind with
  | .read =>
    let part := freePart s.free (rowBytesOf [(w.dataAddr, Mem.read s.store.host (w.first * 4096) (w.count * 4096))])
    if reach then part.foldl (fun s x => s.hostWrite x.1 [x.2]) s1 else s1
  | _ =>
    ((List.range w.count).filter fun i => (Config.freeByte s.free i).getLsbD 0).foldl (fun s i =>
      s.storeApply { w with first := w.first + i, count := 1, data := (w.data.drop (i * 4096)).take 4096 } 1 reach) s1

/-- A command whose owner has failed: what it had under way stops, and it waits for the owner's return (R563). -/
def State.interrupt (s : State) (k : Nat) (c : Cmd) : State :=
  let s1 := match c.body with
    | .store w => s.cutSectors w (!c.unreachable)
    | .move m => (s.moveStop m (freeHost s.free m.src) (!(c.unreachable && m.dst.tier == 4))).1
    | _ => s.dropWork c
  s1.updCmd c.cid ({ · with held := some k })

/-- What a component had begun for a message that takes no effect: a ring's deletion, a collection's drop (R714) and
a FORMAT that waits for one, upkeep that a message asked for. -/
def State.undo (s : State) (k : Nat) : State :=
  let keep (r : SubRing) : SubRing := if r.deleteMsg.isSome then { r with stopped := false, deleteMsg := none } else r
  let back (c : Collection) : Collection :=
    { c with load := (if c.load = .dropping then (if c.permille == 1000 then .loaded else .loading) else c.load), dropMsg := none
             upkeep := c.upkeep.filter fun u => u.msg.isNone }
  if k == Component.ringService then { s with rings.sqs := s.rings.sqs.map keep }
  else if k == Component.store0 then { s with colls := s.colls.map back, store.formatting := none }
  else s

/-- A component stops. -/
def State.stopComponent (s : State) (k : Nat) : State :=
  (s.rings.cmds.filter (Cmd.interrupted · k)).foldl (fun s c => s.interrupt k c) (s.undo k)

/-- A component's record changed. -/
def State.updComp (s : State) (k : Nat) (f : Component → Component) : State := { s with fw.comps := updAt k f s.fw.comps }

/-- The components of a kiosk. -/
def State.kioskComps (s : State) (kiosk : Nat) : List Nat :=
  (List.range s.fw.comps.length).filter fun k => (s.fw.comps.map (·.kiosk)).getD k 0 == kiosk

/-- Components put into a state, once they have stopped. -/
def State.stopAll (s : State) (l : List Nat) (st : FwState) : State :=
  l.foldl (fun s k => (s.stopComponent k).updComp k ({ · with state := st })) s

/-- Whether a component failed before and its restart ended less than 1 s ago (R562). -/
def State.failsAgain (s : State) (k : Nat) : Bool := (s.fw.comps.map (·.within1s)).getD k false

/-- A component fails: it restarts, or its kiosk where it fails again within 1 s, or it waits for the lodge (R562, R573). -/
def State.failComponent (s : State) (k : Nat) : State :=
  let kiosk := (s.fw.comps.map (·.kiosk)).getD k 0
  let s1 :=
    if s.fw.lodge != .up then s.stopAll [k] .heldForLodge
    else if s.failsAgain k then s.stopAll (s.kioskComps kiosk) .kioskRestarting
    else s.stopAll [k] .restarting
  s1.raise { code := 0x0028, severity := 1, unitKind := 1, unit := k }

/-- Whether kiosk components run at all: power is good and start-up's step 2 has ended. -/
def State.firmwareRuns (s : State) : Bool :=
  s.power.v12 && s.power.v33 && !s.power.perst && !s.power.hold && s.regs.step ≥ 3

def execCompartmentFault (comp : Nat) (s : State) : Host.Outcome State Fault Refusal :=
  event s (comp < 9 && s.firmwareRuns && s.compUp comp) (s.failComponent comp)

/-- COMPONENT_HEARTBEAT_TIMEOUT: 5 ms without the component's heartbeat, as the lodge counts them (R559). -/
def execComponentHeartbeatTimeout (comp : Nat) (s : State) : Host.Outcome State Fault Refusal :=
  event s (comp < 9 && s.firmwareRuns && s.compUp comp && s.fw.lodge == .up)
    (s.failComponent comp)

/-- KIOSK_HALT: the kiosk restarts with all its components (R559, R561). -/
def execKioskHalt (kiosk : Nat) (s : State) : Host.Outcome State Fault Refusal :=
  let l := s.kioskComps kiosk
  event s (kiosk < 8 && s.firmwareRuns && s.fw.lodge == .up && l.any fun k => (s.fw.comps.map (·.state)).getD k .up != .kioskRestarting)
    ((s.stopAll l .kioskRestarting).raise { code := 0x0029, severity := 2, unitKind := 2, unit := kiosk })

/-! ### A component returns (R563 to R571) -/

/-- Completions that waited for the ring service, posted in their order (R567). -/
def State.postWaiting (s : State) : State :=
  s.rings.waiting.foldl (fun (s : State) (x : Nat × Result) => match s.rings.cmds.find? fun c => c.cid == x.1 with
    | none => s
    | some c => s.post c x.2) ({ s with rings.waiting := [] })

/-- Commands that waited for an owner to return end with INTERRUPTED_RETRY. -/
def State.endHeld (s : State) (l : List Nat) : State :=
  (s.rings.cmds.filter fun c => c.held.any l.contains).foldl (fun s c => s.complete c.cid (.of 2)) s

/-- Unanswered messages of returned owners are answered with RESTARTED; all of them when the mailbox service returns
(R569). FORMAT and SANITIZE are owned by both store services. -/
def State.answerRestarted (s : State) (l : List Nat) : State :=
  let mine (a : Await) : Bool := l.contains Component.mailboxService || l.contains a.owner
    || (l.contains Component.store1 && (a.type == 0x80 || a.type == 0x81))
  (s.mail.awaiting.filter mine).foldl (fun s a => s.refuse a.type a.seq 11 noOffset 0) s

/-- Commands fetched while their owner restarted begin (R564); a MOVE_TENSOR that may not start yet for shedding completes (R389). -/
def State.beginWaiting (s : State) : State :=
  let shed := s.endAll (fun c => match c.body with
    | .move m => !m.started && c.held.isNone && s.t2Shed [m.src, m.dst]
    | _ => false) (.of 9)
  let go (c : Cmd) : Cmd :=
    if c.held.isSome || c.finished then c else match c.body with
      | .store _ => if s.storesUp then { c with admitted := true } else c
      | .move m => if s.compUp Component.memory then { c with admitted := true, body := .move { m with started := true } } else c
      | _ => c
  ({ shed with rings.cmds := shed.rings.cmds.map go } : State).blurAllows

/-- An event appended to the measurement log for a component that an activation restarted, or for the activation (R602). -/
def State.logActivation (s : State) (event comp item : Nat) : State :=
  let v := (s.fw.staged.map (·.1)).getD s.fw.running
  s.appendLog ⟨event, comp, v, Config.imageDigest v item⟩

/-- The end of an activation: every component has moved and runs; the staged image is the running one (R593, R595). -/
def State.endActivation (s : State) : State :=
  match s.fw.activating with
  | none => s
  | some seq =>
    if s.fw.comps.all fun c => c.moved && c.state == .up then
      let s1 := s.logActivation 6 0 0xFF
      let v := (s.fw.staged.map (·.1)).getD s.fw.running
      let table := (s.fw.staged.map fun x => x.2.1).getD s.fw.compat
      let s2 := { s1 with
        regs.fwVersion := BitVec.ofNat 24 (v / 65536 * 256 + v % 256)
        fw := { s1.fw with running := v, compat := table, staged := none, activating := none
                           comps := s1.fw.comps.map (fun (c : Component) => { c with moved := false }) } }
      s2.replyLater 0x41 (some seq) (toLe 4 v ++ zeros 12)
    else s

/-- A component of an activation that runs on the new image is logged. -/
def State.logMoved (s : State) (k : Nat) : State :=
  if s.fw.activating.isSome && (s.fw.comps.map (·.moved)).getD k false then s.logActivation 3 k k else s

/-- Messages from other modules that the fabric service acts on after its return, in their order (R571). -/
def State.actHeld (s : State) : State := s.group.heldMsgs.foldl (fun (s : State) (m : Nat × Bytes) => s.act m.2) ({ s with group.heldMsgs := [] })

/-- Components return together. -/
def State.returnComps (s : State) (l : List Nat) : State :=
  let s1 := l.foldl (fun s k => (s.updComp k fun c => { c with state := .up, within1s := s.depthOf (1, k) > 0 }).endRecovery (1, k)) s
  let s2 := if l.contains Component.ringService then s1.postWaiting else s1
  let s3 := (s2.endHeld l).beginWaiting
  let s4 := if l.contains Component.mailboxService then { s3 with tether.since := s3.clock.groupTime } else s3
  let s5 := s4.answerRestarted l
  let s6 := if l.contains Component.fabric then s5.actHeld else s5
  (l.foldl State.logMoved s6).endActivation.flushMail

/-- COMPONENT_RESTART_END. -/
def execComponentRestartEnd (comp : Nat) (s : State) : Host.Outcome State Fault Refusal :=
  let kiosk := (s.fw.comps.map (·.kiosk)).getD comp 0
  event s (comp < 9 && (s.fw.comps.map (·.state)).getD comp .up == .restarting)
    (s.settled ((s.returnComps [comp]).endRecovery (2, kiosk)))

/-- KIOSK_RESTART_END. -/
def execKioskRestartEnd (kiosk : Nat) (s : State) : Host.Outcome State Fault Refusal :=
  let l := s.kioskComps kiosk
  event s (kiosk < 8 && l.any fun k => (s.fw.comps.map (·.state)).getD k .up == .kioskRestarting)
    (s.settled ((s.returnComps l).endRecovery (2, kiosk)))

/-! ### The lodge and the gatehouse (R560, R573, R574, R644) -/

/-- Ticks of one second. -/
def ticksPerSecond : Nat := 1000 * ticksPerMs

/-- LODGE_WATCHDOG_EXPIRY: the lodge restarts; a second expiry within 1 s is an internal restart (R644). -/
def execLodgeWatchdogExpiry (s : State) : Host.Outcome State Fault Refusal :=
  let again := s.fw.lodgeAt.any fun t => s.clock.groupTime - t < ticksPerSecond
  let s1 := s.raise { code := 0x002A, severity := 2, unitKind := 4 }
  event s (s.alwaysOn && s.fw.lodge == .up)
    (if again then s1.internalRestart
     else { s1 with fw.lodge := .restarting, fw.lodgeAt := some s.clock.groupTime })

/-- LODGE_RETURN: held restarts begin, the clamp of the restart ends, the lease counts anew, and the lodge's unanswered
messages are answered. -/
def execLodgeReturn (s : State) : Host.Outcome State Fault Refusal :=
  let again (c : Component) : Bool := s.fw.comps.any fun x => x.kiosk == c.kiosk && x.state == .heldForLodge && x.within1s
  let start (c : Component) : Component :=
    if again c then { c with state := .kioskRestarting } else if c.state == .heldForLodge then { c with state := .restarting } else c
  let whole := (List.range s.fw.comps.length).filter fun k => (s.fw.comps[k]?).any fun (c : Component) => again c && c.state == .up
  let s1 := whole.foldl State.stopComponent s
  let s2 := { s1 with
    fw := { s1.fw with lodge := .up, comps := s1.fw.comps.map start
                       gatehouse := if s.fw.gatehouse == FwState.heldForLodge then FwState.restarting else s.fw.gatehouse }
    tether.since := s.clock.groupTime, power.clampHold := false }
  event s (s.fw.lodge == .restarting) ((s2.endRecovery (4, 0)).answerRestarted [Component.lodge])

/-- GATEHOUSE_WATCHDOG_EXPIRY: the lodge restarts the gatehouse, at its own return where it restarts. -/
def execGatehouseWatchdogExpiry (s : State) : Host.Outcome State Fault Refusal :=
  event s (s.alwaysOn && s.regs.step ≥ 3 && s.fw.gatehouse == FwState.up)
    (({ s with fw.gatehouse := if s.fw.lodge == FwState.up then FwState.restarting else FwState.heldForLodge }).raise
      { code := 0x002A, severity := 2, unitKind := 3 })

def execGatehouseReturn (s : State) : Host.Outcome State Fault Refusal :=
  event s (s.fw.gatehouse == .restarting)
    ((({ s with fw.gatehouse := .up }).endRecovery (3, 0)).answerRestarted [Component.gatehouse])

/-- GATEHOUSE_RETURN_TIMEOUT (R644). -/
def execGatehouseReturnTimeout (s : State) : Host.Outcome State Fault Refusal :=
  event s (s.fw.gatehouse == .restarting && s.fw.lodge == .up) s.internalRestart

/-- RECOVERY_PERIOD_END: 1 s after its recovery has ended without a further error, a unit's depth is 0 (R657). -/
def execRecoveryPeriodEnd (kind unit : Nat) (s : State) : Host.Outcome State Fault Refusal :=
  let is (d : UnitDepth) : Bool := d.kind == kind && d.unit == unit
  let s1 := { s with errors.depths := s.errors.depths.filter fun d => !is d }
  event s (s.errors.depths.any fun d => is d && d.ended)
    (if kind == 1 then s1.updComp unit ({ · with within1s := false }) else s1)

/-! ### FW_STAGE and FW_ACTIVATE (R591 to R595) -/

/-- FW_STAGE: the image verified and put into the staged slot, or the slot emptied. -/
def execFwStage (cells : Bytes) (host : HostImage) (s : State) : Host.Outcome State Fault Refusal :=
  let m := msgBytes cells
  let a := field m 0x20 8
  let n := field m 0x28 8
  messageEvent s ⟨0x40, 0x40, Component.gatehouse, false⟩ cells [(0x30, 16, 0xFF)] true
    (fieldAt [(a + n > 2 ^ 47, 0x20), (n > 67108864, 0x28)]) fun s seq =>
      match Config.fwImage s.fw.running (hostRead host a n) with
      | none => ({ s with fw.staged := none }).refuse 0x40 seq 9 noOffset 0
      | some x => ({ s with fw.staged := some x }).reply 0x40 seq
          (toLe 4 x.1 ++ toLe 1 (inTable x.2.1 s.tether.stackId s.tether.stackVer).toNat ++ zeros 11)

/-- Why FW_ACTIVATE is refused with REFUSED_STATE, by offset (R592). -/
def State.activateFault (s : State) (m : Bytes) : Option Nat :=
  match s.fw.staged with
  | none => some noOffset
  | some (v, table, same) =>
    if byteAt m 0x20 == 0 && (v / 2 ^ 24 != s.fw.running / 2 ^ 24 || !same) then some 0x20
    else if !inTable table s.tether.stackId s.tether.stackVer && byteAt m 0x21 % 2 == 0 then some 0x21
    else none

/-- An FW_ACTIVATE row. -/
def activateEvent (s : State) (cells : Bytes) (kind : Bool) (run : State → Nat → State) : Host.Outcome State Fault Refusal :=
  let m := msgBytes cells
  messageEvent s ⟨0x41, 0x30, Component.lodge, false⟩ cells [(0x21, 1, 0xFE), (0x22, 14, 0xFF)] kind
    (fieldAt [(byteAt m 0x20 > 1, 0x20)]) fun s seq => match s.activateFault m with
      | some o => s.refuse 0x41 seq 6 o 0
      | none => run s seq

/-- FW_ACTIVATE of scope 0: the components move one at a time; import keys are destroyed (R606); a full log refuses it
(R602), and an activation under way does. -/
def execFwActivateNow (cells : Bytes) (_host : HostImage) (s : State) : Host.Outcome State Fault Refusal :=
  activateEvent s cells (byteAt (msgBytes cells) 0x20 == 0) fun s seq =>
    if s.fw.activating.isSome then s.refuse 0x41 seq 6 noOffset 0
    else if s.logFull then s.refuseFull 0x41 seq
    else { s with fw.activating := some seq, keys.imports := [] }

/-- FW_ACTIVATE of scope 1: at the next power-on or PERST# (R594). -/
def execFwActivateAtReset (cells : Bytes) (_host : HostImage) (s : State) : Host.Outcome State Fault Refusal :=
  activateEvent s cells (byteAt (msgBytes cells) 0x20 != 0) fun s seq =>
    let v := match s.fw.staged with
      | some x => x.1
      | none => 0
    ({ s with fw.atReset := true }).reply 0x41 seq (toLe 4 v ++ zeros 12)

/-- A component restarted on the new image. -/
def State.restartOn (s : State) (k : Nat) : State := s.updComp k ({ · with state := .restarting, moved := true })

/-- COMPONENT_IMAGE_SWITCH: the component whose turn it is owns no work; a drop whose answer was discarded is cancelled (R714). -/
def execComponentImageSwitch (comp : Nat) (s : State) : Host.Outcome State Fault Refusal :=
  event s (comp < 9 && s.moving == some comp && s.compUp comp && s.fw.lodge == .up && !s.busy comp) ((s.undo comp).restartOn comp)

/-- COMPONENT_MOVE_TIMEOUT: still busy after 1 s, it is restarted at once. -/
def execComponentMoveTimeout (comp : Nat) (s : State) : Host.Outcome State Fault Refusal :=
  event s (comp < 9 && s.moving == some comp && s.compUp comp && s.fw.lodge == .up && s.busy comp) ((s.stopComponent comp).restartOn comp)

end Sys2Proof.Machine
end

