-- ==== Sys2Proof/Machine/Upkeep.lean ====
section
/-!
DEFINITION. Index upkeep (chapter 6, Upkeep): compaction, clustering with long sums, generations and their publication,
rebuilds, rebalancing, and the UPKEEP messages.
-/

namespace Sys2Proof.Machine

/-! ### Compaction (R62, R63, R156) -/

/-- Generations that no snapshot at or above the floor walks (R62): a later one was published at or below it. -/
def Collection.freeable (c : Collection) (floor : Nat) : List Nat :=
  match c.genAt floor with
  | none => []
  | some g => (c.gens.filter fun x => x.publishSeq < g.publishSeq || (x.publishSeq == g.publishSeq && x.num < g.num)).map (·.num)

/-- A tombstone after generations are freed: held by a generation that still holds its segment, or gone. -/
def Collection.retomb (c : Collection) (gone : List Nat) (t : Tomb) : Option Tomb :=
  if !gone.contains t.gen then some t
  else
    let seg := c.segs.find? fun g => g.part == t.part && g.gens.contains t.gen && g.firstSlot ≤ t.slot
      && t.slot < g.firstSlot + g.slots.length
    match (seg.map fun g => g.gens.filter fun n => !gone.contains n).getD [] with
    | [] => none
    | n :: _ => some { t with gen := n }

/-- Superseded generations freed, with the segments that only they hold. -/
def Collection.freeGens (c : Collection) (gone : List Nat) : Collection :=
  let keep (g : Segment) : Option Segment :=
    match g.gens.filter fun n => !gone.contains n with
    | [] => none
    | l => some { g with gens := l }
  { c with gens := c.gens.filter (fun g => !gone.contains g.num)
           tombs := c.tombs.filterMap (c.retomb gone), segs := c.segs.filterMap keep }

/-- A tombstone at or below the floor on a slot index of a segment. -/
def Collection.removed (c : Collection) (floor : Nat) (g : Segment) (j : Nat) : Bool := c.dead floor g j

/-- The merged segment of a partition's segments of one kind at or below the floor, with the highest of their tags; kept
slots take new slot indices, and tombstones above the floor follow them. -/
def Collection.mergeKind (c : Collection) (gen : Nat) (p : Partition) (floor : Nat) (zero : Bool) : Collection :=
  let pick (g : Segment) : Bool := g.part == p.num && g.gens.contains gen && tagged g.seq floor && (g.kind = .zeroNorm) == zero
  let old := c.segs.filter pick
  let kept := old.flatMap fun g => (g.places.filter fun x => !c.removed floor g x.1).map fun x => (g, x.1, x.2)
  if old.length ≤ 1 && kept.length == sumBy (fun g : Segment => g.slots.length) old then c
  else
    let gens := (old.head?.map (·.gens)).getD [gen]
    let seq := (old.filterMap (·.seq)).foldl max 0
    let total := ((c.gens.find? fun g => g.num == gen).bind fun g => g.part? p.num).map (·.slotTotal)
    let first := total.getD p.slotTotal
    let segs := cutSegments c 0 gen p.num p.stack p.home first (if zero then .zeroNorm else .moved) (some seq) kept.length
      (kept.map fun x => x.2.2)
    let moved := ((List.range kept.length).zip kept).flatMap fun x =>
      (c.tombs.filter fun t => t.part == p.num && t.slot == x.2.1.firstSlot + x.2.2.1 && x.2.1.gens.contains t.gen
        && !tagged t.seq floor).map fun t => { t with slot := first + x.1 }
    let onOld (t : Tomb) : Bool := old.any fun g => g.part == t.part && g.gens.contains t.gen && g.firstSlot ≤ t.slot
      && t.slot < g.firstSlot + g.slots.length
    let bump (q : Partition) : Partition := if q.num == p.num && q.owner == p.owner then { q with slotTotal := first + kept.length } else q
    let raise (g : Generation) : Generation := { g with parts := g.parts.map bump }
    { c with segs := (c.segs.filter fun g => !pick g) ++ segs.map ({ · with gens := gens })
             tombs := (c.tombs.filter fun t => !onOld t) ++ moved, gens := c.gens.map raise }

/-- A partition compacted below a floor. -/
def Collection.compact (c : Collection) (part floor : Nat) : Collection :=
  let c1 := c.freeGens (c.freeable floor)
  match (c1.gens.find? fun g => g.num == c1.lastGen).bind fun g => (g.part? part).map fun p => (g.num, p) with
  | none => c1
  | some (gen, p) =>
    let shared := (c1.segs.filter fun g => g.part == part && g.gens.contains gen).all fun g => tagged g.seq floor || g.seq.isNone
      || g.gens == [gen]
    let c2 := if shared then (c1.mergeKind gen p floor false).mergeKind gen p floor true else c1
    { c2 with eligible := c2.eligible.filter fun e => e.1 != part }

/-- The partition that is compacted next: the lowest floor sequence at which one became eligible, then the lowest
number. -/
def Collection.nextCompaction (c : Collection) : Option Nat := (sortBy (fun a b : Nat × Nat => keyLt a.2 a.1 b.2 b.1) c.eligible).head?.map (·.1)

/-- A segment that lies off its partition's home lane while the home lane has room for it (R133). -/
def State.strayed (s : State) (c : Collection) (p : Partition) (g : Segment) : Bool :=
  g.part == p.num && g.seq.isSome && g.addr != 0 && g.lane % 64 != p.home && (s.findLane (64 * p.stack + p.home) (c.segRange g).2).isSome

/-- A compacted collection: the partition's segments merged, and those that have strayed to be written to the home lane. -/
def State.compacted (s : State) (c : Collection) (part : Nat) : Collection :=
  let c1 := c.compact part (s.floor c)
  match (c1.gens.find? fun g => g.num == c1.lastGen).bind fun g => g.part? part with
  | none => c1
  | some p => { c1 with segs := updWhere (s.strayed c1 p) (fun g => { g with addr := 0, refArray := 0, lane := 64 * p.stack + p.home }) c1.segs }

/-- A lane job, a query's or a program's, names a segment that a compaction would change or free (R156). -/
def State.namedSegment (s : State) (c c1 : Collection) : Bool :=
  let gone := (c.segs.filter fun g => !c1.segs.any fun h => h.addr == g.addr && h.slots == g.slots).map (·.addr)
  s.comp.passes.any fun p => p.segs.any gone.contains

/-- COMPACTION: no lane job names a segment that it changes or frees (R156), and no stage 5 or shelter mode stops it. -/
def execCompaction (coll part : Nat) (s : State) : Host.Outcome State Fault Refusal :=
  match s.coll? coll with
  | none => .next s
  | some c =>
    let strays := (c.gens.find? fun g => g.num == c.lastGen).any fun g => (g.part? part).any fun p => c.segs.any (s.strayed c p)
    let due := c.nextCompaction == some part || !(c.freeable (s.floor c)).isEmpty || strays
    let c1 := s.compacted c part
    event s (due && !s.namedSegment c c1 && c.load = .loaded && s.power.applied < 5 && !s.regs.shelter)
      ((s.updColl coll fun _ => c1).layout.noteEligible coll)

/-! ### Clustering with long sums (R192 to R194, R247) -/

/-- One element's update in long-sum mode (R247 with sc = 1.0): the K24 code of the sum and an exact part. -/
def accmElem (sum : Nat) (part : Val) (sc : Val) (seed idx count : Nat) : Nat × ConvFlags :=
  encode .k24 ((decode .k24 sum).add (part.mul sc)) 3 (mix64 (mix64 seed idx) count / 2 ^ 32) 0

/-- Values added element by element, exactly. -/
def exactSum (dim : Nat) (xs : List (List Val)) : List Val :=
  xs.foldl (fun acc x => (acc.zip x).map fun p => p.1.add p.2) (List.replicate dim Val.zero)

/-- The index of the nearest centroid, ties to the lower index. -/
def nearest (metric : Nat) (cents : List (List Nat)) (x : List Val) : Nat :=
  let keys := cents.map fun c => let v := distVals metric x (c.map (decode .k8)); rankKey v.isNar (encodeF32 v 0 0).1
  (keys.findIdx? fun k => k == keys.foldl min 0xFFFFFFFF).getD 0

/-- Blocks of 2^24 samples, in order. -/
def blocksOf {α : Type} : Nat → List α → List (List α)
  | 0, _ => []
  | n + 1, l => if l.isEmpty then [] else l.take 16777216 :: blocksOf n (l.drop 16777216)

/-- sum / count rounded once to K8. -/
def quotientK8 (sum count : Nat) : Nat :=
  match decode .k24 sum with
  | .nar => 0x87
  | .fin m e =>
    let (q, x) := quotient m.natAbs count e
    (encode .k8 (.fin (if m < 0 then -(q : Int) else q) x) 0 0 0).1

/-- One of Lloyd's iterations (R192): the new centroids from the sample's values in ascending ID order. -/
def lloyd (metric dim seed it : Nat) (xs : List (List Val)) (cents : List (List Nat)) : List (List Nat) :=
  let assigned := xs.map fun x => (nearest metric cents x, x)
  let blocks := blocksOf (xs.length / 16777216 + 1) assigned
  ((List.range cents.length).zip cents).map fun c =>
    let count := (assigned.filter fun a => a.1 == c.1).length
    if count == 0 then c.2
    else
      let sums := ((List.range blocks.length).zip blocks).foldl (fun sums b =>
        let part := exactSum dim ((b.2.filter fun a => a.1 == c.1).map (·.2))
        ((List.range dim).zip (sums.zip part)).map fun e => (accmElem e.2.1 e.2.2 (.fin 1 0) (seed + it) e.1 b.1).1)
        (List.replicate dim 0)
      sums.map fun x => quotientK8 x count

/-- The sample of a job: IDs and K8 forms, ascending by ID, visible at the build snapshot and below the threshold
(R193), in the partitions that it takes. -/
def Collection.sampleOf (c : Collection) (u : Upkeep) : List (Nat × List Nat) :=
  let all := (c.visible u.build).filter fun x =>
    mix64 u.seed x.2.2.id < u.threshold && (u.kind != .rebalance || (c.segs[x.1]?).any fun g => u.replaces.contains g.part)
  (sortBy (fun a b : Nat × List Nat => a.1 < b.1) (all.map fun x => (x.2.2.id, c.k8Of x.2.2.full)))

/-- The partition record that a vector visible at the build snapshot lies in. -/
def Collection.partOfId (c : Collection) (snap id : Nat) : Option Partition :=
  (c.liveSlot snap id).bind fun x => (c.segs[x.1]?).bind fun g => (c.genAt snap).bind fun gen => gen.part? g.part

/-- The exact residual of a K8 form in subspace j (R177, R194): no conversion of it stands in R225's table (log 31). -/
def Collection.residual (c : Collection) (k8 centroid : List Nat) (j : Nat) : List Val :=
  let w := c.dim / c.m
  (((k8.zip centroid).map fun p => (decode .k8 p.1).sub (decode .k8 p.2)).drop (j * w)).take w

/-- One iteration of quantiser training: each subspace's entries from its residuals (R194). -/
def Collection.trainBook (c : Collection) (u : Upkeep) : List Nat :=
  let w := c.dim / c.m
  let sample := c.sampleOf u
  ((List.range c.m).map fun j =>
    let book := rowsOf w c.bookSize (u.codebook.drop (j * c.bookSize * w))
    let xs := sample.map fun x => c.residual x.2 (((c.partOfId u.build x.1).map (·.centroid)).getD []) j
    (lloyd 1 w u.seed u.done xs book).flatten).flatten

/-- A job after one iteration. -/
def Collection.iterate (c : Collection) (u : Upkeep) : Upkeep :=
  match u.kind with
  | .quantiser => { u with codebook := c.trainBook u, done := u.done + 1 }
  | _ => { u with centroids := lloyd c.metric c.dim u.seed u.done ((c.sampleOf u).map fun x => x.2.map (decode .k8)) u.centroids, done := u.done + 1 }

/-- Upkeep that stages 1 and above pause runs now: no stage addition, no shelter mode, not paused (chapter 6's stage
table). -/
def State.upkeepRuns (s : State) (u : Upkeep) : Bool := s.power.applied == 0 && !s.regs.shelter && !u.paused

/-- An upkeep window gives upkeep a cluster in the round under way (R26, R332): one that is in service and awake. -/
def State.upkeepWindow (s : State) : Bool :=
  s.active.windows.any fun w => w.kind == 1 && w.coversAt s.active.cycle (s.active.place s.clock.baseRound s.clock.round)
    && w.clusters.any fun k => !s.comp.out.contains k && !s.comp.asleep.contains k

/-- The job of a number within a collection. -/
def Collection.job? (c : Collection) (n : Nat) : Option Upkeep := c.upkeep[n]?

/-- CLUSTERING_ITERATION: one iteration of a job, in an upkeep window. -/
def execClusteringIteration (coll job : Nat) (s : State) : Host.Outcome State Fault Refusal :=
  match s.coll? coll with
  | none => .next s
  | some c =>
    match c.job? job with
    | none => .next s
    | some u =>
      let clusters := u.kind = .centroids || u.kind = .quantiser || u.kind = .rebalance
      event s (clusters && u.done < u.iterations && s.upkeepRuns u && s.upkeepWindow && c.load = .loaded)
        (s.updColl coll fun c => { c with upkeep := c.upkeep.modify job c.iterate })

/-! ### New generations (R42, R189, R194, R197, R445, R716) -/

/-- The partitions of a job's new generation, which owns those that are new, and the numbers of these. -/
def Collection.newParts (c : Collection) (g : Generation) (u : Upkeep) : List Partition × List Nat :=
  let fresh (p : Partition) : Partition := { p with slotTotal := 0, lost := false, owner := g.num + 1, addr := 0 }
  match u.kind with
  | .centroids =>
    (((List.range g.parts.length).zip g.parts).map fun x => { fresh x.2 with centroid := u.centroids.getD x.1 x.2.centroid },
      g.parts.map (·.num))
  | .quantiser => (g.parts.map fresh, g.parts.map (·.num))
  | .rebuild => (g.parts.map fun p => if u.replaces.contains p.num then fresh p else p, u.replaces)
  | .partitionMove => (g.parts, [])
  | .rebalance =>
    let first := u.replaces.foldl min 0xFFFFF
    let base := (g.part? first).getD { num := first, centroid := [], neighbours := [], stack := 0, slotTotal := 0, holder := 0
                                       epoch := 1, move := none, lost := false, owner := 0, home := 0, addr := 0 }
    let unused := ((List.range (g.parts.length + 1)).find? fun n => (g.part? n).isNone).getD g.parts.length
    let nums := if u.centroids.length == 2 then [first, unused] else [first]
    let made := (nums.zip u.centroids).map fun x => { fresh base with num := x.1, centroid := x.2, epoch := base.epoch }
    (sortBy (fun a b : Partition => a.num < b.num) ((g.parts.filter fun p => !u.replaces.contains p.num) ++ made), nums)

/-- Neighbour lists of a new generation (R715), each in a record of its own: every list where all partitions are replaced; else those of
the new partitions and those that named a replaced one. -/
def relist (parts : List Partition) (replaced fresh : List Nat) : List Partition :=
  let cs := parts.map fun p => (p.num, p.centroid)
  parts.map fun p =>
    if fresh.contains p.num || p.neighbours.any replaced.contains then { p with neighbours := neighbourList cs p.num p.centroid, addr := 0 }
    else p

/-- Where a vector goes in a new generation: full retraining walks it (R176), the others choose among the new partitions
(log 32). -/
def Collection.rehome (c : Collection) (g : Generation) (u : Upkeep) (fresh : List Nat) (old : Nat) (zero : Bool) (k8 : List Nat) :
    Nat :=
  match u.kind with
  | .centroids => c.assign g zero k8
  | .rebalance =>
    let cents := fresh.map fun n => ((g.part? n).map (·.centroid)).getD []
    fresh.getD (nearest c.metric cents (k8.map (decode .k8))) old
  | _ => old

/-- The next sequence published with a new generation (R42): every live slot of a replaced partition is tombstoned and
written into its new partition, recoded; other partitions are shared. -/
def Collection.publish (c : Collection) (u : Upkeep) (now : Nat) : Collection :=
  match c.gens.find? fun g => g.num == c.lastGen with
  | none => c
  | some g =>
    let seq := c.latest + 1
    let (parts, fresh) := c.newParts g u
    let book := if u.kind = .quantiser then u.codebook else g.codebook
    let replaced := if u.kind = .rebalance then u.replaces else fresh
    let lost := if u.kind = .rebuild then replaced.map fun p => (p, seq) else []
    let gen : Generation := { num := g.num + 1, publishSeq := seq, parts := relist parts replaced fresh, codebook := book
                              lostBelow := g.lostBelow ++ lost
                              bookAddr := if u.kind = .quantiser then 0 else g.bookAddr }
    let live := (c.visible c.latest).filterMap fun x => (c.segs[x.1]?).bind fun sg =>
      if replaced.contains sg.part then some (sg, x.2.1, x.2.2) else none
    let tombs := live.map fun x => tombOf g.num 0 (some seq) x.1 x.2.1
    let share (sg : Segment) : Segment :=
      if sg.gens.contains g.num && !replaced.contains sg.part then { sg with gens := sg.gens ++ [gen.num] } else sg
    let news := live.map fun x =>
      let zero := decide (x.1.kind = .zeroNorm)
      let k8 := c.k8Of x.2.2.full
      let p := c.rehome gen u fresh x.1.part zero k8
      let centroid := ((gen.part? p).map (·.centroid)).getD []
      ({ part := p, kind := if zero then .zeroNorm else .moved, slot := { x.2.2 with code := c.encodeSlot gen centroid k8 } } : NewSlot)
    let c1 := { c with gens := c.gens ++ [gen], tombs := c.tombs ++ tombs, segs := c.segs.map share }
    (c1.writeSlots 0 gen.num (some seq) news).nextSeq now

/-- The recovery of a stack and of its pseudo-channels has ended (chapter 19, Nested recovery). -/
def State.endStack (s : State) (stack : Nat) : State :=
  let is (d : UnitDepth) : Bool := (d.kind == 8 && d.unit == stack) || (d.kind == 7 && d.unit / 64 == stack)
  { s with errors.depths := updWhere is ({ · with ended := true }) s.errors.depths }

/-- The stacks of the partitions that a rebuild replaces. -/
def Collection.rebuiltStacks (c : Collection) (u : Upkeep) : List Nat :=
  if u.kind = .rebuild then distinct (u.replaces.filterMap fun p => ((c.gens.find? fun g => g.num == c.lastGen).bind fun g => g.part? p).map (·.stack))
  else []

/-- The admitted mutations of a collection that have not committed, written again against a generation that is being published
(R191). -/
def State.redoAll (s : State) (coll : Nat) : State :=
  s.rings.cmds.foldl (fun s c => match c.mutation?, s.coll? coll with
    | some m, some k => if c.hdr.collection == coll && m.admitted && m.committed.isNone && !c.finished then s.redo c m k else s
    | _, _ => s) s

/-- GENERATION_PUBLISH: in an upkeep window, a finished job's generation takes the next sequence; no mutation stands between its last part
and its commit or has its data at its holders, and those admitted before are written again (R191). The UPKEEP that asked for it is
answered with the sequence. -/
def execGenerationPublish (coll job : Nat) (s : State) : Host.Outcome State Fault Refusal :=
  match s.coll? coll with
  | none => .next s
  | some c =>
    match c.job? job with
    | none => .next s
    | some u =>
      let busy := s.rings.cmds.any fun x => x.hdr.collection == coll && (x.mutation?.any fun y => y.closing || y.out)
      let seq := c.latest + 1
      let part : Journal := { mutationId := 0, coll, tag := 0, ring := 0, kind := 3, atomic := true, last := true, batch := 0
                              index := 0, first := 0, count := 0, gen := c.lastGen + 1, seq, onMedium := true, crcGood := true, sectors := 1
                              entries := [], done := true }
      let s1 := { s.updColl coll (fun c => { c.publish u s.clock.groupTime with upkeep := c.upkeep.eraseIdx job }) with
        store.journal := s.store.journal ++ [part] }
      let s1 := (s1.redoAll coll).layout.sendRecord coll
      let s1 := (c.rebuiltStacks u).foldl State.endStack s1
      let s2 := if s1.groupMember then s1.announce 0x0A (toLe 2 coll ++ zeros 6 ++ toLe 8 seq) else s1
      event s (u.done == u.iterations && u.kind != .partitionMove && s.upkeepRuns u && s.upkeepWindow && !busy && c.latest < 0xFFFFFFFFFFFFFFFE
          && c.load = .loaded && s.compUp Component.store0) (s2.replyLater 0x23 u.msg (toLe 8 seq))

/-! ### Loading after a mount (R408, R409) -/

/-- A collection as its load restores it: the newest generation, whose route graph and codebook come from their copies, and every
partition rebuilt from the directory and the full vectors, with codes recomputed (R177). The latest sequence is the only admissible
snapshot (R409), so only live vectors are rebuilt, and tagged with it. -/
def Collection.restored (c : Collection) : Collection :=
  match c.gens.find? fun g => g.num == c.lastGen with
  | none => c
  | some g =>
    let bare (p : Partition) : Partition := { p with slotTotal := 0, lost := false, owner := g.num, addr := 0 }
    let gen := { g with parts := g.parts.map bare, lostBelow := [], bookAddr := 0 }
    let news := (c.visible c.latest).filterMap fun x => (c.segs[x.1]?).map fun sg =>
      let zero := decide (sg.kind = .zeroNorm)
      let centroid := ((g.part? sg.part).map (·.centroid)).getD []
      ({ part := sg.part, kind := if zero then .zeroNorm else .moved
         slot := { x.2.2 with code := c.encodeSlot g centroid (c.k8Of x.2.2.full) } } : NewSlot)
    ({ c with gens := [gen], segs := [], tombs := [], chunks := [] }).writeSlots 0 g.num (some c.latest) news

/-- COLLECTION_LOAD_END: collections load in ascending ID; the loaded one is announced (R408, R583). -/
def execCollectionLoadEnd (coll : Nat) (s : State) : Host.Outcome State Fault Refusal :=
  match s.coll? coll with
  | none => .next s
  | some c =>
    let done := { c.restored with load := .loaded, permille := 1000 }
    let first := !(s.colls.any fun x => x.load = .loading && x.cid < coll)
    event s (c.load = .loading && first && s.regs.ready && s.compUp Component.store0)
      ((s.updColl coll fun _ => done).layout.send ⟨0x22, 0, 0, 2, s.collBody done⟩)

/-! ### Rebalancing (R189) -/

/-- Live slots of a partition at the latest sequence. -/
def Collection.liveIn (c : Collection) (p : Nat) : Nat :=
  ((c.visible c.latest).filter fun x => (c.segs[x.1]?).any fun g => g.part == p).length

/-- What a rebalance of a partition replaces: itself where it splits, itself and its nearest route-graph neighbour where
it merges, nothing otherwise. -/
def Collection.rebalances (c : Collection) (p : Nat) : Option (List Nat × Nat) :=
  match c.gens.find? fun g => g.num == c.lastGen with
  | none => none
  | some g =>
    match g.part? p with
    | none => none
    | some r =>
      let total := c.liveCount
      let n := c.liveIn p
      let parts := g.parts.length
      if 4 * n * parts > 5 * total && parts < 1048576 then some ([p], 2)
      else if 4 * n * parts < total then
        let near := nearest 1 (r.neighbours.filterMap fun q => (g.part? q).map (·.centroid)) (r.centroid.map (decode .k8))
        (r.neighbours[near]?).map fun q => ([p, q], 1)
      else none

/-- A job's record before its first iteration. -/
def Collection.newJob (c : Collection) (kind : UpkeepKind) (seed threshold iterations : Nat) (msg : Option Nat) : Upkeep :=
  let g := c.gens.find? fun g => g.num == c.lastGen
  { kind, seed, threshold, iterations, done := 0, build := c.latest, part := 0
    centroids := match kind with
      | .centroids => (g.map fun g => g.parts.map (·.centroid)).getD []
      | _ => []
    codebook := (g.map (·.codebook)).getD [], replaces := [], msg, paused := false }

/-- A rebalance's job (R189): seed and build snapshot b, eight iterations. The spec does not say from which centroids the
iterations start: they are free K8 values (log 2), each as its canonical code (R206). -/
def Collection.rebalanceJob (c : Collection) (free part : Nat) (replaces : List Nat) (kc : Nat) (msg : Option Nat) : Upkeep :=
  { c.newJob .rebalance c.latest (2 ^ 64) 8 msg with
    part := part, replaces := replaces
    centroids := (List.range kc).map fun k => (List.range c.dim).map fun i =>
      let code := (Config.freeByte free (k * c.dim + i)).toNat
      if code == 0x87 then 0 else (encode .k8 (decode .k8 code) 0 0 0).1 }

/-- The state with a job begun. -/
def State.startJob (s : State) (coll : Nat) (u : Upkeep) : State :=
  ({ s with free := s.free + 1 }).updColl coll fun c => { c with upkeep := c.upkeep ++ [u] }

/-- REBALANCE_START: by the device's own policy, one at a time on a collection. -/
def execRebalanceStart (coll part : Nat) (s : State) : Host.Outcome State Fault Refusal :=
  match s.coll? coll with
  | none => .next s
  | some c =>
    match c.rebalances part with
    | none => .next s
    | some (l, kc) =>
      event s (c.upkeep.all (fun u => u.kind != .rebalance) && s.power.applied == 0 && !s.regs.shelter && c.load = .loaded
          && c.home == s.group.index) (s.startJob coll (c.rebalanceJob s.free part l kc none))

/-! ### The UPKEEP message (chapter 16) -/

/-- The fields of an UPKEEP at fault. -/
def upkeepFields (m : Bytes) : Option Nat :=
  fieldAt [(field m 0x20 2 > 0xFFF, 0x20), (byteAt m 0x22 > 4, 0x22), (byteAt m 0x23 == 0 || byteAt m 0x23 > 64, 0x23)]

/-- An UPKEEP row: the message of its kind on a loaded collection of this module. -/
def upkeepEvent (s : State) (cells : Bytes) (kind : Nat) (run : State → Nat → Collection → State) :
    Host.Outcome State Fault Refusal :=
  let m := msgBytes cells
  messageEvent s ⟨0x23, 0x40, Component.store0, false⟩ cells [(0x3A, 6, 0xFF)]
    (byteAt m 0x22 == kind || (kind == 0 && byteAt m 0x22 > 4)) (upkeepFields m) fun s seq =>
    match s.coll? (field m 0x20 2) with
    | none => s.refuse 0x23 seq 6 0x20 0
    | some c => if c.load != .loaded || c.home != s.group.index then s.refuse 0x23 seq 6 0x20 0 else run s seq c

/-- UPKEEP of kind 0 (R192). -/
def execUpkeepCentroidRetraining (cells : Bytes) (_host : HostImage) (s : State) : Host.Outcome State Fault Refusal :=
  let m := msgBytes cells
  upkeepEvent s cells 0 fun s seq c =>
    s.startJob c.cid (c.newJob .centroids (field m 0x28 8) (field m 0x30 8) (byteAt m 0x23) (some seq))

/-- Free T1 in the stacks. -/
def State.freeT1 (s : State) : Nat := sumBy s.stackFree (List.range 8)

/-- UPKEEP of kind 1 (R194, R195). A raw collection has no codebook. -/
def execUpkeepQuantiserTraining (cells : Bytes) (_host : HostImage) (s : State) : Host.Outcome State Fault Refusal :=
  let m := msgBytes cells
  upkeepEvent s cells 1 fun s seq c =>
    if !c.pq then s.refuse 0x23 seq 6 0x20 0
    else if s.freeT1 < c.presentSlots * c.slotSize then s.refuse 0x23 seq 7 noOffset 0
    else s.startJob c.cid (c.newJob .quantiser (field m 0x28 8) (field m 0x30 8) (byteAt m 0x23) (some seq))

/-- The partition that an UPKEEP names. -/
def Collection.named? (c : Collection) (p : Nat) : Option Partition :=
  (c.gens.find? fun g => g.num == c.lastGen).bind fun g => g.part? p

/-- A rebuild's job: no iterations. -/
def Collection.rebuildJob (c : Collection) (parts : List Nat) (msg : Option Nat) : Upkeep :=
  { c.newJob .rebuild 0 0 0 msg with part := parts.headD 0, replaces := parts }

/-- UPKEEP of kind 2 (R197). A partition that the driver names while none of its pages is lost is not an affected one: snapshots
below r are still served from the old generation. The spec speaks of affected partitions only: DESIGN CHOICE (log 96). -/
def execUpkeepRebuild (cells : Bytes) (_host : HostImage) (s : State) : Host.Outcome State Fault Refusal :=
  let p := field (msgBytes cells) 0x24 4
  upkeepEvent s cells 2 fun s seq c =>
    match c.named? p with
    | none => s.refuse 0x23 seq 5 0x24 0
    | some _ => s.startJob c.cid (c.rebuildJob [p] (some seq))

/-- UPKEEP of kind 3 (R448): where this module is A, the move begins; else A has the order to begin it (log 115). -/
def execUpkeepPartitionMove (cells : Bytes) (_host : HostImage) (s : State) : Host.Outcome State Fault Refusal :=
  let m := msgBytes cells
  let p := field m 0x24 4
  let dest := field m 0x38 2
  upkeepEvent s cells 3 fun s seq c =>
    match c.named? p with
    | none => s.refuse 0x23 seq 5 0x24 0
    | some r =>
      if dest ≥ s.group.size || dest == r.holder then s.refuse 0x23 seq 5 0x38 0
      else if s.group.moves.any fun x => x.coll == c.cid && x.part == p then s.refuse 0x23 seq 6 0x24 0
      else
        if r.holder == s.group.index then s.openEpoch c.cid p (r.epoch + 1) dest (some seq)
        else
          let op : MoveOp := { coll := c.cid, part := p, epoch := r.epoch + 1, src := r.holder, dst := dest, opens := 2 ^ 64 - 1
                               bothAt := none, closes := none, copied := false, drain := 0, msg := some seq, sent := false, came := false }
          { s with group.moves := s.group.moves ++ [op] }.launch 3 r.holder 0 0
            (.index 3 [p, r.epoch + 1, dest] (c.wire (s.floor c) (fun _ => false) fun _ => false))

/-- UPKEEP of kind 4 (R189): the named partition, where the policy would rebalance it; refused otherwise (log 33). -/
def execUpkeepRebalance (cells : Bytes) (_host : HostImage) (s : State) : Host.Outcome State Fault Refusal :=
  let p := field (msgBytes cells) 0x24 4
  upkeepEvent s cells 4 fun s seq c =>
    match c.named? p with
    | none => s.refuse 0x23 seq 5 0x24 0
    | some _ =>
      match c.rebalances p with
      | none => s.refuse 0x23 seq 6 0x24 0
      | some (l, kc) =>
        if c.upkeep.any fun u => u.kind == .rebalance then s.refuse 0x23 seq 6 0x20 0
        else s.startJob c.cid (c.rebalanceJob s.free p l kc (some seq))

end Sys2Proof.Machine
end

