-- ==== Sys2Proof/Machine/Programs.lean ====
section
/-!
DEFINITION. Tensor programs from image to result (chapter 9): the program loader's checks, placing a program in T1,
starting teams on clusters, transfers, and the end of a run, with the embedding and rerank invocations of chapters 3
and 6.
-/

namespace Sys2Proof.Machine

/-! ### The loader's checks (R274 to R311, R365 to R367) -/

/-- Bits [hi:lo] as a mask. -/
def maskOf (l : List (Nat × Nat)) : Nat := sumBy (fun r => 2 ^ (r.1 + 1) - 2 ^ r.2) l

/-- The bits that each opcode's fields take, [55:0] (R273); none for an opcode absent from the table. -/
def opcodeBits (op : Nat) : Option Nat :=
  ([(0x00, []), (0x01, [(55, 52), (31, 0)]), (0x02, [(55, 48), (31, 0)]), (0x03, [(55, 44)]), (0x04, [(55, 47), (11, 0)]),
    (0x05, [(55, 51), (31, 0)]), (0x06, [(55, 54)]), (0x07, [(55, 54)]), (0x08, []), (0x09, [(55, 52)]),
    (0x10, [(55, 38), (11, 0)]), (0x18, [(55, 48), (23, 0)]), (0x20, [(55, 51)]), (0x21, [(55, 46)]),
    (0x22, [(55, 47), (23, 0)]), (0x23, [(55, 47), (23, 0)]), (0x28, [(55, 25)]), (0x30, [(55, 12)]), (0x38, [(55, 3)]),
    (0x3C, [(55, 23)]), (0x40, [(55, 37), (23, 0)])].find? fun r => r.1 == op).map fun r => maskOf r.2

/-- Fields that an instruction leaves unused under its enables and that are not zero (R273, R274, R295). -/
def unusedSet (w : BitVec 64) : Bool :=
  let f := wf w
  match f 63 56 with
  | 0x04 => f 47 47 == 0 && f 51 48 != 0
  | 0x05 => if f 51 51 == 1 then f 31 16 != 0 else f 55 52 != 0
  | 0x10 => (f 39 39 == 0 && (f 47 44 != 0 || f 51 50 != 0)) || (f 38 38 == 0 && (f 43 40 != 0 || f 49 48 != 0))
  | 0x30 => !vopTwo (f 55 50) && (f 41 38 != 0 || f 29 26 != 0)
  | 0x38 => (f 26 26 == 0 && (f 42 39 != 0 || f 38 35 != 0)) || (f 25 24 == 0 && (f 34 31 != 0 || f 30 27 != 0))
  | 0x40 =>
    match f 55 54 with
    | 0 => f 37 37 == 1 && (f 41 38 != 0 || f 23 0 != 0)
    | 1 => f 37 37 != 0
    | _ => f 37 37 != 0 || f 53 42 != 0
  | _ => false

/-- The vector operations of the table. -/
def vopOps : List Nat := List.range 14 ++ [0x10, 0x11, 0x12, 0x13, 0x14, 0x18]

/-- An image under examination. -/
structure Image where
  bytes : Bytes
  code : List (BitVec 64)
  tensors : List TensorEntry
  pool : List Bytes

/-- The parts of an image that its header places. -/
def readImage (b : Bytes) : Image :=
  let n := field b 0x0C 4
  let entry (i : Nat) : TensorEntry :=
    let e := slice b (field b 0x20 8 + 80 * i) 80
    { role := byteAt e 0, argSlot := byteAt e 1, output := field e 2 2, desc := parseTensor (e.drop 0x10) }
  { bytes := b
    code := (List.range n).map fun i => BitVec.ofNat 64 (field b (field b 0x10 8 + 8 * i) 8)
    tensors := (List.range (field b 0x18 2)).map entry
    pool := (List.range (field b 0x1A 2)).map fun i => slice b (field b 0x28 8 + 32 * i) 32 }

/-- The kind of a pool entry; 0 where there is none. -/
def Image.kindAt (m : Image) (i : Nat) : Nat := byteAt (m.pool.getD i []) 0x1F

/-- A header out of its table's ranges. -/
def headerBad (b : Bytes) : Bool :=
  let kind := byteAt b 6
  let n := b.length
  let batch := field b 0x52 2
  let count := field b 0x54 2
  let bucket (i : Nat) : Nat := field b (0x58 + 2 * i) 2
  let status := field b 0x48 8
  n < 0x80 || field b 0 4 != 0x4B504731 || field b 4 2 != 1 || kind > 2 || byteAt b 7 > 3
    || field b 8 4 == 0 || field b 8 4 > 65536 || field b 0x0C 4 == 0 || field b 0x0C 4 > 262144
    || field b 0x10 8 % 64 != 0 || field b 0x18 2 == 0 || field b 0x18 2 > 256 || field b 0x1A 2 > 4096
    || !zeroAt b 0x1C 4 || field b 0x20 8 % 64 != 0 || field b 0x28 8 % 64 != 0 || field b 0x30 8 % 4096 != 0
    || field b 0x38 8 > 17179869184 || status ≥ 0xFC00000000 || !zeroAt b 0x56 2 || !zeroAt b 0x74 12
    || field b 0x50 2 != (if kind == 0 then 0 else if kind == 2 then 1 else field b 0x50 2)
    || (if kind == 1 then batch == 0 || batch > 4096 else batch != (if kind == 2 then 4096 else 0))
    || (if kind == 1 then count == 0 || count > 8 else count != 0)
    || (List.range 8).any (fun i => if i < count then bucket i % 16 != 0 || bucket i < 16 || bucket i > 2048
          || (i > 0 && bucket i ≤ bucket (i - 1)) else bucket i != 0)
    || field b 0x68 8 == 0 || field b 0x68 8 > 2 ^ 32
    || field b 0x10 8 + 8 * field b 0x0C 4 > n || field b 0x20 8 + 80 * field b 0x18 2 > n
    || field b 0x28 8 + 32 * field b 0x1A 2 > n || (field b 0x38 8 > 0 && field b 0x30 8 + field b 0x38 8 > n)
    || crc32 (b.take 0x70 ++ zeros 4 ++ b.drop 0x74) != field b 0x70 4

/-- A tensor table entry at fault (R308, R309, R365 to R367); the loader places T1 itself, so only tiers 0 (local), 1 and,
for arguments, any tier occur. -/
def entryBad (b : Bytes) (written : Bool) (i : Nat) (t : TensorEntry) : Bool :=
  let raw := slice b (field b 0x20 8 + 80 * i) 16
  let n := (t.desc.fmt?.map t.desc.span).getD 0
  t.role > 4 || !zeroAt raw 4 12 || t.desc.fieldBad
    || (if t.role == 1 then t.argSlot > 15 else t.argSlot != 0)
    || (if t.role == 2 then t.output > 63 else t.output != 0)
    || (match t.role with
        | 0 => t.desc.tier != 1 || t.desc.address + n > field b 0x38 8
        | 1 => t.desc.address != 0 || t.desc.moveBad !written
        | 4 => t.desc.tier != 0 || !localGood t.desc.address n
        | _ => t.desc.tier != 1)

/-- A pool entry at fault: its kind, its reserved bytes, and its own fields (R310, R311). -/
def Image.poolBad (m : Image) (i : Nat) : Bool :=
  let e := m.pool.getD i []
  match m.kindAt i with
  | 1 => byteAt e 3 != 0 || (Fmt.ofCode (byteAt e 4)).isNone || !zeroAt e 5 3 || !zeroAt e 0x18 7
      || !scaleGood (BitVec.ofNat 32 (field e 0xC 4))
  | 2 =>
    let b := e ++ m.pool.getD (i + 1) (zeros 32)
    let at3 (off last : Nat) : List Nat := [field b off 4, field b (off + 4) 4, field b (off + 8) 4, field b last 4]
    let ext := at3 4 0x2C
    let bad (t : Option TensorEntry) (origin : List Nat) : Bool :=
      t.all fun t => (List.range 4).any fun k => k ≥ t.desc.rank && (ext.getD k 0 != 1 || origin.getD k 0 != 0)
    m.kindAt (i + 1) != 3 || byteAt b 0 ≥ m.tensors.length || byteAt b 1 ≥ m.tensors.length || !zeroAt b 2 2
      || !zeroAt b 0x1C 3 || !zeroAt b 0x38 7 || ext.any (· == 0) || bad (m.tensors[byteAt b 0]?) (at3 0x10 0x30)
      || bad (m.tensors[byteAt b 1]?) (at3 0x20 0x34)
      || (match (m.tensors[byteAt b 0]?).bind (·.desc.fmt?), (m.tensors[byteAt b 1]?).bind (·.desc.fmt?) with
          | some f, some g => !exactTarget f g
          | _, _ => true)
  | 3 => i == 0 || m.kindAt (i - 1) != 2
  | 4 => !zeroAt e 0xC 4 || !zeroAt e 0x18 7
  | _ => true

/-- The last instruction of a LOOP's body, and of nothing for another instruction (R277). -/
def Image.bodyEnd (m : Image) (i : Nat) : Option Nat :=
  (m.code[i]?).bind fun w => if wf w 63 56 == 5 then some (i + wf w 15 0) else none

/-- An instruction at fault (R274, R276 to R278, R280, R281, R285, R295, R297, R298, R300, R301, R303, R311; log 36). -/
def Image.instrBad (m : Image) (i : Nat) (w : BitVec 64) : Bool :=
  let kind := byteAt m.bytes 6
  let resident := byteAt m.bytes 7 / 2 % 2 == 1
  let f := wf w
  match opcodeBits (f 63 56) with
  | none => true
  | some mask =>
    (w.toNat % 2 ^ 56 &&& mask) != w.toNat % 2 ^ 56 || unusedSet w
      || (match f 63 56 with
        | 0x04 => m.kindAt (f 11 0) != 1
        | 0x05 => f 15 0 == 0 || i + 1 + f 15 0 > m.code.length
            || (List.range (f 15 0)).any fun k => (m.bodyEnd (i + 1 + k)).any fun stop => stop > i + f 15 0
        | 0x06 => f 55 54 ≥ 2 && !resident
        | 0x07 => f 55 54 ≥ 2
        | 0x10 => m.kindAt (f 11 0) != 2
        | 0x18 => kind != 0
        | 0x30 => !vopOps.contains (f 55 50)
        | 0x38 => f 25 24 == 3 || (f 23 12 != 0 && (m.kindAt (f 23 12) != 4
            || (let b := clipBounds (m.pool.getD (f 23 12) []); b.2.lt b.1)))
        | 0x3C => f 42 39 % 2 != 0 || m.kindAt (f 34 23) != 4
        | 0x40 => f 55 54 == 3 || (f 55 54 == 0 && (f 53 42 == 0 || f 53 42 > 64))
        | _ => false)

/-- Whether the loader refuses an image (R307): some rule of chapter 9 that is checked at load is broken. -/
def imageBad (b : Bytes) : Bool :=
  if headerBad b then true else
  let m := readImage b
  let outs := (m.tensors.filter fun t => t.role == 2).map (·.output)
  ((List.range m.tensors.length).zip m.tensors).any (fun x => entryBad b (poolWrites m.pool x.1) x.1 x.2)
    || outs.length > 64 || (distinct outs).length != outs.length
    || (List.range m.pool.length).any m.poolBad
    || ((List.range m.code.length).zip m.code).any fun x => m.instrBad x.1 x.2

/-! ### Places in T1 (R307, R308, log 8) -/

/-- Descriptors placed one after another from an address, each on a 64-byte boundary. -/
def placeAll : Nat → List TensorDesc → List TensorDesc
  | _, [] => []
  | a, t :: r => { t with tier := 1, address := a } :: placeAll (a + roundUp ((t.fmt?.map t.span).getD 0) 64) r

/-- Bytes of a team's save area (R315). -/
def saveBytes : Nat := 64 * (355 * 1024) + 7864320

/-- Teams of a program whose state the save area holds at once. -/
def saveSlots (vcores : Nat) (resident : Bool) : Nat := if resident then ceilDiv vcores 64 else min 64 (ceilDiv vcores 64)

/-- Where a slot of a program's save area lies: at the end of the program's place in T1. -/
def Program.saveArea (p : Program) (slot : Nat) : Nat := p.base + p.bytes - (saveSlots p.vcores p.resident - slot) * saveBytes

/-- A checked image loaded: its program record, and the state with its data and code in T1; none where no spread region takes it. The
program's place holds the fixed data, then the status block (where the image leaves its place to the loader), output and scratch tensors,
code and save areas (log 8). -/
def State.loadImage (s : State) (b : Bytes) (coll : Nat) (payloads : Bool) : Option (State × Program) :=
  let m := readImage b
  let data := slice b (field b 0x30 8) (field b 0x38 8)
  let outs := (m.tensors.filter fun t => t.role == 2).length
  let own := m.tensors.filter fun t => t.role == 2 || t.role == 3
  let sizes := sumBy (fun t : TensorEntry => roundUp ((t.desc.fmt?.map t.desc.span).getD 0) 64) own
  let w := field b 8 4
  let resident := byteAt b 7 / 2 % 2 == 1
  let dataEnd := roundUp data.length 64
  let statEnd := dataEnd + roundUp (64 + 288 * outs) 64
  let bytes := statEnd + sizes + 8 * m.code.length + saveSlots w resident * saveBytes
  (s.findSpread 4096 bytes).map fun (s, base) =>
  let status := if field b 0x48 8 == 0 then base + dataEnd else field b 0x48 8
  let placed := placeAll (base + statEnd) (own.map (·.desc))
  let tensors := ((List.range m.tensors.length).zip m.tensors).map fun x =>
    let t := x.2
    if t.role == 0 then { t with desc := { t.desc with address := base + t.desc.address } }
    else if t.role == 2 || t.role == 3 then
      let k := ((m.tensors.take x.1).filter fun t => t.role == 2 || t.role == 3).length
      { t with desc := placed.getD k t.desc }
    else t
  let p : Program :=
    { handle := s.comp.nextHandle, kind := byteAt b 6, chunkIndep := byteAt b 7 % 2 == 1, resident, vcores := w
      code := m.code, tensors, pool := m.pool, seed := field b 0x40 8, status, outputDim := field b 0x50 2
      maxBatch := field b 0x52 2, buckets := (List.range (field b 0x54 2)).map (fun i => field b (0x58 + 2 * i) 2)
      maxCycles := field b 0x68 8, bound := if coll == 0xFFFF then none else some coll, bindPayloads := payloads, base, bytes }
  let s1 := (s.writeT1 base data).writeT1 (base + statEnd + sizes) (m.code.flatMap fun c => toLe 8 c.toNat)
  ({ s1 with comp.programs := s1.comp.programs ++ [p], comp.nextHandle := s1.comp.nextHandle + 1 }, p)

/-- PROGRAM_LOAD: the image is read and checked; 1,024 programs or want of T1 refuse it (R307). The codes of the refusals
are the model's choice (log 35). -/
def execProgramLoad (cells : Bytes) (host : HostImage) (s : State) : Host.Outcome State Fault Refusal :=
  let m := msgBytes cells
  let a := field m 0x20 8
  let n := field m 0x28 8
  let coll := field m 0x30 2
  let bad := fieldAt [(a + n > 2 ^ 47, 0x20), (coll > 0xFFF && coll != 0xFFFF, 0x30), (imageBad (hostRead host a n), 0x20)]
  messageEvent s ⟨0x50, 0x40, Component.loader, false⟩ cells [(0x32, 1, 0xFE), (0x33, 13, 0xFF)] true bad fun s seq =>
    if coll != 0xFFFF && (s.usable coll).isNone then s.refuse 0x50 seq 6 0x30 0
    else
      match if s.comp.programs.length ≥ 1024 then none else s.loadImage (hostRead host a n) coll (byteAt m 0x32 % 2 == 1) with
      | none => s.refuse 0x50 seq 7 noOffset 0
      | some (s1, p) => s1.reply 0x50 seq (toLe 4 p.handle ++ zeros 4 ++ toLe 8 p.status)

/-- Whether a program is bound: as a collection's embedding program, or as a rerank program (R318, R319). -/
def State.programBound (s : State) (p : Program) : Bool :=
  s.colls.any fun c => c.embed == p.handle || (p.bound == some c.cid)

/-- PROGRAM_UNLOAD (R318): a running or bound program stays loaded. -/
def execProgramUnload (cells : Bytes) (_host : HostImage) (s : State) : Host.Outcome State Fault Refusal :=
  let m := msgBytes cells
  let h := field m 0x20 4
  messageEvent s ⟨0x51, 0x30, Component.loader, false⟩ cells [(0x24, 12, 0xFF)] true
    (if (s.program? h).isNone then some 0x20 else none) fun s seq =>
    match s.program? h with
    | none => s.refuse 0x51 seq 6 0x20 0
    | some p =>
      if s.comp.runs.any (·.handle == h) || s.programBound p then s.refuse 0x51 seq 6 0x20 0
      else (State.freeRegions { s with comp.programs := s.comp.programs.filter fun q => q.handle != h }).reply 0x51 seq []

/-! ### Starting teams (R261 to R263, R267, R314 to R316, R332) -/

/-- Whether a window covers a round (a window may wrap past the cycle's end). -/
def TtWindow.covers (w : TtWindow) (t : Timetable) (base round : Nat) : Bool :=
  let at0 := (round - base) % t.cycle
  (at0 + t.cycle - w.first % t.cycle) % t.cycle < w.rounds

/-- The image whose windows a run uses: a rerank has those of the image that admitted its query (R345, R351). -/
def State.runImage (s : State) (r : Run) : Timetable × Nat :=
  match r.why with
  | .rerank cid _ => match (s.cmd? cid).map (fun c : Cmd => c.body) with
    | some (CmdBody.query q) => s.imageFor q.admitRound
    | _ => (s.active, s.clock.baseRound)
  | _ => (s.active, s.clock.baseRound)

/-- Whether a window of a run's kind gives a cluster to the round under way. -/
def State.inCluster (s : State) (r : Run) (cluster : Nat) : Bool :=
  let (t, base) := s.runImage r
  t.windows.any fun w => w.kind == r.why.window && w.clusters.contains cluster && w.covers t base s.clock.round

/-- A cluster is free for a team: in a window of the kind, in service, awake, and held by no team. -/
def State.clusterFree (s : State) (r : Run) (cluster : Nat) : Bool :=
  cluster < 64 && s.inCluster r cluster && !s.comp.out.contains cluster && !s.comp.asleep.contains cluster
    && !s.comp.runs.any fun r => r.teams.any fun t => t.2 == cluster

/-- Teams of a run that have neither ended nor a cluster, in ascending order. -/
def Run.waitingTeams (r : Run) (p : Program) : List Nat :=
  (List.range (ceilDiv p.vcores 64)).filter fun t => !r.teamsDone.contains t && !r.teams.any fun x => x.1 == t

/-- The rows that an embedding batch holds, or the candidates of a rerank, and the bucket length (R267). -/
def Run.presets (r : Run) (p : Program) : Nat × Nat :=
  let arg (i : Nat) : TensorDesc := ((r.args.find? fun a => a.1 == i).map (·.2)).getD (parseTensor [])
  if p.kind == 1 then ((arg 0).dim 1, (arg 0).dim 0) else if p.kind == 2 then ((arg 4).dim 0, 0) else (0, 0)

/-- A virtual core at its start (R267). -/
def newCore (r : Run) (p : Program) (v : Nat) : VCore :=
  let (s6, s7) := r.presets p
  { idx := v
    s := ([v, teamOf v, p.vcores, ceilDiv p.vcores 64, r.seed % 2 ^ 32, r.seed / 2 ^ 32, s6, s7].map (BitVec.ofNat 32))
      ++ List.replicate 8 0
    bufs := List.replicate 16 ⟨0, 0, 0, 0, 0⟩, tiles := List.replicate 32 Tile.cleared, loops := []
    sel := SelUnit.setUp 0 false 0 0, pc := 0, wait := none, ended := false, mem := [], bars := [0, 0, 0, 0], cycles := 0
    units := [0, 0, 0, 0, 0, 0], firstFlag := 0xFFFFFFFF }

/-- Whether a team's state in its program's save area cannot be read (R378), and the first word that cannot. -/
def State.saveBad (s : State) (r : Run) (p : Program) (team : Nat) : Option Nat :=
  (r.saved.find? fun x => x.1 == team).bind fun x => s.badWord (p.saveArea x.2) saveBytes

/-- A run with a team on a cluster: its virtual cores start, or go on from the team's save area (R315). -/
def Run.placeTeam (r : Run) (p : Program) (team cluster : Nat) : Run :=
  let fresh := if r.cores.any fun c => teamOf c.idx == team then []
    else (List.range (min 64 (p.vcores - 64 * team))).map fun k => newCore r p (64 * team + k)
  { r with teams := r.teams ++ [(team, cluster)], cores := r.cores ++ fresh, saved := r.saved.filter fun x => x.1 != team }

/-- Teams that leave their clusters, each saved in the lowest free slot of its program's save area (R315). The bytes there have no layout
in the spec: the run keeps the state, and the slot's words are written whole (R378, log 100). -/
def State.saveTeams (s : State) (r : Run) (p : Program) (gone : List Nat) : State :=
  gone.foldl (fun s team =>
    let used := (s.comp.runs.filter fun x => x.handle == r.handle).flatMap fun x => x.saved.map (·.2)
    let slot := ((List.range (saveSlots p.vcores p.resident)).find? fun k => !used.contains k).getD 0
    { s.updRun r.rid fun r => { r with teams := r.teams.filter (fun t => t.1 != team), saved := r.saved ++ [(team, slot)] } with
      mem.poison := cleanPoison s.mem.poison (p.saveArea slot) saveBytes }) s

/-- Teams whose cluster has no window of their kind in this round leave it, their state saved. -/
def State.moveTeams (s : State) : State :=
  s.comp.runs.foldl (fun s r => match s.program? r.handle with
    | some p => s.saveTeams r p ((r.teams.filter fun t => !s.inCluster r t.2).map (·.1))
    | none => s) s

/-- Whether an earlier RUN_PROGRAM of the same handle is still under way (R314). -/
def State.runTurn (s : State) (r : Run) : Bool :=
  match r.why with
  | .command _ => !s.comp.runs.any fun x => x.rid < r.rid && x.handle == r.handle && x.why.window == 3
  | _ => true

/-- TEAM_START: clusters of an open window are free for a run's next teams. A RUN_PROGRAM whose status block was not
cleared at its fetch, since another run of the handle was under way, has it cleared now (R257). A saved team whose state meets an
uncorrectable word stops the program (R306). A self-test gives way (R679). -/
def execTeamStart (run : Nat) (placed : List (Nat × Nat)) (s : State) : Host.Outcome State Fault Refusal :=
  match s.run? run with
  | none => .next s
  | some r =>
    match s.program? r.handle with
    | none => .next s
    | some p =>
      let waiting := r.waitingTeams p
      let held := match r.why with
        | .command cid => !((s.cmd? cid).any fun c => c.held.isNone && (c.admitted || s.serves Component.loader))
        | _ => false
      let ok := !placed.isEmpty && !held && s.runTurn r && r.fault.isNone && !r.medium && s.power.applied == 0 && !s.regs.shelter
        && placed.map (·.1) == waiting.take placed.length && (!p.resident || placed.length == waiting.length)
        && (distinct (placed.map (·.2))).length == placed.length
        && placed.all (fun x => s.clusterFree r x.2)
      let s1 := match r.why with
        | .command cid => (if r.cleared then s else s.writeT1 p.status (clearedStatus p)).updCmd cid ({ · with admitted := true })
        | _ => s
      let s2 := (s1.updRun run ({ · with cleared := true })).interruptTests (placed.map (·.2))
      event s ok
        (match placed.findSome? fun x => s.saveBad r p x.1 with
          | some word => s.settled (((s2.wordRecord r word).updRun run ({ · with medium := true })).settleRun run)
          | none => s2.updRun run fun r => placed.foldl (fun r x => r.placeTeam p x.1 x.2) r)

/-! ### Transfers (R272, R283, R284, R306, R310, R388) -/

/-- Cores that waited for their last transfer go on, or end (R282). -/
def Run.wake (r : Run) (p : Program) : Run :=
  let step (c : VCore) : VCore :=
    if c.wait == some .ending && (r.movesOf c.idx).isEmpty then { c with ended := true, wait := none } else c
  ({ r with cores := r.cores.map step }).closeTeams p

/-- The record of a transfer's uncorrectable source: the word or the sector that could not be read (R306, R378, R399). -/
def State.transferRecord (s : State) (r : Run) (t : Transfer) (f : Fmt) : State :=
  let rows := readRows t.src f t.extent t.srcOrigin
  let c := s.cmd? r.why.cmd
  match t.src.rsv3, t.src.tier with
  | 0, 1 => (rows.findSome? fun x => s.badWord x.1 x.2).elim s (s.wordRecord r)
  | 0, 3 =>
    let bad := rows.findSome? fun x => (sortNats (s.store.failing.filter fun k => k * 4096 < x.1 + x.2 && x.1 < (k + 1) * 4096)).head?
    bad.elim s fun k => s.record { code := 0x0020, severity := 1, address := k, tag := (c.map (·.hdr.tag)).getD 0
                                   ring := (c.map (·.ring)).getD 0 }
  | _, _ => s

/-- TRANSFER_COMPLETE: a transfer's elements are copied, or it met an error and stops the program (R306). A scan ends
with its lane pass, so here only moves complete. -/
def execTransferComplete (run transfer : Nat) (host : HostImage) (s : State) : Host.Outcome State Fault Refusal :=
  match s.run? run with
  | none => .next s
  | some r =>
    match r.moves.find? fun t => t.tid == transfer && !t.scan, s.program? r.handle with
    | some t, some p =>
      match t.src.fmt?, t.dst.fmt? with
      | some f, some g =>
        let drop (s : State) : State := s.updRun run fun r => { r with moves := r.moves.filter fun x => x.tid != transfer }
        let n := t.outBytes p r g
        let bad := s.transferFails r t f g
        let s1 := if bad then (drop (s.transferRecord r t f)).updRun run fun r => { r with medium := true }
          else (drop (s.carryOut r t f g host)).updRun run fun r => ({ r with wrote := r.wrote + n }).wake p
        let named := [(t.src, t.src.rsv3), (t.dst, t.dst.rsv3)].filterMap fun d => if d.2 == 0 && d.1.tier == 2 then some d.1 else none
        event s (named.isEmpty || bad || (s.flownOver t.flown && !s.t2Shed named)) (s.settled ((s1.settleRun run).announceBar run))
      | _, _ => .next s
    | _, _ => .next s

/-! ### The end of a run (R257, R305, R320) -/

/-- CYCLE_LIMIT: a team has taken more cycles than its image allows: the issue of one of its cores has come to that, or a core waits, and
how long the model does not say (log 99). Which of its cores the fault names is then open: free (log 2). -/
def execCycleLimit (run team : Nat) (s : State) : Host.Outcome State Fault Refusal :=
  match s.run? run with
  | none => .next s
  | some r =>
    let mine := r.cores.filter fun c => teamOf c.idx == team && !c.ended
    let late := mine.find? fun c => (s.program? r.handle).any fun p => c.cycles > p.maxCycles
    let waits := mine.any (·.wait.isSome) || r.moves.any fun t => teamOf t.vcore == team
    match late.orElse fun _ => if waits then mine[Config.freeNat s.free % mine.length]? else none with
    | some c =>
      event s (r.fault.isNone && !r.medium && r.teams.any fun t => t.1 == team)
        (s.settled ((s.faultRun run faultCycles c.pc c.idx).draw 1))
    | none => .next s

/-- The rows that an embedding batch left in its output tensor (R171). -/
def State.rowCodes (s : State) (t : TensorDesc) (row dim : Nat) : List Nat :=
  (List.range dim).map fun j => t.element .k16 (Mem.get s.mem.hbm) [j, row, 0, 0]

/-- An ended embedding batch: its K16 rows become its chunks' vectors (R172, R179); a row with a NaR element ends the
whole command (R173). -/
def State.endEmbed (s : State) (r : Run) (cid first count : Nat) : State :=
  match s.cmd? cid, r.args.find? fun a => a.1 == 2 with
  | some c, some out =>
    let dim := out.2.dim 0
    let rowsOf := (List.range count).map fun i => s.rowCodes out.2 i dim
    match (List.range count).find? fun i => (rowsOf.getD i []).any (inputRefused .k16) with
    | some i => (s.dropWork c).complete cid (.invalid 7 (first + i))
    | none =>
      s.updMutation cid fun m =>
        { m with entries := ((List.range m.entries.length).zip m.entries).map (fun x =>
                   if first ≤ x.1 && x.1 < first + count then { x.2 with vec := some ⟨.k16, rowsOf.getD (x.1 - first) []⟩ } else x.2)
                 chunks := ((List.range m.chunks.length).zip m.chunks).map fun x =>
                   if first ≤ x.1 && x.1 < first + count then { x.2 with plain := [], tokens := [] } else x.2 }
  | _, _ => s

/-- The candidates that a rerank scores: the refined list, or the candidate list (R98). -/
def Member.toRerank (m : Member) (refine : Nat) : List Entry := if refine == 0 then m.cand else m.refined

/-- An ended rerank: each candidate takes the negated score as its distance and key (R98, R99, R101). -/
def State.endRerank (s : State) (r : Run) (cid member : Nat) : State :=
  match r.args.find? fun a => a.1 == 4 with
  | none => s
  | some out =>
    s.updCmd cid fun c => match c.body with
      | .query q =>
        let upd (m : Member) : Member :=
          let src := m.toRerank q.plan.refine
          let scored := ((List.range src.length).zip src).map fun x =>
            let code := out.2.element .f32 (Mem.get s.mem.hbm) [x.1, 0, 0, 0]
            let nar := (decodeF32 code).isNar
            let neg := cleanZero (code ^^^ 0x80000000)
            (nar, { x.2 with key := rankKey nar neg, dist := BitVec.ofNat 32 neg })
          { m with reranked := some ((scored.filter fun x => !x.1).map (·.2)), narRerank := (scored.filter (·.1)).length }
        { c with body := .query { q with members := updWhere (fun m => m.idx == member) upd q.members } }
      | _ => c

/-- PROGRAM_END: every team has ended and no transfer is in flight: the status block is written and RUN_PROGRAM completes
(R257), or an invocation delivers its results (R322). -/
def execProgramEnd (run : Nat) (s : State) : Host.Outcome State Fault Refusal :=
  match s.run? run with
  | none => .next s
  | some r =>
    match s.program? r.handle with
    | none => .next s
    | some p =>
      let s1 := s.removeRun run
      event s (r.fault.isNone && !r.medium && r.moves.isEmpty && r.cores.length == p.vcores && r.cores.all (·.ended)
          && !(match r.why with
            | .command cid => (s.cmd? cid).any fun c => c.held.isSome
            | _ => false))
        (match r.why with
        | .command cid => (s1.writeT1 p.status r.statusBytes).complete cid { Result.of 0 with c := p.status }
        | .embed cid first count => s1.endEmbed r cid first count
        | .rerank cid member => s1.endRerank r cid member)

/-! ### Embedding batches and reranks (R171, R320) -/

/-- Dense T1 tensors for an invocation's arguments, placed one after another (log 8); none where no spread region takes them. -/
def State.argTensors (s : State) (l : List (Nat × TensorDesc)) : Option (State × List (Nat × TensorDesc)) :=
  let n := sumBy (fun x : Nat × TensorDesc => roundUp ((x.2.fmt?.map x.2.span).getD 0) 64) l
  (s.findSpread 4096 n).map fun x => (x.1, (l.map (·.1)).zip (placeAll x.2 (l.map (·.2))))

/-- A dense tensor of a format and dimensions, its scale one. -/
def denseTensor (f : Fmt) (dims : List Nat) : TensorDesc :=
  let d (k : Nat) : Nat := dims.getD k 1
  { tier := 1, format := f.code, rank := dims.length, rsv3 := 0, scale := 0x3F800000, address := 0
    dims := [d 0, d 1, d 2, d 3]
    strides := [if dims.length > 1 then d 0 else 0, if dims.length > 2 then d 0 * d 1 else 0, if dims.length > 3 then d 0 * d 1 * d 2 else 0]
    rsvTail := 0 }

/-- The smallest bucket that holds a length (R171). -/
def Program.bucket (p : Program) (n : Nat) : Nat := (p.buckets.find? fun b => n ≤ b).getD 0

/-- EMBED_BATCH: the chunks first … first + count − 1 of a pending EMBED_INSERT go to the embedding program of its
collection in one batch, once T1 takes its tensors. -/
def execEmbedBatch (cid first count : Nat) (s : State) : Host.Outcome State Fault Refusal :=
  match s.cmd? cid with
  | none => .next s
  | some c =>
    match c.mutation?, (s.coll? c.hdr.collection).bind fun k => s.program? k.embed with
    | some m, some p =>
      let chunks := (m.chunks.drop first).take count
      let longest := (chunks.map fun k => k.tokens.length).foldl max 0
      let t := p.bucket longest
      let busy := s.comp.runs.any fun r => match r.why with
        | .embed x a n => x == cid && first < a + n && a < first + count
        | _ => false
      let args := [(0, denseTensor .u32 [t, count]), (1, denseTensor .u32 [count]), (2, denseTensor .k16 [p.outputDim, count])]
      match s.argTensors args with
      | none => .next s
      | some (s0, l) =>
      let addr (i : Nat) : Nat := ((l.find? fun a => a.1 == i).map fun a => a.2.address).getD 0
      let toks := chunks.flatMap fun k => (k.tokens ++ List.replicate (t - k.tokens.length) 0).flatMap (toLe 4)
      let lens := chunks.flatMap fun k => toLe 4 k.tokens.length
      let s1 := (s0.writeT1 (addr 0) toks).writeT1 (addr 1) lens
      event s (decide (m.kind = .embed) && !c.admitted && c.held.isNone && s.compUp Component.ingest && count > 0
          && count ≤ p.maxBatch && first + count ≤ m.chunks.length && t > 0 && !busy
          && ((m.entries.drop first).take count).all (fun e => e.vec.isNone)) (s1.newRun p (.embed cid first count) p.seed l)
    | _, _ => .next s

end Sys2Proof.Machine
end

