-- ==== Sys2Proof/Machine/Power.lean ====
section
/-!
DEFINITION. Power (chapter 18, chapter 20): the ledger loop and the clamp, the board cap, the shedding stages and what they
add, supply and temperature limits, and the sleep and waking of clusters and dies.
-/

namespace Sys2Proof.Machine

/-! ### What a rising stage adds (R105, R108, R316, R389, R635, R636) -/

/-- A query whose rerank has not ended completes without it (R105). -/
def QueryWork.skipRerank (q : QueryWork) : QueryWork :=
  if q.plan.rerank == 0 || q.phase == .waiting || q.phase == .final then q
  else { q with members := q.members.map (fun m => { m with rerankSkipped := m.rerankSkipped || m.reranked.isNone })
                phase := if q.phase == .rerank then .final else q.phase }

/-- Stage 1: every program is paused, its state saved (R315, R316); no rerank runs, and its charges are released. -/
def State.addStage1 (s : State) : State :=
  let rerank (r : Run) : Bool := r.why.window == 2
  let s1 := (s.comp.runs.filter rerank).foldl (fun s r => (s.finishMoves r []).removeRun r.rid) s
  let skip (c : Cmd) : Cmd := match c.body with
    | .query q => { c with body := .query q.skipRerank }
    | _ => c
  { s1 with comp.runs := s1.comp.runs.map (fun r => { r with teams := [] }), comp.ledger.rerank := [], rings.cmds := s1.rings.cmds.map skip }

/-- Stage 2: a MOVE_TENSOR that names T2 and has not started ends with SHED. -/
def State.addStage2 (s : State) : State :=
  s.endAll (fun c => c.held.isNone && match c.body with
    | .move m => m.namesT2 && !m.started
    | _ => false) (.of 9)

/-- Stage 3: mutations not admitted end with SHED. -/
def State.addStage3 (s : State) : State :=
  s.endAll (fun c => c.held.isNone && !c.admitted && c.mutation?.isSome) (.of 9)

/-- The journal flushed: every part that is issued is on the medium, and mutations whose last part it was commit. -/
def State.flushJournal (s : State) : State :=
  if !s.compUp Component.store0 then s else
  s.rings.cmds.foldl (fun s c => match c.mutation? with
    | some m =>
      if !m.admitted || c.finished then s else
      let s1 := { s with store.journal := updWhere (fun j => j.mutationId == m.mutationId && j.kind < 3) ({ · with onMedium := true }) s.store.journal }
      (s1.updMutation c.cid fun m => { m with onMedium := List.range m.issued, lastOnMedium := m.issued == m.parts }).tryCommit c.cid
    | none => s) s

/-- Stage 5: the journal is flushed, and waiting queries end with SHED. -/
def State.addStage5 (s : State) : State :=
  s.flushJournal.endAll (fun c => !c.admitted && match c.body with
    | .query _ => true
    | _ => false) (.of 9)

/-- The additions of stages 1, 2, 3 and 5 that a stage in force carries and that are not applied yet. Stage 4 is the lean
plan, from the next round start (R354). -/
def State.addStages (s : State) : State :=
  let from_ := s.power.applied
  let top := s.shed
  let s1 := if from_ < 1 && 1 ≤ top then s.addStage1 else s
  let s2 := if from_ < 2 && 2 ≤ top then s1.addStage2 else s1
  let s3 := if from_ < 3 && 3 ≤ top then s2.addStage3 else s2
  let s4 := if from_ < 5 && 5 ≤ top then s3.addStage5 else s3
  { s4 with power.applied := max from_ top }

/-- What follows when the stage in force may have changed from an earlier one: additions, the announcement, and the tensor
clock, which restarts at 0.3 GHz when the stage falls to 0 (R633). -/
def State.restage (s : State) (old : Nat) : State :=
  let new := s.shed
  let s1 := s.addStages
  let s2 := if new == 0 && old > 0 then { s1 with power.tensor := 2 } else s1
  if new != s2.power.announced then ({ s2 with power.announced := new }).announce 0x08 (toLe 1 new) else s2

/-! ### The ledger loop (R627 to R633, R639, R696, R727) -/

/-- The cap and a lower sense ceiling that apply from this loop. -/
def Power.begin (p : Power) : Power :=
  { p with cap := p.capNext.getD p.cap, capNext := none, sense := p.senseLow.getD p.sense, senseLow := none }

/-- The thermal ceiling of R639; temperatures are in units of 0.125 °C. -/
def State.thermalStep (s : State) (die : Int) : State :=
  if die > 95 * 8 then { s with power.thermal := s.ceiling - 25, power.thermalLoops := 0 }
  else if die ≤ 92 * 8 && s.power.thermal < 600 then
    if s.power.thermalLoops ≥ 9 then
      let free := { s with power.thermal := 600 }
      let up := s.power.thermal + 25
      { s with power.thermal := if up ≥ free.ceiling then 600 else up, power.thermalLoops := 0 }
    else { s with power.thermalLoops := s.power.thermalLoops + 1 }
  else { s with power.thermalLoops := 0 }

/-- The tensor clock and the cap stage after a loop with mean input power p (R629, R630, R633). -/
def State.capStep (s : State) (p : Nat) : State :=
  let c := s.ceiling
  let t := s.power.tensor
  let tensor := if p > c then t - 2 else if p + 10 > c then t - 1 else if p + 40 < c then t + 1 else t
  let over2 := if t == 2 && p > c then s.power.over2 + 1 else 0
  let n := s.power.capStage
  let over5 := if n ≥ 1 && p > c then s.power.over5 + 1 else 0
  let under := if p + 50 ≤ c then s.power.under + 1 else 0
  let stage := if c < 250 then 5
    else if n == 0 then (if over2 ≥ 2 then 1 else 0)
    else if over5 ≥ 5 then min 5 (n + 1)
    else if under ≥ 100 then n - 1 else n
  { s with power := { s.power with
    tensor := max 2 (min 12 tensor), capStage := stage
    over2 := if stage == n then over2 else 0
    over5 := if stage == n && over5 < 5 then over5 else 0
    under := if stage == n then under else 0 } }

/-- The reply of a POWER_CAP at the loop that applies it. -/
def State.capBody (s : State) : Bytes :=
  toLe 2 s.power.cap ++ toLe 2 s.power.sense ++ toLe 2 s.power.thermal ++ toLe 2 s.ceiling ++ toLe 1 s.shed ++ toLe 1 s.stageSources
    ++ toLe 2 s.power.input ++ toLe 2 s.power.watts ++ zeros 2

/-- The cap in force written as the default: record 0x0020, whose empty body stands for the value beside it (log 12). -/
def State.writeDefaultCap (s : State) : State :=
  let put (r : CfgRecord) : CfgRecord := if r.num == 0x0020 then r.write (max r.seqA r.seqB + 1) [] else r
  { s with power.capDefault := s.power.cap, fw.records := s.fw.records.map put }

/-- POWER_CAP messages answered in order of arrival. -/
def State.answerCaps (s : State) : State :=
  s.power.capMsgs.foldl (fun (s : State) (m : Nat × Bool) =>
    (if m.2 then s.writeDefaultCap else s).replyLater 0x70 (some m.1) s.capBody) ({ s with power.capMsgs := [] })

/-- The SMBus registers and readings of a loop. -/
def State.smbUpdate (s : State) (r : LoopReading) : State :=
  { s with power := { s.power with
    input := r.millivolts, watts := r.power, capReg := s.power.cap, statusReg := s.smbStatusNow
    ceilingReg := if s.regs.step ≤ 1 then 0 else s.ceiling
    temps := [r.dieTemp, r.hbmTemp, r.flashTemp, r.cageTemp] } }

/-- The SMBus registers of a loop without 12 V (R727). -/
def State.smbUnpowered (s : State) (r : LoopReading) : State :=
  { s with power := { s.power.unpowered with input := r.millivolts, watts := r.power, capReg := s.power.cap } }

/-- LEDGER_LOOP. The cap stage, the thermal ceiling and the tensor clock follow once the device is at READY. -/
def execLedgerLoop (r : LoopReading) (s : State) : Host.Outcome State Fault Refusal :=
  let s1 := { s with power := { s.power.begin with clampLimit := false } }
  let low := senseCeiling r.sense0Open r.sense1Open
  let s2 := if s.regs.step ≥ 2 && low < s1.power.sense then { s1 with power.senseLow := some low } else s1
  let s3 := if s.regs.step ≥ 2 then s2.thermalStep r.dieTemp else s2
  let s4 := if s.regs.ready then (s3.capStep r.power).restage s.shed else s3
  let s5 := { s4 with power.input := r.millivolts, power.watts := r.power }
  event s (s.power.v33 && s.fw.lodge == .up)
    (if s.power.v12 then s5.answerCaps.smbUpdate r else s1.smbUnpowered r)

/-- POWER_CLAMP (R631, R642): every 10 µs, the limit of window clusters; during a lodge restart at 250 W, with new walk steps
and lane passes withheld. -/
def execPowerClamp (mean : Nat) (s : State) : Host.Outcome State Fault Refusal :=
  event s s.power.v12
    (if s.fw.lodge == .up then { s with power.clampLimit := s.power.clampLimit || 10 * mean > 11 * s.ceiling }
     else { s with power.clampLimit := s.power.clampLimit || mean > 250, power.clampHold := mean > 250 })

/-- POWER_CAP: applied and answered at the next ledger loop (R627). -/
def execPowerCap (cells : Bytes) (_host : HostImage) (s : State) : Host.Outcome State Fault Refusal :=
  let m := msgBytes cells
  let w := field m 0x20 2
  messageEvent s ⟨0x70, 0x30, Component.lodge, false⟩ cells [(0x22, 1, 0xFE), (0x23, 13, 0xFF)] true
    (fieldAt [(w != 0 && (w < 250 || w > 600 || w % 25 != 0), 0x20)]) fun s seq =>
      { s with power.capNext := if w == 0 then s.power.capNext else some w
               power.capMsgs := s.power.capMsgs ++ [(seq, byteAt m 0x22 % 2 == 1)] }

/-! ### Voltage and PWRBRK# (R632, R634, R637, R691) -/

/-- The stage thresholds, in mV. -/
def stageThresholds : List Nat := [11700, 11500, 11300, 11150, 11040]

/-- The highest stage whose threshold, raised by a margin, an input lies below. -/
def voltageStage (mv margin : Nat) : Nat := (stageThresholds.filter fun t => mv < t + margin).length

def execVoltageStageRise (millivolts : Nat) (s : State) : Host.Outcome State Fault Refusal :=
  let n := voltageStage millivolts 0
  event s (s.regs.ready && s.fw.lodge == .up && n > s.power.voltage)
    (({ s with power.voltage := n }).restage s.shed)

/-- VOLTAGE_STAGE_FALL: the lowest input of the last 100 ms decides. -/
def execVoltageStageFall (millivolts : Nat) (s : State) : Host.Outcome State Fault Refusal :=
  let n := voltageStage millivolts 100
  event s (s.regs.ready && s.fw.lodge == .up && n < s.power.voltage)
    (({ s with power.voltage := n }).restage s.shed)

/-- PWRBRK_ASSERT: stage 3, which the always-on domain applies whether or not the lodge restarts. -/
def execPwrbrkAssert (s : State) : Host.Outcome State Fault Refusal :=
  event s (s.power.v33 && !s.power.pwrbrk)
    (let s1 := { s with power.pwrbrk := true }
     if s.regs.ready then s1.restage s.shed else s1)

def execPwrbrkDeassert (s : State) : Host.Outcome State Fault Refusal :=
  event s (s.power.v33 && s.power.pwrbrk)
    (let s1 := { s with power.pwrbrk := false }
     if s.regs.ready then s1.restage s.shed else s1)

/-- SUPPLY_OUT_OF_SPEC: a low input holds a start-up that runs instead (R649). -/
def execSupplyOutOfSpec (millivolts : Nat) (s : State) : Host.Outcome State Fault Refusal :=
  event s (s.alwaysOn && (millivolts > 12960 || (millivolts < 11040 && !s.starting)))
    (s.raise { code := 0x0040, severity := 3, unitKind := 14 })

/-! ### Temperatures (R640, R641) -/

/-- A sensor's number (the model's own, log 6). -/
def sensorNum : Sensor → Nat
  | .die n => n
  | .hbm n => 32 + n
  | .flash n => 40 + n
  | .cage n => 48 + n

/-- A sensor's stage threshold, its stage, and its shelter limit, in 0.125 °C (the table of thermal limits). -/
def sensorLimits : Sensor → Option (Int × Nat) × Option Int
  | .die _ => (none, some (110 * 8))
  | .hbm _ => (some (85 * 8, 4), some (95 * 8))
  | .flash _ => (some (80 * 8, 3), some (85 * 8))
  | .cage _ => (none, none)

/-- A stage that a sensor holds, set or replaced. -/
def State.holdStage (s : State) (sensor : Sensor) (stage : Nat) : State :=
  { s with power.thermalStages := (sensorNum sensor, stage) :: s.power.thermalStages.filter fun x => x.1 != (sensorNum sensor) }

/-- THERMAL_THRESHOLD: a compute die's throttle acts through the ledger loop (R639); an HBM or flash sensor above its threshold
holds a stage; a flash sensor above 70 °C halves the rate of host-area and upkeep programs. -/
def execThermalThreshold (sensor : Sensor) (temp : Int) (s : State) : Host.Outcome State Fault Refusal :=
  let s1 := match sensor with
    | .flash _ => { s with power.flashThrottle := temp > 70 * 8 }
    | _ => s
  let s2 := match (sensorLimits sensor).1 with
    | some (t, n) => if temp > t then s1.holdStage sensor n else s1
    | none => s1
  event s (s.alwaysOn && s.fw.lodge == .up && (sensorLimits sensor).2.isSome)
    (if s.regs.ready then s2.restage s.shed else s2)

/-- THERMAL_STAGE_END: 3 °C below its threshold for 1 s. -/
def execThermalStageEnd (sensor : Sensor) (s : State) : Host.Outcome State Fault Refusal :=
  let s1 := { s with power.thermalStages := s.power.thermalStages.filter fun x => x.1 != (sensorNum sensor) }
  event s (s.fw.lodge == .up && s.power.thermalStages.any fun x => x.1 == (sensorNum sensor))
    (if s.regs.ready then s1.restage s.shed else s1)

/-- THERMAL_LIMIT: a sensor at its shelter limit. -/
def execThermalLimit (sensor : Sensor) (temp : Int) (s : State) : Host.Outcome State Fault Refusal :=
  event s (s.alwaysOn && (sensorLimits sensor).2.any fun t => temp ≥ t)
    (s.raise { code := 0x0041, severity := 3, unitKind := 15, unit := (sensorNum sensor) })

/-! ### Clusters and dies asleep (R22, R333, R625, R626) -/

/-- The die of a cluster. -/
def dieOf (cluster : Nat) : Nat := cluster / 32

/-- Whether a die is in deep sleep. -/
def State.dieAsleep (s : State) (die : Nat) : Bool := s.comp.dieSleep.getD die false

/-- Whether a window opens at a round. -/
def State.opensAt (s : State) (w : TtWindow) (round : Nat) : Bool :=
  s.active.place s.clock.baseRound round == w.first % s.active.cycle

/-- Whether a pre-wake window that names clusters of a kind opens within some ticks. -/
def State.prewakeWithin (s : State) (ticks : TtWindow → Nat) (named : TtWindow → Bool) : Bool :=
  s.active.windows.any fun w => w.prewake != 0 && named w &&
    (List.range (ceilDiv (ticks w) s.active.ticks + 2)).any fun k =>
      s.opensAt w (s.clock.round + k) && s.clock.groupTime ≤ s.roundTick (s.clock.round + k)
        && s.roundTick (s.clock.round + k) ≤ s.clock.groupTime + ticks w

/-- CLUSTER_SLEEP: a cluster on which no team stands. -/
def execClusterSleep (cluster : Nat) (s : State) : Host.Outcome State Fault Refusal :=
  event s (cluster < 64 && !s.comp.asleep.contains cluster && s.fw.lodge == .up && !s.comp.runs.any fun r => r.teams.any fun t => t.2 == cluster)
    { s with comp.asleep := s.comp.asleep ++ [cluster] }

/-- A cluster's clock runs again; its memories are as they were. -/
def State.wakeCluster (s : State) (cluster : Nat) : State := { s with comp.asleep := s.comp.asleep.filter fun c => c != cluster }

/-- An upkeep window gives a cluster to the round under way, and an upkeep job waits for one (R332, R333). -/
def State.upkeepWants (s : State) (cluster : Nat) : Bool :=
  (s.active.windows.any fun w => w.kind == 1 && w.clusters.contains cluster && w.covers s.active s.clock.baseRound s.clock.round)
    && s.colls.any fun c => c.upkeep.any s.upkeepRuns

/-- Work waits for a window that names a cluster in the round under way: a run's teams, or upkeep. -/
def State.clusterWanted (s : State) (cluster : Nat) : Bool :=
  (s.comp.runs.any fun r => s.inCluster r cluster && (s.program? r.handle).any fun p => !(r.waitingTeams p).isEmpty)
    || s.upkeepWants cluster

/-- CLUSTER_WAKE: work waits for a window that names the cluster. -/
def execClusterWake (cluster : Nat) (s : State) : Host.Outcome State Fault Refusal :=
  event s (cluster < 64 && s.comp.asleep.contains cluster && !s.comp.out.contains cluster && !s.regs.shelter && s.fw.lodge == .up
      && !s.dieAsleep (dieOf cluster) && s.clusterWanted cluster) (s.wakeCluster cluster)

/-- PREWAKE: prewake_ticks before a window's first round. -/
def execPrewake (cluster : Nat) (s : State) : Host.Outcome State Fault Refusal :=
  event s (cluster < 64 && s.comp.asleep.contains cluster && !s.comp.out.contains cluster && !s.regs.shelter && s.fw.lodge == .up
      && !s.dieAsleep (dieOf cluster) && s.prewakeWithin (·.prewake) fun w => w.clusters.contains cluster) (s.wakeCluster cluster)

/-- The HBM stacks of a die. -/
def stacksOf (die : Nat) : List Nat := (List.range 4).map (4 * die + ·)

/-- DIE_DEEP_SLEEP: with its clusters asleep, no admitted work, no pre-wake window within 1 ms, and on die 0 the watcher
asleep. -/
def execDieDeepSleep (die : Nat) (s : State) : Host.Outcome State Fault Refusal :=
  let mine := (List.range 32).map (32 * die + ·)
  let quiet := s.comp.runs.isEmpty && s.comp.passes.isEmpty && s.rings.cmds.all fun c => !c.admitted || c.finished
  event s (die < 2 && s.regs.ready && !s.dieAsleep die && s.fw.lodge == .up && mine.all (fun c => s.comp.asleep.contains c || s.comp.out.contains c)
      && quiet && !s.prewakeWithin (fun _ => ticksPerMs) (fun w => w.clusters.any fun c => dieOf c == die)
      && (die == 1 || s.regs.asleep))
    { s with comp.dieSleep := s.comp.dieSleep.set die true, mem.selfRefresh := sortNats (s.mem.selfRefresh ++ stacksOf die) }

/-- DIE_WAKE: with the skipped maintenance steps and housekeeping to run. -/
def execDieWake (die : Nat) (s : State) : Host.Outcome State Fault Refusal :=
  event s (die < 2 && s.dieAsleep die)
    { s with comp.dieSleep := s.comp.dieSleep.set die false, comp.housekeeping := sortNats (die :: s.comp.housekeeping)
             mem.selfRefresh := if s.regs.shelter then s.mem.selfRefresh else s.mem.selfRefresh.filter fun k => !(stacksOf die).contains k }

end Sys2Proof.Machine
end

