-- ==== Sys2Proof/Machine/Queries.lean ====
section
/-!
DEFINITION. A query after its admission (chapters 3 to 5): the walk, scan jobs on the trellis lanes with batching, the candidate
list, refinement, rerank, and the final round with sealing (chapter 17); and the same work where this module serves a
request of another coordinator (chapters 10, 12).
-/

namespace Sys2Proof.Machine

/-! ### The scan ledger (R80, R81, R84) -/

/-- Bytes added to the scan ledger of a stack. -/
def State.chargeScan (s : State) (stack bytes : Nat) : State :=
  { s with comp.ledger.scan := updAt stack (· + bytes) s.comp.ledger.scan }

/-- The last charge of a coordinator at a place, lowered. -/
def lowerLast (coord place n : Nat) : List (Nat × Nat × Nat) → List (Nat × Nat × Nat)
  | [] => []
  | x :: r =>
    let hit (y : Nat × Nat × Nat) : Bool := y.1 == coord && y.2.1 == place
    if hit x && !r.any hit then (coord, place, x.2.2 - n) :: r else x :: lowerLast coord place n r

/-- Bytes released from it, and from the charges of the coordinator whose job it was (R84, R339). -/
def State.releaseScan (s : State) (coord stack bytes : Nat) : State :=
  { s with comp.ledger.scan := updAt stack (· - bytes) s.comp.ledger.scan
           comp.ledger.shares := lowerLast coord stack bytes s.comp.ledger.shares }

/-- Bytes that a set of partitions costs each stack for a number of passes. -/
def Collection.scanCost (c : Collection) (g : Generation) (snap passes : Nat) (parts : List Nat) : List (Nat × Nat) :=
  parts.filterMap fun p => (g.part? p).map fun r => (r.stack, c.partBytes g snap p * passes)

/-! ### Scan jobs (R84, R93, R148) -/

/-- The list of a partition's placement at this module, changed. -/
def Member.updList (m : Member) (part holder : Nat) (f : PartList → PartList) : Member :=
  { m with lists := updWhere (fun l => l.part == part && l.holder == holder) f m.lists }

/-- The module that coordinates the query of a number. -/
def State.coordOf (s : State) (n : Nat) : Nat :=
  ((s.group.requests.find? fun r => r.served != 0 && r.served == n).map (·.coord)).getD s.group.index

/-- A pass of a partition's job begun: its lane jobs queued, or joined, when its charge is released (R84); a partition without
segments ends its job with an empty list. -/
def State.beginPass (s : State) (c : Collection) (n i part : Nat) : State :=
  match (s.work? n).bind fun w => (w.2.member? i).bind fun m => (w.2.gen? c).map fun g => (w.2, m, g) with
  | none => s
  | some (q, m, g) =>
    let lanes := c.lanesOf q.gen part
    let me := s.group.index
    if lanes.isEmpty then s.updMember n i fun m => m.updList part me ({ · with done := true })
    else
      let pass := ((m.lists.find? fun l => l.part == part && l.holder == me).map (·.passes)).getD 0
      let (s1, joined) := s.queueJob c g q m n part pass
      let s2 := match g.part? part with
        | some r => if joined then s1.releaseScan (s.coordOf n) r.stack (c.partBytes g q.snapshot part) else s1
        | none => s1
      s2.updMember n i fun m => m.updList part me ({ · with lanesLeft := lanes.length, passEntries := [], blocks := [] })

/-- The jobs of a member's partitions at this module. -/
def State.beginScan (s : State) (c : Collection) (n i : Nat) (parts : List Nat) : State :=
  parts.foldl (fun s p => s.beginPass c n i p) s

/-! ### From stage to stage (R88, R94, R98, R119 to R123) -/

/-- Lists whose placement epoch has closed are discarded, and the rest merged into the candidate list (R94, R122). -/
def Member.gather (m : Member) (q : QueryWork) (g : Generation) : Member :=
  let open_ (l : PartList) : Bool := (g.part? l.part).all fun r => r.epoch ≤ l.epoch
  let kept := m.lists.filter open_
  let t := mergeEntries q.plan.cand (kept.map (·.entries))
  { m with lists := kept, cand := t.1, refLeft := if q.plan.refine == 0 then [] else t.1, dupMerged := t.2
           epochDropped := satAdd 65535 m.epochDropped (m.lists.length - kept.length) }

/-- The module that refines a candidate of a partition: this one where it holds the partition. -/
def State.refiner (s : State) (c : Collection) (q : QueryWork) (g : Generation) (part : Nat) : Nat :=
  match g.part? part with
  | none => s.group.index
  | some r =>
    let l := s.answerers c.cid r q.admitRound
    if l.contains s.group.index then s.group.index else (l.find? fun h => !s.unreachable h).getD r.holder

/-- The fan-out request of a member to a holder. -/
def askOf (c : Collection) (q : QueryWork) (m : Member) (parts : List Nat) (cands : List (Nat × Nat)) : Ask :=
  { order := q.admitNo, coll := c.cid, snapshot := q.snapshot, admitRound := q.admitRound, k := q.plan.k, probe := q.plan.probe
    refine := q.plan.refine, sealing := q.plan.sealing, lean := q.lean, rerank := q.plan.rerank != 0, q8 := m.q8, q16 := m.q16
    filter := q.plan.filter, parts, cands }

/-- A request of this module's own partitions or candidates, charged at the next round start like any other (R339, R340). -/
def ownRequest (s : State) (c : Collection) (q : QueryWork) (n i : Nat) (refine : Bool) : Request :=
  { refine, coord := s.group.index, order := q.admitNo, query := n, member := i, coll := c.cid, round := s.clock.round, served := 0
    work := { q with members := [] } }

/-- In a group, the second fan-out: each candidate to its refiner (R340). -/
def State.fanRefine (s : State) (c : Collection) (q : QueryWork) (g : Generation) (n : Nat) : State :=
  q.active.foldl (fun s0 m =>
    let by_ := m.refLeft.map fun e => (s0.refiner c q g e.part, (e.id, e.part))
    let s := s0.updMember n m.idx fun m => { m with asked := by_.map fun x => (x.2.1, x.1) }
    (sortNats (by_.map (·.1))).foldl (fun s h =>
      let mine := (by_.filter fun x => x.1 == h).map (·.2)
      if h == s.group.index then { s with group.requests := s.group.requests ++ [ownRequest s c q n m.idx true] }
      else s.launch 1 h n m.idx (.refine (askOf c q m [] mine))) s) s

/-- The stage after refinement. -/
def QueryWork.afterRefine (q : QueryWork) : QPhase :=
  if q.plan.rerank != 0 && q.active.any (fun m => !m.rerankSkipped) then .rerank else .final

/-- One move of a query to its next stage, where every member that has not ended is through with this one. -/
def State.moveOn1 (s : State) (n : Nat) : State :=
  match (s.cmd? n).bind fun c => c.query?.bind fun q => (s.coll? c.hdr.collection).bind fun k => (q.gen? k).map fun g => (q, k, g) with
  | none => s
  | some (q, k, g) =>
    match q.phase with
    | .walk => if q.active.all fun m => !m.probes.isEmpty then s.updWork n ({ · with phase := .scan }) else s
    | .scan =>
      if q.active.all fun m => m.lists.all (·.done) then
        let q1 := { q with members := q.members.map fun (m : Member) => if m.status.isNone then m.gather q g else m }
        let q2 := { q1 with phase := if q.plan.refine == 0 then q1.afterRefine else .refine }
        let s1 := s.updWork n fun _ => q2
        if q.plan.refine != 0 && s.groupMember then s1.fanRefine k q2 g n else s1
      else s
    | .refine =>
      if q.active.all fun m => m.refLeft.isEmpty then
        s.updWork n fun q => { q with phase := q.afterRefine, members := q.members.map fun (m : Member) => { m with refined := sortBy Entry.lt m.refined } }
      else s
    | .rerank => if q.active.all fun m => m.reranked.isSome || m.rerankSkipped then s.updWork n ({ · with phase := .final }) else s
    | _ => s

/-- A query moved on as far as its members allow. -/
def State.moveOn (s : State) (n : Nat) : State := (((s.moveOn1 n).moveOn1 n).moveOn1 n).moveOn1 n

/-! ### Requests served for other coordinators (R337, R341, R618, R619) -/

/-- The transit key of a root key (R615). -/
def Collection.transitKey (c : Collection) (r : CollKey) : Bytes := Config.kdf (r.key ++ ascii "JW81 transit" ++ toLe 2 c.cid) 32

/-- The root key as admitted queries use it, though it may be withdrawn from new use (R613). -/
def Collection.rootHeld (c : Collection) : Option CollKey := c.keys.find? fun k => k.root

/-- A payload's plaintext under a root key (R165); a record that does not open reads as free bytes (log 2). -/
def Collection.payloadText (c : Collection) (r : CollKey) (free id : Nat) (p : Payload) : Bytes :=
  (Config.gcmOpen 1 (c.payloadKey r) (zeros 4 ++ toLe 8 p.counter) (toLe 8 id) p.cipher p.tag).getD
    ((List.range p.len).map (Config.freeByte free))

/-- The next nonce of the module's seal counter (R617); a block of counters is reserved where the last is used up. -/
def State.sealNonce (s : State) : Bytes := toLe 4 (s.keys.serial % 2 ^ 32) ++ toLe 8 s.keys.sealCtr
def State.useNonce (s : State) : State :=
  { s with keys.sealBlock := if s.keys.sealCtr < s.keys.sealBlock then s.keys.sealBlock else s.keys.sealCtr + 65536
           keys.sealCtr := s.keys.sealCtr + 1 }

/-- The transit records of entries that carry payloads; their additional data is the vector's ID (log 39). -/
def State.transits (s : State) (c : Collection) (r : CollKey) (snap : Nat) (l : List Entry) : State × List Transit :=
  l.foldl (fun (x : State × List Transit) e =>
    match (c.liveSlot snap e.id).bind fun y => y.2.2.payload with
    | none => x
    | some p =>
      let nonce := x.1.sealNonce
      let out := Config.gcmSeal 1 (c.transitKey r) nonce (toLe 8 e.id) (c.payloadText r x.1.free e.id p)
      (x.1.useNonce, x.2 ++ [{ id := e.id, nonce, tag := out.2, cipher := out.1 }])) (s, [])

/-- A served request whose lists or refinements are all there is answered; its last answer carries the payloads that a sealed
result or a rerank may need. -/
def State.answerIfDone (s : State) (n : Nat) : State :=
  match s.group.requests.find? fun r => r.served != 0 && r.served == n with
  | none => s
  | some r =>
    match s.coll? r.coll, r.work.members.head? with
    | some c, some m =>
      let last := r.refine || r.work.plan.refine == 0
      let shown := if r.refine then m.refined else m.lists.flatMap (·.entries)
      let (s1, recs) := match c.rootHeld with
        | some k => if last && r.work.plan.sealing == 2 then s.transits c k r.work.snapshot shown else (s, [])
        | none => (s, [])
      if r.refine then
        let full := if r.work.plan.rerank == 0 then [] else m.refined.filterMap fun e =>
          (c.liveSlot r.work.snapshot e.id).map fun y => (e.id, y.2.2.full)
        if m.refLeft.isEmpty then s1.answer n (.refined m.refined m.narRefine full recs) else s
      else if m.lists.all (·.done) then
        s1.answer n (.lists (m.lists.map fun l => { part := l.part, epoch := l.epoch, nar := l.nar, entries := l.entries }) recs)
      else s
    | _, _ => s

/-- What follows when a query or request has come further. -/
def State.progress (s : State) (n : Nat) : State := if (s.cmd? n).isSome then s.moveOn n else s.answerIfDone n

/-! ### The walk (R80, R89 to R91, R196, R197, R448, R450) -/

/-- The lists that a member awaits: one of each probed partition and placement. -/
def State.listsOf (s : State) (c : Collection) (q : QueryWork) (g : Generation) (probes : List Nat) : List PartList :=
  probes.flatMap fun p => match g.part? p with
    | none => []
    | some r => (s.answerers c.cid r q.admitRound).map fun h =>
      { part := p, epoch := if h == r.holder then r.epoch else r.epoch + 1, holder := h, entries := [], nar := 0, passes := 0
        lanesLeft := 0, passEntries := [], blocks := [], done := false }

/-- The first fan-out of a member in a group: this module's own partitions as a request of its own, the others to their
holders (R338, R339, R448). -/
def State.fanScan (s : State) (c : Collection) (q : QueryWork) (m : Member) (n : Nat) : State :=
  (sortNats (m.lists.map (·.holder))).foldl (fun s h =>
    let parts := (m.lists.filter fun l => l.holder == h).map (·.part)
    if h == s.group.index then { s with group.requests := s.group.requests ++ [ownRequest s c q n m.idx false] }
    else s.launch 1 h n m.idx (.scan (askOf c q m parts []))) s

/-- The first poisoned word of the partition records that a walk reads, or of the codebook for its lookup tables (R378). -/
def State.graphBad (s : State) (c : Collection) (g : Generation) (read : List Nat) : Option Nat :=
  let recs := read.filterMap fun p => (g.part? p).bind fun r => if r.addr == 0 then none else some (r.addr, c.recordBytes)
  let book := if g.bookAddr == 0 then [] else [(g.bookAddr, g.codebook.length)]
  (recs ++ book).findSome? fun r => s.badWord r.1 r.2

/-- A member's walk at its end: its probe set; on one module the exact charges replace B_max and the scan jobs begin. An uncorrectable
word of the route graph ends the query with MEDIUM_ERROR (R378), as does a partition that cannot be read (R196, R197). -/
def State.walkEnd (s0 : State) (c : Collection) (q : QueryWork) (g : Generation) (m : Member) (n : Nat) : State :=
  let (probes, read) := c.walked g (m.zeroLength c) m.q8 q.plan.budget q.plan.probe
  let word := s0.graphBad c g read
  let s := word.elim s0 (s0.poisonRecord n)
  let lists := s.listsOf c q g probes
  let m1 := { m with probes := probes, exhaustive := probes.length == g.parts.length, lists := lists }
  let s1 := s.updMember n m.idx fun _ => m1
  if word.isSome || g.unreadable q.snapshot probes then s1.endMember n m.idx 8
  else if m1.cut s.group.index s.unreachable then s1.endMember n m.idx 2
  else if s.groupMember then s1.fanScan c q m1 n
  else
    let s2 := (c.scanCost g q.snapshot q.plan.passes probes).foldl (fun s x => s.chargeScan x.1 x.2) s1
    s2.beginScan c n m.idx probes

/-- WALK_END. -/
def execWalkEnd (cid member : Nat) (s : State) : Host.Outcome State Fault Refusal :=
  match s.cmd? cid with
  | none => .next s
  | some c =>
    match c.query?, s.coll? c.hdr.collection with
    | some q, some k =>
      match q.gen? k, q.member? member with
      | some g, some m =>
        event s (q.phase == .walk && m.status.isNone && m.probes.isEmpty && !s.power.clampHold)
          (s.settled ((s.walkEnd k q g m cid).progress cid))
      | _, _ => .next s
    | _, _ => .next s

/-! ### Lane passes (R92, R93, R138, R143 to R155) -/

/-- LANE_PASS_START: the lane is free, and a bulk pass finds its share (R138, R151). -/
def execLanePassStart (lane : Nat) (s : State) : Host.Outcome State Fault Refusal :=
  match s.nextPass lane with
  | none => .next s
  | some i =>
    event s (!s.power.clampHold && (s.comp.passes[i]?).any s.bulkRoom && !s.comp.passes.any fun p => p.lane == lane && p.started)
      (s.startPass lane i)

/-- A partition's list with a lane job's block merged in; with the last block of the pass the pass ends, and the job with it
where fewer than 64 entries came or the passes are used up (R93, R148). -/
def PartList.take (l : PartList) (passes : Nat) (block : LaneBlock) (bytes : Bytes) : PartList :=
  let merged := (mergeEntries 64 [l.passEntries, block.hits.map (·.1)]).1
  let nar := if l.passes == 0 then l.nar + block.nar else l.nar
  let l := { l with blocks := l.blocks ++ [bytes] }
  if l.lanesLeft > 1 then { l with passEntries := merged, nar := nar, lanesLeft := l.lanesLeft - 1 }
  else { l with entries := l.entries ++ merged, passEntries := [], nar := nar, lanesLeft := 0, passes := l.passes + 1
                done := merged.length < 64 || l.passes + 1 ≥ passes }

/-- One query's entry of an ended pass: its result block is written and merged into the partition's list (R147, R148). -/
def State.endEntry (s : State) (p : LanePass) (e : PassEntry) : State :=
  match (s.work? e.cmd).bind fun w => (s.coll? w.1).bind fun c => (w.2.member? e.member).bind fun m =>
      (w.2.gen? c).map fun g => (w.2, c, m, g) with
  | none => s
  | some (q, c, m, g) =>
    match m.lists.find? fun l => l.part == p.part && l.holder == s.group.index with
    | none => s
    | some l =>
      let b := c.queryBlock g q m p e l.entries.getLast?
      let l1 := l.take q.plan.passes b (b.bytes p.job m.querySlot e.index false)
      let s1 := s.updMember e.cmd e.member fun m => m.updList p.part s.group.index fun _ => l1
      if l1.done then s1.progress e.cmd else if l1.lanesLeft == 0 then s1.beginPass c e.cmd e.member p.part else s1

/-- A program scan's pass ended: its blocks written to cluster memory, its transfer complete (R147, R272, R285). -/
def State.endScan (s : State) (p : LanePass) (rid tid : Nat) : State :=
  match (s.run? rid).bind fun r => (r.moves.find? fun t => t.tid == tid).bind fun t => (s.program? r.handle).map fun k => (t, k) with
  | none => s
  | some (t, k) =>
    let s1 := (List.range (byteAt t.job 6)).foldl (fun s i =>
      s.updRun rid fun r => r.localWrite t.vcore (field (slice t.job (0x40 + 64 * i) 64) 0x30 8) (s.programBytes p t.job i)) s
    ((s1.updRun rid fun r => ({ r with moves := r.moves.filter fun x => x.tid != tid }).wake k).settleRun rid).announceBar rid

/-- LANE_PASS_END: the pass leaves its lane, and each query's list goes on. A bulk job of which more is to be read waits for its next
bulk pass (R151). -/
def execLanePassEnd (lane : Nat) (s : State) : Host.Outcome State Fault Refusal :=
  match s.comp.passes.find? fun p => p.lane == lane && p.started with
  | none => .next s
  | some p =>
    let s1 := { s with comp.passes := s.comp.passes.filter fun x => !(x.lane == lane && x.started) }
    let more := { s with comp.passes := updWhere (fun x => x.lane == lane && x.started) ({ · with started := false }) s.comp.passes }
    event s (!p.paused)
      (match p.program with
      | some (rid, tid) => if p.bulkRead < s.jobBytes p then more else s1.endScan p rid tid
      | none => p.entries.foldl (fun s e => s.endEntry p e) s1)

/-- LANE_ECC_ERROR: every query of the pass ends with MEDIUM_ERROR; a program whose scan it was stops (R155, R306). -/
def execLaneEccError (lane address : Nat) (s : State) : Host.Outcome State Fault Refusal :=
  match s.comp.passes.find? fun p => p.lane == lane && p.started with
  | none => .next s
  | some p =>
    let s1 := { s with comp.passes := s.comp.passes.filter fun x => !(x.lane == lane && x.started) }
    let s2 := s1.record { code := 0x0011, severity := 1, unitKind := 7, unit := lane, address }
    let s3 := match p.program with
      | some (rid, tid) =>
        (s2.updRun rid fun r => { r with medium := true, moves := r.moves.filter fun x => x.tid != tid }).settleRun rid
      | none => p.entries.foldl (fun s e => s.endMember e.cmd e.member 8) s2
    .next (s.settled s3)

/-! ### Refinement (R95, R96, R402) -/

/-- Reads of a refine stage that starts before its scheduled first round: what the round's ledger has left is theirs, and is charged
(R88). From that round on the query's own charge covers them, as a holder's does in a group (R85, R340). -/
def State.earlyRead (s : State) (q : QueryWork) (reads : Nat) : Option State :=
  if s.groupMember || q.refineRound ≤ s.clock.round then some s
  else
    let used := assoc s.comp.ledger.refine s.clock.round + reads
    if used ≤ (s.planFor q.admitRound q.lean).refineReads then
      some { s with comp.ledger.refine := setAssoc s.comp.ledger.refine s.clock.round used } else none

/-- REFINE_READ_DONE: a full vector has come from the index area. In a group a coordinator's own reads wait for the charge of
its own request (R340). -/
def execRefineReadDone (cid member id : Nat) (s : State) : Host.Outcome State Fault Refusal :=
  match (s.work? cid).bind fun w => (s.coll? w.1).bind fun c => (w.2.member? member).bind fun m => (w.2.gen? c).map fun g => (w.2, c, m, g) with
  | none => .next s
  | some (q, c, m, g) =>
    match m.refLeft.find? fun e => e.id == id, c.liveSlot q.snapshot id with
    | some e, some (_, _, slot) =>
      let d := c.exactKey (m.zeroLength c) c.full (if c.full = .k16 then m.q16 else m.q8) slot.full
      let charged := !s.group.requests.any fun r => r.refine && r.served == 0 && r.query == cid && r.member == member && r.coord == s.group.index
      let upd (m : Member) : Member :=
        let m1 := { m with refLeft := m.refLeft.filter fun x => x.id != id }
        if d.1 == 0xFFFFFFFF then { m1 with narRefine := m1.narRefine + 1 }
        else { m1 with refined := m1.refined ++ [{ e with key := d.1, dist := BitVec.ofNat 32 d.2 }] }
      let early := s.earlyRead q c.fullReads
      event s (q.phase == .refine && m.status.isNone && charged && m.askedOf s.group.index id == s.group.index && early.isSome)
        ((((early.getD s).flashRead 1 (slot.ref / 4096) c.fullReads).updMember cid member upd).progress cid)
    | _, _ => .next s

/-- The last round of a query's refine stage (R102). -/
def QueryWork.refineEnd (q : QueryWork) (t : Timetable) : Nat :=
  let p := if q.lean then t.lean else t.full
  q.bound - 1 - (if q.plan.rerank == 0 then 0 else p.nRr + t.gap)

/-- The sectors of the full vectors that a member still waits for from this module's index area (R39). -/
def Member.unread (m : Member) (k : Collection) (snap here : Nat) : List Nat :=
  (m.refLeft.filter fun e => m.askedOf here e.id == here).flatMap fun e =>
    ((k.liveSlot snap e.id).map fun y => (List.range k.fullReads).map (y.2.2.ref / 4096 + ·)).getD []

/-- A sector of a query's full vector that was not read in time: its record (R96), whose flash channel is open (log 2), and its mark for
relocation (R402). -/
def State.refineLost (s : State) (c : Cmd) (sector : Nat) : State :=
  let s1 := s.record { code := 0x0020, severity := 1, unitKind := 9, unit := Config.freeNat s.free % 32, address := sector, tag := c.hdr.tag
                       ring := c.ring, collection := c.hdr.collection }
  { s1.draw 1 with store.relocate := s.store.relocate ++ [(32, 1, sector)] }

/-- REFINE_READ_TIMEOUT: MEDIUM_ERROR with a record that names each sector not decoded; those are marked for relocation, and their reads
go on (R96, R402). -/
def execRefineReadTimeout (cid : Nat) (s : State) : Host.Outcome State Fault Refusal :=
  match s.cmd? cid with
  | none => .next s
  | some c =>
    match c.query?, s.coll? c.hdr.collection with
    | some q, some k =>
      let late := q.active.filter fun m => !m.refLeft.isEmpty
      let sectors := distinct (late.flatMap fun m => m.unread k q.snapshot s.group.index)
      let s1 := sectors.foldl (fun s x => s.refineLost c x) s
      event s (q.phase == .refine && !late.isEmpty && s.clock.round ≥ q.refineEnd (s.imageFor q.admitRound).1)
        (s.settled ((late.foldl (fun s m => s.endMember cid m.idx 8) s1).progress cid))
    | _, _ => .next s

/-! ### Rerank (R98, R319, R320, R335) -/

/-- A candidate's full vector: in its slot, or as another holder returned it. -/
def Member.fullOf (m : Member) (c : Collection) (snap id : Nat) : List Nat :=
  match m.full.find? fun x => x.1 == id with
  | some x => x.2
  | none => ((c.liveSlot snap id).map fun y => y.2.2.full).getD []

/-- A candidate's payload as plaintext: opened from its slot or from a transit record; none where it has none. -/
def Member.payloadOf (m : Member) (c : Collection) (snap free id : Nat) : Option Bytes :=
  c.rootHeld.bind fun r =>
    match m.transit.find? fun t => t.id == id with
    | some t => some ((Config.gcmOpen 1 (c.transitKey r) t.nonce (toLe 8 id) t.cipher t.tag).getD
        ((List.range t.cipher.length).map (Config.freeByte free)))
    | none => ((c.liveSlot snap id).bind fun y => y.2.2.payload).map fun p => c.payloadText r free id p

/-- The arguments of a rerank, placed and written: operand, full vectors, payloads and their lengths where the binding asks,
scores (R319). Fewer than c candidates may be left, and R98 does not say how large the arguments are then: the model's choice is one
row for each that is left, and their number in s6 (log 108). None where T1 has no room for them (log 8). -/
def State.rerankArgs (s0 : State) (c : Collection) (q : QueryWork) (m : Member) (p : Program) : Option (State × List (Nat × TensorDesc)) :=
  let src := m.toRerank q.plan.refine
  let n := src.length
  let pays := src.map fun e => (m.payloadOf c q.snapshot s0.free e.id).getD []
  (s0.argTensors ([(1, denseTensor c.full [c.dim, n])]
    ++ (if p.bindPayloads then [(2, denseTensor .u8 [4096, n]), (3, denseTensor .u32 [n])] else []) ++ [(4, denseTensor .f32 [n])])).map fun (s, l) =>
  let put (s : State) (i : Nat) (b : Bytes) : State := match l.find? fun a => a.1 == i with
    | some a => s.writeT1 a.2.address b
    | none => s
  let s1 := put s 1 (src.flatMap fun e => packRow c.full (m.fullOf c q.snapshot e.id))
  let s2 := put (put s1 2 (pays.flatMap fun b => padTo 4096 b)) 3 (pays.flatMap fun b => toLe 4 b.length)
  (s2.draw 1, (q.plan.operand.map fun t => (0, t)).toList ++ l)

/-- Whether a member's rerank has begun. -/
def State.reranking (s : State) (n i : Nat) : Bool := s.comp.runs.any fun r => match r.why with
  | .rerank c k => c == n && k == i
  | _ => false

/-- The room of a rerank outside its scheduled window: what the window of the round under way has left, which it charges (R88, R335). -/
def State.rerankRoom (s : State) (q : QueryWork) : Option State :=
  if s.clock.round == q.windowRound then some s
  else
    let used := assoc s.comp.ledger.rerank s.clock.round + q.plan.cand
    if used ≤ (s.planFor q.admitRound q.lean).rerankCap then
      some { s with comp.ledger.rerank := setAssoc s.comp.ledger.rerank s.clock.round used } else none

/-- RERANK_INVOCATION: in the query's window, or in another with room (R88), of the image that admitted the query (R345). With no
candidate left no invocation is made: the model's choice, R98 not saying how a rerank of none runs (log 108). -/
def execRerankInvocation (cid member : Nat) (s : State) : Host.Outcome State Fault Refusal :=
  match s.cmd? cid with
  | none => .next s
  | some c =>
    match c.query?.bind fun q => (s.coll? c.hdr.collection).bind fun k => (q.member? member).bind fun m => (s.program? q.plan.rerank).map fun p => (q, k, m, p) with
    | none => .next s
    | some (q, k, m, p) =>
      let (image, base) := s.imageFor q.admitRound
      let opens := image.rerankAt (image.place base s.clock.round)
      let none_ := (m.toRerank q.plan.refine).isEmpty
      let run := (s.rerankRoom q).bind fun s => (s.rerankArgs k q m p).map fun x => x.1.newRun p (.rerank cid member) p.seed x.2
      event s (q.phase == .rerank && m.status.isNone && m.reranked.isNone && !m.rerankSkipped && !s.reranking cid member
          && s.power.applied == 0 && opens && (none_ || run.isSome))
        (if none_ then (s.updMember cid member ({ · with reranked := some [] })).progress cid else run.getD s)

/-! ### The final round (R100, R101, R103, R124 to R129, R548, R549, R616 to R618) -/

/-- The final source of a member. -/
def Member.source (m : Member) (q : QueryWork) : List Entry :=
  match if m.rerankSkipped then none else m.reranked with
  | some l => l
  | none => if q.plan.refine != 0 then m.refined else (mergeEntries (65536 * 4096) (m.lists.map (·.entries))).1

/-- The NaR entries of the scan: each partition once, from its list of the highest epoch (R123). -/
def Member.scanNar (m : Member) : Nat :=
  sumBy (fun l : PartList => if m.lists.any fun x => x.part == l.part && x.epoch > l.epoch then 0 else l.nar) m.lists

/-- What a member's result reports beside its entries: flags, nar_count (R126 to R129). -/
def Member.report (m : Member) (f : Final) : Nat × Nat :=
  let nar := min 0xFFFFFFFF (m.scanNar + m.narRefine + m.narRerank)
  (bitsNat [f.fewer, f.fewer && m.exhaustive, f.fewer && !m.exhaustive, f.tieAtK, m.dupMerged, nar > 0, m.rerankSkipped, m.epochDropped > 0], nar)

/-- The clear list of R548. -/
def clearList (q : QueryWork) (m : Member) (f : Final) : Bytes :=
  let (flags, nar) := m.report f
  resultHeader f.count f.tieExcess 0 flags nar m.probes.length m.epochDropped m.idx q.snapshot q.admitRound
    ++ f.entries.flatMap (fun e => toLe 8 e.id ++ toLe 4 e.key ++ toLe 4 e.dist.toNat)
    ++ List.replicate (16 * (q.plan.k - f.count)) 0xFF

/-- The payload slots of R549. -/
def payloadSlots (c : Collection) (q : QueryWork) (m : Member) (free : Nat) (f : Final) : Bytes :=
  f.entries.flatMap (fun e => match m.payloadOf c q.snapshot free e.id with
    | none => zeros 4104
    | some b => toLe 2 b.length ++ zeros 6 ++ padTo 4096 b)
    ++ zeros (4104 * (q.plan.k - f.count))

/-- Whether a returned payload was written under another root key than the one held (R616). -/
def payloadLost (c : Collection) (q : QueryWork) (r : CollKey) (f : Final) : Bool :=
  f.entries.any fun e => ((c.liveSlot q.snapshot e.id).bind fun y => y.2.2.payload).any fun p => p.key != r.keyId

/-- A member's result region, sealed where the plan asks, and the state after the nonce is used; none where a key is wanting. -/
def State.region (s : State) (c : Collection) (q : QueryWork) (m : Member) (f : Final) : Option (State × Bytes) :=
  if q.plan.sealing == 0 then some (s, clearList q m f)
  else match c.rootHeld with
    | none => none
    | some r =>
      if q.plan.sealing == 2 && payloadLost c q r f then none
      else
        let plain := clearList q m f ++ (if q.plan.sealing == 2 then payloadSlots c q m s.free f else [])
        let head := s.sealNonce ++ toLe 4 r.keyId
        let out := Config.gcmSeal r.suite (c.resultKey r) s.sealNonce (head ++ toLe 2 c.cid ++ toLe 2 m.idx) plain
        some (s.useNonce.draw 1, out.2 ++ head ++ out.1)

/-- A member's final round: its region written while the host can be reached, and its status. -/
def State.finalMember (s : State) (c : Cmd) (k : Collection) (q : QueryWork) (m : Member) : State :=
  match s.region k q m (finalList q.plan.k (m.source q)) with
  | none => s.updMember c.cid m.idx ({ · with status := some 7 })
  | some (s1, b) =>
    let s2 := if c.unreachable then s1 else s1.hostWrite (q.plan.resultAddr + m.idx * q.plan.resultLen) b
    s2.updMember c.cid m.idx ({ · with status := some 0 })

/-- The completion of a query from its members' statuses (R555). -/
def finalResult (q : QueryWork) (status : Nat) : Result :=
  match q.members.head? with
  | some m =>
    if status == 0 && q.plan.sealing == 0 && !q.plan.batch then
      let f := finalList q.plan.k (m.source q)
      let (flags, nar) := m.report f
      { Result.of 0 with a := f.count + 2 ^ 16 * flags + 2 ^ 24 * f.tieExcess, b := q.snapshot, c := m.probes.length + 2 ^ 32 * nar }
    else .of status
  | none => .of status

/-- QUERY_FINAL: every member that has not ended has its result written. -/
def execQueryFinal (cid : Nat) (s0 : State) : Host.Outcome State Fault Refusal :=
  let s := s0.moveOn cid
  match s.cmd? cid with
  | none => .next s
  | some c =>
    match c.query?, s.coll? c.hdr.collection with
    | some q, some k =>
      let s1 := q.active.foldl (fun s m => s.finalMember c k q m) s
      let q1 := ((s1.cmd? cid).bind Cmd.query?).getD q
      event s (q.phase == .final) (s1.complete cid (finalResult q1 q1.status))
    | _, _ => .next s

/-! ### Limits (R77, R642) -/

/-- QUERY_BOUND_EXPIRY: a query whose bound ended while the lodge had been away. -/
def execQueryBoundExpiry (cid : Nat) (s : State) : Host.Outcome State Fault Refusal :=
  match s.cmd? cid with
  | none => .next s
  | some c =>
    match c.query? with
    | none => .next s
    | some q =>
      event s (c.admitted && s.clock.round ≥ q.bound && s.fw.lodgeAt.any fun t => s.roundTick q.admitRound ≤ t) ((s.dropWork c).complete cid (.of 2))

/-- The wait limit of a query's class, in rounds (R77). -/
def State.waitLimit (s : State) (q : QueryWork) : Option Nat :=
  match s.planNow.wait.getD q.plan.deadline 0xFFFF with
  | 0xFFFF => none
  | n => some n

/-- Whether a waiting query's limit of round starts has passed at a round. -/
def State.waitOut (s : State) (q : QueryWork) (round : Nat) : Bool := (s.waitLimit q).any fun n => round ≥ q.fetchRound + n

/-- WAIT_LIMIT_EXPIRY. -/
def execWaitLimitExpiry (cid : Nat) (s : State) : Host.Outcome State Fault Refusal :=
  match s.cmd? cid with
  | none => .next s
  | some c =>
    match c.query? with
    | none => .next s
    | some q => event s (!c.admitted && s.waitOut q s.clock.round) (s.complete cid (.of 5))

end Sys2Proof.Machine
end

