-- ==== Sys2Proof/Machine/Admission.lean ====
section
/-!
DEFINITION. Admission of queries at a round start (chapter 3): the completions of R718, the conditions of R75 with the scan,
refine and rerank ledgers, and the delay bound of R102 and R344.
-/

namespace Sys2Proof.Machine

/-! ### What a query is measured by -/

/-- The default snapshot in a round that starts at a tick (R52, R447, R710). -/
def State.defaultSnapshot (s : State) (c : Collection) (tick : Nat) : Nat :=
  if s.groupMember && c.home != s.group.index then
    ((s.group.commits.filter fun x => x.1 == c.cid && x.2.2 < tick).map (·.2.1)).foldl max 0
  else ((c.superseded.filter fun x => x.2 ≥ tick).map (·.1)).foldl min c.latest

/-- The snapshot that a query would use. -/
def State.snapshotFor (s : State) (c : Collection) (q : QueryWork) (tick : Nat) : Nat :=
  if q.plan.snapshotReq == 0 then s.defaultSnapshot c tick else q.plan.snapshotReq

/-- B_max of one member (R80). -/
def bMaxOf (c : Collection) (g : Generation) (q : QueryWork) (snap : Nat) : Nat :=
  q.plan.probe * c.sMax g snap * c.slotSize * q.plan.passes

/-- The refine charge, summed over the members (R85, R719). -/
def refineCharge (c : Collection) (q : QueryWork) : Nat := q.members.length * q.plan.refine * c.fullReads

/-- Candidates charged to the rerank window, over the members (R86, R719); none at shedding stage 1 or above (R105). -/
def State.rerankCharge (s : State) (q : QueryWork) : Nat :=
  if q.plan.rerank == 0 || s.power.applied ≥ 1 then 0 else q.members.length * q.plan.cand

/-- A charge spread over rounds, at most some reads to each (R85). -/
def spread (total per start : Nat) : List (Nat × Nat) :=
  if per == 0 then [] else (List.range (ceilDiv total per)).map fun i => (start + i, min per (total - i * per))

/-- The terms of a query's bound (R102): rounds of the walk, the scan and the refine stage. -/
structure Terms where
  walk : Nat
  scan : Nat
  refine : Nat

def State.terms (s : State) (c : Collection) (g : Generation) (q : QueryWork) : Terms :=
  { walk := if q.plan.probe ≥ g.parts.length then 1 else s.active.nWalk q.plan.budget
    scan := s.planNow.nScan, refine := nRefine s.active s.planNow q.plan.refine (refineCharge c q) }

/-- h × H of R344. -/
def State.trips (s : State) (q : QueryWork) : Nat := if s.groupMember then s.active.hops * (if q.plan.refine == 0 then 2 else 4) else 0

/-- D in rounds (R102, R344). -/
def State.delayRounds (s : State) (q : QueryWork) (t : Terms) : Nat :=
  t.walk + t.scan + t.refine + (if q.plan.rerank == 0 then 0 else s.planNow.nRr + s.active.gap) + 1 + s.trips q

/-- The first rerank window that opens after the refine stage (R335). -/
def State.windowFor (s : State) (q : QueryWork) (t : Terms) (round : Nat) : Nat :=
  let w := round + t.walk + t.scan + t.refine + s.trips q
  w + (s.active.rerankWait (s.active.place s.clock.baseRound w)).getD 0

/-! ### R718 -/

/-- Whether a query's charge could fit no round (R82, R87, R544, R719); in a group no scan ledger binds the coordinator
(R338). -/
def State.neverFits (s : State) (c : Collection) (q : QueryWork) (snap : Nat) : Bool :=
  let p := s.planNow
  let n := q.members.length
  n > p.admitQuota
    || (!s.groupMember && (c.genAt snap).any fun g => n * bMaxOf c g q snap > p.nScan * p.cStack)
    || (q.plan.rerank != 0 && (n * q.plan.cand > p.rerankCap || s.active.windows.all fun w => w.kind != 2))

/-- The completion that R718 makes of a waiting query at a round start, if any. -/
def State.examine (s : State) (c : Collection) (q : QueryWork) : Option Result :=
  let tick := s.roundTick s.clock.round
  let snap := s.snapshotFor c q tick
  if s.waitOut q s.clock.round then some (.of 5)
  else if c.load == .loading || c.copyBack then none
  else if snap > s.defaultSnapshot c tick then some (.invalid 9 noItem)
  else if !c.admissible snap tick then some (.of 6)
  else if q.plan.sealing != 0 && c.root?.isNone then some (.of 7)
  else if s.neverFits c q snap then some (.of 5)
  else none

/-! ### R75 -/

/-- Query slots held (R78). -/
def State.slotsHeld (s : State) : Nat :=
  sumBy (fun c : Cmd => if c.admitted then (c.query?.map fun q => q.members.length).getD 0 else 0) s.rings.cmds

/-- B_max of the admitted members that have not reached the end of their walk (R81). -/
def State.walkingBytes (s : State) : Nat :=
  sumBy (fun c : Cmd => match c.query? with
    | some q => if c.admitted && !c.finished && q.phase == .walk then q.bMax * (q.active.filter fun m => m.probes.isEmpty).length else 0
    | none => 0) s.rings.cmds

/-- R81 for every stack. -/
def State.scanRoom (s : State) (bytes : Nat) : Bool :=
  let w := s.walkingBytes
  s.comp.ledger.scan.all fun used => used + w + bytes ≤ s.planNow.nScan * s.planNow.cStack

/-- Whether every round of a spread charge has room in the refine ledger (R75, R85). -/
def State.refineRoom (s : State) (total per start : Nat) : Bool :=
  (total == 0 || per != 0) && (spread total per start).all fun x => assoc s.comp.ledger.refine x.1 + x.2 ≤ per

/-- A spread charge entered. -/
def State.chargeRefine (s : State) (total per start : Nat) : State :=
  { s with comp.ledger.refine := (spread total per start).foldl (fun l x => setAssoc l x.1 (assoc l x.1 + x.2)) s.comp.ledger.refine }

/-- Whether the conditions of R75 hold for a query that R718 leaves waiting. -/
def State.mayAdmit (s : State) (c : Collection) (q : QueryWork) (g : Generation) (snap : Nat) : Bool :=
  let p := s.planNow
  let n := q.members.length
  let r := s.clock.round
  let t := s.terms c g q
  s.slotsHeld + n ≤ 65536 && s.comp.ledger.admitted + n ≤ p.admitQuota
    && (s.groupMember || (s.scanRoom (n * bMaxOf c g q snap) && s.refineRoom (refineCharge c q) p.refineReads (r + t.walk + t.scan)))
    && (s.rerankCharge q == 0 || assoc s.comp.ledger.rerank (s.windowFor q t r) + s.rerankCharge q ≤ p.rerankCap)

/-! ### The admission -/

/-- The filter with its allow-lists read from T1, as they stand (R72). -/
def State.readFilter (s : State) (c : Collection) (f : Filter) : Filter :=
  { f with allows := f.allows.map fun a =>
      let w := ((c.fields[a.field]?).map fun d => d.hi + 1 - d.lo).getD 0
      { a with bits := Mem.read s.mem.hbm a.addr (ceilDiv (2 ^ w) 8) } }

/-- Whether an allow-list of a filter meets a poisoned word. -/
def State.filterPoisoned (s : State) (c : Collection) (f : Filter) : Bool :=
  f.allows.any fun a => s.poisoned a.addr (ceilDiv (2 ^ (((c.fields[a.field]?).map fun d => d.hi + 1 - d.lo).getD 0)) 8)

/-- The lowest query slots that no admitted query holds (R78). -/
def State.freeSlots (s : State) (n : Nat) : List Nat :=
  let used := s.rings.cmds.flatMap fun c => if c.admitted then (c.query?.map fun q => q.members.map (·.querySlot)).getD [] else []
  ((List.range (used.length + n)).filter fun k => !used.contains k).take n

/-- A query admitted in the round under way (R52, R72, R75, R78, R80, R83, R102). -/
def State.admitQuery (s : State) (cmd : Cmd) (c : Collection) (q : QueryWork) (g : Generation) (snap : Nat) : State :=
  let r := s.clock.round
  let n := q.members.length
  let t := s.terms c g q
  let w := s.windowFor q t r
  let skip := q.plan.rerank != 0 && s.power.applied ≥ 1
  let work := { q with
    plan := { q.plan with filter := s.readFilter c q.plan.filter }
    members := (q.members.zip (s.freeSlots n)).map fun (x : Member × Nat) => { x.1 with order := s.rings.nextAdmit, rerankSkipped := skip, querySlot := x.2 }
    phase := .walk, snapshot := snap, gen := g.num, admitRound := r, bound := r + s.delayRounds q t, admitNo := s.rings.nextAdmit
    lean := s.power.leanPlan, bMax := if s.groupMember then 0 else bMaxOf c g q snap, windowRound := w, refineRound := r + t.walk + t.scan }
  let s1 := s.updCmd cmd.cid ({ · with admitted := true, body := .query work })
  let s2 := { s1 with rings.nextAdmit := s1.rings.nextAdmit + 1, comp.ledger.admitted := s1.comp.ledger.admitted + n }
  let s3 := if s.groupMember then s2 else s2.chargeRefine (refineCharge c q) s.planNow.refineReads (r + t.walk + t.scan)
  let s4 := if s.rerankCharge q == 0 then s3
    else { s3 with comp.ledger.rerank := setAssoc s3.comp.ledger.rerank w (assoc s3.comp.ledger.rerank w + s.rerankCharge q) }
  if s.filterPoisoned c q.plan.filter then s4.complete cmd.cid (.of 8) else s4

/-- Whether the device admits no query in this round at all (R108, R350, R440, R642). -/
def State.admissionStopped (s : State) : Bool :=
  s.sw.state == 3 || s.group.joining.isSome || s.power.applied ≥ 5 || s.regs.shelter || s.fw.lodge != .up

/-- The waiting queries that a round start considers, in class order and within a class in fetch order (R74, R710). -/
def State.waitingQueries (s : State) : List Cmd :=
  let early := s.rings.cmds.filter fun c => !c.admitted && !c.finished && c.held.isNone && c.query?.isSome && c.fetchTime < s.roundTick s.clock.round
  (List.range 4).flatMap fun k => early.filter fun c => (c.query?.map fun q => q.plan.deadline) == some k

/-- The completions of R718 for every waiting query. -/
def State.examineAll (s : State) : State :=
  s.waitingQueries.foldl (fun s c => match c.query?.bind fun q => (s.coll? c.hdr.collection).bind fun k => s.examine k q with
    | some res => s.complete c.cid res
    | none => s) s

/-- One query taken in turn: passed over, admitted, or, where a condition fails, the end of this round's admissions, since it
holds back its class and every later one (R74). -/
def State.admitOne (x : State × Bool) (cmd : Cmd) : State × Bool :=
  let (s, blocked) := x
  match cmd.query?.bind fun q => (s.coll? cmd.hdr.collection).map fun c => (q, c) with
  | none => x
  | some (q, c) =>
    let snap := s.snapshotFor c q (s.roundTick s.clock.round)
    if c.load == .loading || c.copyBack then x
    else match c.genAt snap with
      | none => x
      | some g => if blocked || !s.mayAdmit c q g snap then (s, true) else (s.admitQuery cmd c q g snap, false)

/-- Admission at a round start (R74, R718). -/
def State.admitRound (s : State) : State :=
  let s1 := s.examineAll
  if s1.admissionStopped then s1 else (s1.waitingQueries.foldl State.admitOne (s1, false)).1

end Sys2Proof.Machine
end

