-- ==== Sys2Proof/Machine/Transfers.lean ====
section
/-!
DEFINITION. What crosses the hawser ports in a round: the slots and what they send, transfers received, their consumption
and forwarding (chapters 10 and 12), and a holder's charging of scan and refine requests (R339 to R341).
-/

namespace Sys2Proof.Machine

/-! ### Transfers received (R342, R434, R460) -/

/-- Whether a transfer's contents belong to a kind of slot. -/
def Load.slot : Load → Nat
  | .scan _ | .refine _ => 1
  | .lists _ _ | .refined _ _ _ _ | .ended _ => 2
  | .bulk _ _ _ _ | .index _ _ _ => 3

/-- Where a borrower's window offset lies in the regions that this module lends it, for n bytes (R385, R459). -/
def State.lentAt (s : State) (peer window offset n : Nat) : Option Nat :=
  (s.mem.loans.find? fun l => !l.borrow && l.opened && l.peer == peer && l.window == window && offset + n ≤ l.gib * 2 ^ 30).bind fun l =>
    l.regions.head?.map fun r => r * 2 ^ 30 + offset

/-- A bulk transfer for this module takes effect (R387, R459, R460): kind 0 writes the lender's region, kind 1 asks the lender for as many
bytes as its data says, and kind 2 brings them to the borrower (log 39). The other kinds serve transfers whose completion is a command of
its own. -/
def State.takeBulk (s : State) (flow : Flow) : State :=
  match flow.load with
  | .bulk 0 window offset data => (s.lentAt flow.src window offset data.length).elim s fun a => s.writeT1 a data
  | .bulk 1 window offset data =>
    (s.lentAt flow.src window offset (leNat data)).elim s fun a =>
      s.launch 3 flow.src flow.tid 0 (.bulk 2 window offset (Mem.read s.mem.hbm a (leNat data)))
  | .bulk 2 window offset data =>
    if s.mem.t2Reads.any fun r => r == (flow.query, window, offset, data.length) then
      { s with mem.t2 := Mem.write s.mem.t2 (0x400000000000 + window * 0x4000000000 + offset) data
               mem.t2Reads := s.mem.t2Reads.filter fun r => r != (flow.query, window, offset, data.length) }
    else s
  | .index kind gone w => s.takeIndex flow.src kind gone w
  | _ => s

/-- A mutation's effects on a partition that this module receives in a move wait for the partition's copy (R449). -/
def State.indexWaits (s : State) (flow : Flow) : Bool :=
  match flow.load with
  | .index 0 _ w => s.group.moves.any fun x => x.coll == w.cid && x.dst == s.group.index && !x.came
      && (w.segs.any (·.part == x.part) || w.tombs.any (·.part == x.part))
  | _ => false

/-- A transfer of a slot kind has arrived on a port: a bulk transfer for this module takes effect; any other is forwarded or consumed in
the next round. A request for this module wakes the watcher (R506, log 88). -/
def State.arrive (s : State) (slot port : Nat) (flow : Flow) : State :=
  let hop : Hop := { slot, inPort := port, round := s.clock.round, flow, gone := 0 }
  if slot == 3 && flow.dst == s.group.index && !s.indexWaits flow then s.takeBulk flow
  else
    let s1 := { s with group.hops := s.group.hops ++ [hop] }
    if slot == 1 && flow.dst == s.group.index then s1.wakeWatcher else s1

/-- The row of a transfer whose last flit has come on a TIMED port, in blocks that are not lost (R418). -/
def transferEvent (s : State) (slot port : Nat) (flow : Flow) : Host.Outcome State Fault Refusal :=
  event s (port < 8 && s.portState port == 4 && flow.load.slot == slot) (s.arrive slot port flow)

def execFanOutTransferReceived (port : Nat) (flow : Flow) (s : State) : Host.Outcome State Fault Refusal := transferEvent s 1 port flow
def execReturnTransferReceived (port : Nat) (flow : Flow) (s : State) : Host.Outcome State Fault Refusal := transferEvent s 2 port flow
def execBulkTransferReceived (port : Nat) (flow : Flow) (s : State) : Host.Outcome State Fault Refusal := transferEvent s 3 port flow

/-! ### Slots (R342, R417, R434, R436, R437) -/

/-- Whether shedding at either end of a move holds back its copy and its messages (R451). -/
def State.moveHeld (s : State) (m : MoveOp) : Bool :=
  s.power.applied ≥ 2 || assoc s.group.stages m.src ≥ 2 || assoc s.group.stages m.dst ≥ 2

/-- A moved partition's copy that pauses (R451). -/
def State.copyHeld (s : State) (w : Flow) : Bool :=
  match w.load with
  | .index 2 l c => s.group.moves.any fun x => x.coll == c.cid && l == [x.part] && s.moveHeld x
  | _ => false

/-- Whether a held transfer goes out in this round's slot of a kind: its own at once, a forwarded one in the round after it came. At
shedding stage 2 no bulk transfer does (R635, the table of stages). -/
def State.dueHop (s : State) (slot : Nat) (h : Hop) : Bool :=
  h.slot == slot && h.flow.dst != s.group.index && !(slot == 3 && s.power.applied ≥ 2) && !s.copyHeld h.flow && (h.inPort == 255 || h.round < s.clock.round)

/-- Payload bytes of a transfer: those of its data; the spec lays out no other transfer's, whose flits are as many as is free within its
share of the positions (R343, log 39). -/
def Flow.payload (w : Flow) (free share : Nat) : Nat :=
  match w.load with
  | .bulk _ _ _ data => max 1 data.length
  | _ => 1 + Config.freeNat free % (240 * max 1 share)

/-- Flits put on a port at the next positions of a slot that an entry reserves (R434, R435). -/
def State.putFlits (s : State) (p : Nat) (slot : TtSlot) (e : List Nat) (l : List Flit) : State :=
  s.updPort p fun x => { x with kept := x.kept ++ placeFlits slot (e.getD 2 0 + x.taken slot e) l }

/-- One held transfer sent in the positions of its entry, of which k transfers have a share; what finds no position waits for the next
slot of the kind, and a transfer whose flow no entry names is discarded. -/
def State.sendHop (k : Hop → Nat) (s : State) (h : Hop) : State :=
  match s.active.slotEntry h.slot h.flow.src h.flow.dst h.inPort with
  | none => { s with group.discarded := s.group.discarded + 1 }
  | some (slot, e) =>
    let p := e.getD 4 0
    if s.portState p != 4 then { s with group.discarded := s.group.discarded + 1 }
    else
      let room := e.getD 3 0 - (s.port p).taken slot e
      let bytes := h.flow.payload s.free (e.getD 3 0 / max 1 (k h))
      let total := ceilDiv bytes 240
      let upto := if h.slot == 3 then min total (h.gone + room) else if total ≤ room then total else 0
      let s1 := (s.draw 1).putFlits p slot e (dataFlits (h.slot + 1) h.flow bytes h.gone upto total)
      if upto == total then { s1 with group.sentHops := s1.group.sentHops ++ [(p, h)] }
      else { s1 with group.hops := s1.group.hops ++ [{ h with gone := upto }] }

/-- Bulk flits that replay did not deliver go out in the positions of their flow, ahead of newer flits (R428). -/
def State.sendAgain (s : State) (p : Nat) : State :=
  let l := (s.port p).again
  l.foldl (fun s f =>
    let found := f.flow.bind fun w => ((s.active.slots.filter fun x => x.kind == 3).findSome? fun x =>
      (x.list.find? fun e => e.getD 0 0 == w.src && e.getD 1 0 == w.dst && e.getD 4 0 == p).map fun e => (x, e))
    match found with
    | some (x, e) =>
      if (s.port p).taken x e < e.getD 3 0 then s.putFlits p x e [f]
      else s.updPort p fun y => { y with again := y.again ++ [f] }
    | none => s) (s.updPort p ({ · with again := [] }))

/-- The headers of a slot's blocks carry the reports that its ports have waiting (R425). -/
def State.slotReports (s : State) (x : TtSlot) : State :=
  let after (y : Nat × Port) : Port := if x.ports.testBit y.1 then { y.2 with nacks := y.2.nacks.drop (slotBlocks x.len) } else y.2
  { s with ports := ((List.range s.ports.length).zip s.ports).map after }

/-- The slot of a kind opens: its blocks go out on its ports, with the reports of lost blocks in their headers (R425). -/
def State.openSlot (s : State) (slot : Nat) : State :=
  let due := s.group.hops.filter (s.dueHop slot)
  let rivals (h : Hop) : Nat := (due.filter fun x => x.flow.src == h.flow.src && x.flow.dst == h.flow.dst && x.inPort == h.inPort).length
  let s1 := due.foldl (State.sendHop rivals) { s with group.hops := s.group.hops.filter fun h => !s.dueHop slot h }
  s.active.slots.foldl (fun s x => if x.kind == slot then s.slotReports x else s) s1

def execFanOutSlot (s : State) : Host.Outcome State Fault Refusal := event s s.regs.ready (s.openSlot 1)
def execReturnSlot (s : State) : Host.Outcome State Fault Refusal := event s s.regs.ready (s.openSlot 2)

/-! ### T2 transfers (R386, R387, R389, R460) -/

/-- The bulk transfers of a transfer that names T2: its rows written into windows, and its rows to be read from them. -/
def State.t2Loads (s : State) (writes : List (Nat × Bytes)) (reads : List (Nat × Nat)) : List (Nat × Load) :=
  (writes.filterMap fun x => (s.loanAt x.1).map fun l => (l.peer, Load.bulk 0 l.window (x.1 - l.base) x.2))
    ++ reads.filterMap fun x => (s.loanAt x.1).map fun l => (l.peer, Load.bulk 1 l.window (x.1 - l.base) (toLe 8 x.2))

/-- Bulk transfers launched: their transfer_ids, and the reads whose data is now awaited. -/
def State.launchAll (s : State) (l : List (Nat × Load)) : State × List Nat :=
  l.foldl (fun (x : State × List Nat) y =>
    let tid := x.1.free % 2 ^ 32
    let s1 := x.1.launch 3 y.1 0 0 y.2
    let s2 := match y.2 with
      | .bulk 1 window offset n => { s1 with mem.t2Reads := s1.mem.t2Reads ++ [(tid, window, offset, leNat n)] }
      | _ => s1
    (s2, x.2 ++ [tid])) (s, [])

/-- A MOVE_TENSOR under way that names T2 puts its flits in line for the bulk slot: what it writes there is read now, from host memory as
free bytes (log 83). -/
def State.flyMove (s : State) (c : Cmd) : State :=
  match c.body with
  | .move m =>
    if !m.namesT2 || !m.started || m.flown.isSome || c.held.isSome || c.finished || s.t2Shed [m.src, m.dst] || s.moveFails m then s
    else
      let rows := if m.dst.tier == 2 then s.moveRows m (freeHost s.free m.src) else []
      let reads := if m.src.tier == 2 then (m.src.fmt?.map fun f => readRows m.src f m.src.dims []).getD [] else []
      let (s1, ids) := (s.draw 1).launchAll (s.t2Loads rows reads)
      (s1.writeRows 2 rows).updCmd c.cid ({ · with body := .move { m with flown := some ids } })
  | _ => s

/-- The same of a program's MOVE (R283). -/
def State.flyTransfer (s : State) (r : Run) (t : Transfer) : State :=
  let src2 := t.src.rsv3 == 0 && t.src.tier == 2
  let dst2 := t.dst.rsv3 == 0 && t.dst.tier == 2
  match t.src.fmt?, t.dst.fmt? with
  | some f, some g =>
    if !(src2 || dst2) || t.scan || t.flown.isSome || s.t2Shed [t.src, t.dst] || s.transferFails r t f g then s
    else
      let s0 := if dst2 then (s.carryOut r t f g (freeHost s.free t.src)).draw 1 else s
      let rows := if dst2 then (readRows t.dst g t.extent t.dstOrigin).map fun x => (x.1, Mem.read s0.mem.t2 x.1 x.2) else []
      let (s1, ids) := s0.launchAll (s.t2Loads rows (if src2 then readRows t.src f t.extent t.srcOrigin else []))
      s1.updRun r.rid fun r => { r with moves := updWhere (fun x => x.tid == t.tid) ({ · with flown := some ids }) r.moves }
  | _, _ => s

/-- Every transfer under way that names T2. -/
def State.flyAll (s : State) : State :=
  let s1 := s.rings.cmds.foldl State.flyMove s
  s1.comp.runs.foldl (fun s r => r.moves.foldl (fun s t => s.flyTransfer r t) s) s1

/-- Virtual cores that wait for a reason go on. -/
def State.releaseWait (s : State) (w : Wait) : State :=
  { s with comp.runs := s.comp.runs.map fun r =>
      { r with cores := r.cores.map fun (v : VCore) => if v.wait == some w then { v with wait := none } else v } }

/-- BULK_SLOT: bulk flits go out, those to be resent first, and WAITR mode 1 ends (R281, R387, R428). -/
def execBulkSlot (s : State) : Host.Outcome State Fault Refusal :=
  let s1 := if s.power.applied ≥ 2 then s else (List.range 8).foldl State.sendAgain s.flyAll
  event s s.regs.ready ((s1.openSlot 3).releaseWait .bulk)

/-- TIME_SYNC on a port (R437); its times are in 1/16 ticks. -/
def State.timeSync (s : State) (p : Nat) : Ctrl :=
  { type := 2, groupWide := false, origin := s.group.index, seq := 0, sent := s.clock.round
    body := toLe 8 (16 * s.clock.groupTime) ++ toLe 8 (s.port p).lastRx, inPort := 255 }

/-- A control message of the round under way, put in line. -/
def State.lineNow (s : State) (type : Nat) (body : Bytes) : State :=
  { s with group.toSend := s.group.toSend ++ [{ s.ctrl type body with sent := s.clock.round }], group.msgSeq := s.group.msgSeq + 1
           group.seen := (s.group.index, s.group.msgSeq + 1) :: s.group.seen }

/-- HEARTBEAT in every eighth round (R436): the stage in force and the TIMED ports. -/
def State.heartbeat (s : State) : State :=
  if s.groupMember && s.clock.round % 8 == s.group.index % 8 then
    s.lineNow 0x03 (toLe 1 s.shed ++ toLe 1 (bitsNat (s.ports.map fun p => p.state == 4)))
  else s

/-- Messages on a port in control flits from the first position of the control slot on. -/
def State.putControl (s : State) (p : Nat) (l : List Ctrl) : State :=
  match s.active.slots.find? fun x => x.kind == 0 with
  | some slot => s.updPort p fun x => { x with kept := x.kept ++ placeFlits slot 0 (controlFlits (l.map Ctrl.bytes)) }
  | none => s

/-- CONTROL_SLOT: every message in line goes out on every TIMED port but the one it came by, in the order of their arrival and as many as
the slot takes, the rest in later rounds (R438); TIME_SYNC goes out on every port that is at least LOCKED, and LEAVE on those that a module
that has left kept for it (R423). -/
def execControlSlot (s : State) : Host.Outcome State Fault Refusal :=
  let s1 := s.heartbeat
  let ready (m : Ctrl) : Bool := m.inPort != 255 || m.sent ≤ s1.clock.round
  let due := (s1.group.toSend.filter ready).take (7 * s1.active.controlRoom - 1)
  let rest := (s1.group.toSend.filter ready).drop (7 * s1.active.controlRoom - 1) ++ s1.group.toSend.filter fun m => !ready m
  let ports := (List.range 8).filter fun p => s1.portState p == 4
  let out := due.flatMap fun m => (ports.filter fun p => p != m.inPort).map fun p => (p, m)
  let syncs := ((List.range 8).filter fun p => s1.portState p ≥ 2).map fun p => (p, s1.timeSync p)
  let all := s1.group.parting ++ out ++ syncs
  let s2 := (List.range 8).foldl (fun s p => s.putControl p ((all.filter fun x => x.1 == p).map (·.2))) s1
  let stamp (x : Nat × Port) : Port :=
    { x.2 with syncSent := if x.2.state ≥ 2 then 16 * s.clock.groupTime else x.2.syncSent
               nacks := x.2.nacks.drop (s.active.controlRoom / 5) }
  event s s.regs.ready
    { s2 with group.sent := all, group.toSend := rest, group.parting := [], ports := ((List.range 8).zip s2.ports).map stamp }

/-! ### Replay (R425, R426, R428) -/

/-- Lost flits in the order in which their sender resends them. -/
def replayOrder (l : List Lost) : List Lost := sortBy (fun (a b : Lost) => keyLt a.flit.type a.seq b.flit.type b.seq) l

/-- The module that coordinates the query that a fan-out or return transfer serves. -/
def Flow.coordinator (w : Flow) : Nat :=
  match w.load with
  | .scan _ | .refine _ => w.src
  | _ => w.dst

/-- A lost flit that the replay slot does not deliver (R428): its port goes DOWN; or its transfer is lost, and the query that it served
ends at its coordinator with INTERRUPTED_RETRY, of which another module is told in a return (log 103); a bulk flit comes in a later slot. -/
def State.flitLost (s : State) (x : Lost) : State :=
  match x.flit.type, x.flit.flow with
  | 1, _ => if s.portState x.port == 4 then ((s.portDown x.port).train x.port).cutQueries else s
  | 2, some w | 3, some w =>
    if w.coordinator == s.group.index then s.endAll (fun c => c.cid == w.query && c.admitted && c.query?.isSome) (.of 2)
    else s.launch 2 w.coordinator w.query w.member (.ended 2)
  | _, _ => s

/-- A replayed flit that has come, as if in its original slot (R426): the messages of a control flit, or the transfer of which it was the
last flit missing. -/
def State.flitFound (s : State) (x : Lost) : State :=
  match x.flit.flow with
  | none => x.flit.msgs.foldl (fun s m => if m.length == 32 && s.portState x.port == 4 then s.receive x.port m else s) s
  | some w => if x.flit.last then s.arrive w.load.slot x.port w else s

/-- Those of some numbers that the k-th free draw from here on picks (log 53). -/
def State.picks (s : State) (k : Nat) (l : List Nat) : List Nat := l.filter fun n => (Config.freeNat (s.free + k)).testBit n

/-- REPLAY_SLOT: the flits of the blocks that the far ends have reported lost are resent; some of them are lost again (R425, R428). Of the
flits that this module lost, in the order of replay, some come now. What the links lose is free (log 53). -/
def execReplaySlot (s : State) : Host.Outcome State Fault Refusal :=
  let resend (x : Nat × Port) : Port :=
    let kept := x.2.kept.map (·.1)
    { x.2.replay (s.active.replayRoom x.1) (s.picks x.1 kept) (s.picks (8 + x.1) kept) with nacks := [] }
  let lost := replayOrder s.group.lostFlits
  let arrived := s.picks 16 (List.range lost.length)
  let s1 := ((List.range lost.length).zip lost).foldl (fun s x => if arrived.contains x.1 then s.flitFound x.2 else s.flitLost x.2)
    { s.draw 17 with group.lostFlits := [], ports := ((List.range 8).zip s.ports).map resend }
  event s s.regs.ready (s.settled s1)

/-! ### Consumption of what came for this module (R339, R341, R342, R618, R619) -/

/-- The plan of a request as its holder keeps it. -/
def Ask.plan (a : Ask) : Plan :=
  { metric := 0, k := a.k, probe := a.probe, walkBudget := 0, refine := a.refine, rerank := a.rerank.toNat, operand := none, filter := a.filter
    snapshotReq := a.snapshot, deadline := 0, sealing := a.sealing, resultAddr := 0, resultLen := 0, batch := false }

/-- The member of a request as its holder keeps it: the lists of the partitions asked for, or the candidates named. -/
def State.askMember (s : State) (a : Ask) (g : Generation) (idx : Nat) : Member :=
  let me := s.group.index
  let list (p : Nat) : PartList :=
    { part := p, epoch := ((g.part? p).map fun r => if r.holder == me then r.epoch else r.epoch + 1).getD 0, holder := me, entries := []
      nar := 0, passes := 0, lanesLeft := 0, passEntries := [], blocks := [], done := false }
  { idx, vec := ⟨.k8, a.q8⟩, q8 := a.q8, q16 := a.q16, probes := a.parts, exhaustive := false, lists := a.parts.map list, cand := [], refined := []
    refLeft := a.cands.map (fun x => { key := 0, id := x.1, dist := 0, part := x.2 }), reranked := none, narRefine := 0, narRerank := 0
    dupMerged := false, epochDropped := 0, rerankSkipped := false, status := none, order := 0, full := [], transit := [], asked := []
    querySlot := 0, faultAt := noItem }

/-- A fan-out request for this module: to be charged at this round start. A holder that lacks the collection, its snapshot's
generation or the root key that a sealed result needs says so in its return. -/
def State.takeAsk (s : State) (h : Hop) (refine : Bool) (a : Ask) : State :=
  let refuse (status : Nat) : State := s.launch 2 h.flow.src h.flow.query h.flow.member (.ended status)
  match s.coll? a.coll with
  | none => refuse 12
  | some c =>
    match c.genAt a.snapshot with
    | none => refuse 6
    | some g =>
      if a.sealing != 0 && c.rootHeld.isNone then refuse 7
      else if !refine && g.unreadable a.snapshot a.parts then refuse 8
      else
        let work : QueryWork :=
          { plan := a.plan, members := [s.askMember a g h.flow.member], phase := if refine then .refine else .scan, fetchRound := 0
            snapshot := a.snapshot, gen := g.num, admitRound := a.admitRound, bound := 0, admitNo := a.order, lean := a.lean, bMax := 0
            windowRound := 0, refineRound := 0 }
        { s with group.requests := s.group.requests ++ [{ refine, coord := h.flow.src, order := a.order, query := h.flow.query
                                                          member := h.flow.member, coll := a.coll, round := h.round, served := 0, work }] }

/-- A return for a query of this module, while that member still runs. -/
def State.takeReturn (s : State) (flow : Flow) : State :=
  match (s.cmd? flow.query).bind fun c => c.query?.bind fun q => q.member? flow.member with
  | none => s
  | some m =>
    if m.status.isSome then s else
    match flow.load with
    | .lists l recs =>
      let fill (x : PartList) : PartList := match l.find? fun p => x.holder == flow.src && p.part == x.part with
        | some p => { x with epoch := p.epoch, nar := p.nar, entries := p.entries, done := true }
        | none => x
      (s.updMember flow.query flow.member fun m => { m with lists := m.lists.map fill, transit := m.transit ++ recs }).progress flow.query
    | .refined l nar full recs =>
      (s.updMember flow.query flow.member fun m =>
        { m with refined := m.refined ++ l, narRefine := m.narRefine + nar, full := m.full ++ full, transit := m.transit ++ recs
                 refLeft := m.refLeft.filter fun e => m.askedOf s.group.index e.id != flow.src }).progress flow.query
    | .ended status => s.endMember flow.query flow.member status
    | _ => s

/-- The transfers for this module that came in an earlier round, consumed in the order of their arrival. -/
def State.consumeHops (s : State) : State :=
  let mine (h : Hop) : Bool := h.flow.dst == s.group.index && h.round < s.clock.round && !s.indexWaits h.flow
  (s.group.hops.filter mine).foldl (fun s h => match h.flow.load with
    | .scan a => s.takeAsk h false a
    | .refine a => s.takeAsk h true a
    | .index _ _ _ => s.takeBulk h.flow
    | _ => s.takeReturn h.flow) ({ s with group.hops := s.group.hops.filter fun h => !mine h })

/-! ### Charging (R339, R340) -/

/-- Ledger places: a stack's scan ledger, or 8 + a round of the refine ledger. -/
def State.spent (s : State) (key : Nat) : Nat := if key < 8 then s.comp.ledger.scan.getD key 0 else assoc s.comp.ledger.refine (key - 8)

/-- An amount charged at a place for a coordinator. -/
def State.enter (s : State) (coord key n : Nat) : State :=
  let s1 := if key < 8 then s.chargeScan key n
    else { s with comp.ledger.refine := setAssoc s.comp.ledger.refine (key - 8) (assoc s.comp.ledger.refine (key - 8) + n) }
  { s1 with comp.ledger.shares := s1.comp.ledger.shares ++ [(coord, key, n)] }

/-- Amounts summed by place. -/
def sumKeys (l : List (Nat × Nat)) : List (Nat × Nat) := l.foldl (fun acc x => setAssoc acc x.1 (assoc acc x.1 + x.2)) []

/-- The plan that a request carries, of the image under which its query was admitted (R345). -/
def State.planOf (s : State) (r : Request) : TtPlan := s.planFor r.work.admitRound r.work.lean

/-- The member that a request serves: of a query of this module, or the request's own. -/
def State.requestMember (s : State) (r : Request) : Option Member :=
  if r.coord == s.group.index then ((s.cmd? r.query).bind Cmd.query?).bind fun q => q.member? r.member else r.work.members.head?

/-- The partitions of a scan request that this module scans. -/
def State.requestParts (s : State) (m : Member) : List Nat := (m.lists.filter fun l => l.holder == s.group.index).map (·.part)

/-- What a request costs, by ledger place: exact bytes of its partitions, or the sector reads of its candidates spread over
rounds. -/
def State.requestCost (s : State) (r : Request) : List (Nat × Nat) :=
  match (s.coll? r.coll).bind fun c => (r.work.gen? c).bind fun g => (s.requestMember r).map fun m => (c, g, m) with
  | none => []
  | some (c, g, m) =>
    if r.refine then
      let mine := m.refLeft.filter fun e => m.askedOf s.group.index e.id == s.group.index
      (spread (mine.length * c.fullReads) (s.planOf r).refineReads s.clock.round).map fun x => (8 + x.1, x.2)
    else sumKeys (c.scanCost g r.work.snapshot r.work.plan.passes (s.requestParts m))

/-- The capacity of a ledger place under a request's plan. -/
def State.placeCap (s : State) (r : Request) (key : Nat) : Nat :=
  if key < 8 then (s.planOf r).nScan * (s.planOf r).cStack else (s.planOf r).refineReads

/-- Whether every place of a cost has room; reads never fit a plan that reserves none. -/
def State.requestFits (s : State) (r : Request) : Bool :=
  !(r.refine && (s.planOf r).refineReads == 0 && (s.requestMember r).any fun m => !m.refLeft.isEmpty) &&
  (s.requestCost r).all fun x => s.spent x.1 + x.2 ≤ s.placeCap r x.1

/-- The part of a capacity guaranteed to a coordinator (the share table), rounded up (log 40). -/
def State.shareOf (s : State) (coord cap : Nat) : Nat :=
  let row := s.active.shares.getD s.group.index []
  ceilDiv (row.getD coord 0 * cap) (max 1 row.sum)

/-- Whether a cost fits its coordinator's unused share: what that coordinator's charges leave of it in the ledgers. -/
def State.withinShare (s : State) (r : Request) : Bool :=
  (s.requestCost r).all fun x =>
    let mine := sumBy (fun u : Nat × Nat × Nat => if u.1 == r.coord && u.2.1 == x.1 then u.2.2 else 0) s.comp.ledger.shares
    mine + x.2 ≤ s.shareOf r.coord (s.placeCap r x.1)

/-- The same request in a list. -/
def Request.same (a b : Request) : Bool := a.coord == b.coord && a.query == b.query && a.member == b.member && a.refine == b.refine && a.served == b.served

/-- A request that this holder does not begin: nothing is charged, and its return says how it ended (R341). -/
def State.turnAway (s : State) (r : Request) (status : Nat) : State :=
  let s1 := { s with group.requests := s.group.requests.filter fun x => !x.same r }
  if r.coord == s.group.index then s1.endMember r.query r.member status else s1.launch 2 r.coord r.query r.member (.ended status)

/-- A scan request that meets a partition which cannot be read (R196, R197). -/
def State.requestLost (s : State) (r : Request) : Bool :=
  !r.refine && ((s.coll? r.coll).bind fun c => r.work.gen? c).any fun g =>
    (s.requestMember r).any fun m => g.unreadable r.work.snapshot (s.requestParts m)

/-- An accepted request begins: charged, and its scan jobs queued in acceptance order, or its reads begun. -/
def State.beginRequest (s : State) (r : Request) : State :=
  let s1 := (s.requestCost r).foldl (fun s x => s.enter r.coord x.1 x.2) s
  let place := s1.rings.nextAdmit
  if r.coord == s.group.index then
    let s2 := { s1 with group.requests := s1.group.requests.filter (fun x => !x.same r), rings.nextAdmit := place + 1 }
    if r.refine then s2
    else
      let s3 := s2.updMember r.query r.member ({ · with order := place })
      match s3.coll? r.coll, s3.requestMember r with
      | some c, some m => (s3.beginScan c r.query r.member (s3.requestParts m)).progress r.query
      | _, _ => s3
  else
    let n := s1.rings.nextCid
    let work := { r.work with members := r.work.members.map fun (m : Member) => { m with order := place } }
    let s2 := { s1 with group.requests := updWhere r.same (fun x => { x with served := n, work }) s1.group.requests
                        rings.nextAdmit := place + 1, rings.nextCid := n + 1 }
    match s2.coll? r.coll with
    | some c => (if r.refine then s2 else s2.beginScan c n r.member (work.members.flatMap s2.requestParts)).progress n
    | none => s2


/-- The requests to charge at this round start, by coordinator and admission order. -/
def State.newRequests (s : State) : List Request :=
  let l := s.group.requests.filter fun r => r.served == 0 && r.round < s.clock.round
  sortBy (fun (a b : Request) => keyLt a.coord a.order b.coord b.order) l

/-- The first pass: each coordinator's requests that fit its unused share. -/
def State.sharePass (s : State) (l : List Request) : State :=
  l.foldl (fun s r => if s.withinShare r && s.requestFits r then s.beginRequest r else s) s

/-- Both passes of R339 and R340; a request whose partitions can no longer be read ends first (R196). -/
def State.chargeRequests (s : State) : State :=
  let s0 := (s.newRequests.filter s.requestLost).foldl (fun s r => s.turnAway r 8) s
  let s1 := s0.sharePass s0.newRequests
  s1.newRequests.foldl (fun s r => if s.requestFits r then s.beginRequest r else s.turnAway r 5) s1

/-- An own request of a query that has ended meanwhile is dropped. -/
def State.dropStale (s : State) : State :=
  let live (r : Request) : Bool := r.coord != s.group.index || r.served != 0 ||
    (s.requestMember r).any fun m => m.status.isNone
  { s with group.requests := s.group.requests.filter live }

end Sys2Proof.Machine
end

