-- ==== Sys2Proof/Machine/Repair.lean ====
section
/-!
DEFINITION. HBM errors, page retirement, splices, maintenance slots and HBM_REPAIR (chapters 5, 11, 19), and the repair of
clusters with spare cores (chapters 1, 19).
-/

namespace Sys2Proof.Machine

/-! ### Errors of HBM words (R377, R378) -/

/-- 24 hours in ticks. -/
def dayTicks : Nat := 86400 * 1000 * ticksPerMs

/-- Whether a splice entry in force maps a page onto relief pages (R379, R384). -/
def State.spliced (s : State) (channel page : Nat) : Bool :=
  s.mem.splices.any fun x => x.channel == channel && x.state == 3 && x.first ≤ page && page < x.first + x.pages

/-- Whether a device address lies on a page of a pseudo-channel (R373, R374): where a splice maps its page, on a relief page of the same
stack. -/
def State.liesOn (s : State) (channel page address : Nat) : Bool :=
  (s.pageOf address).any fun p =>
    if s.spliced p.1 p.2 then channel / 64 == p.1 / 64 && 32256 ≤ page && page < 32768 else p == (channel, page)

/-- The times of a page's corrected errors within 24 hours, with one more. -/
def State.correctedTimes (s : State) (channel page : Nat) : List Nat :=
  (((s.errors.pages.find? fun p => p.1 == channel && p.2.1 == page).map (·.2.2)).getD []).filter (fun t => s.clock.groupTime < t + dayTicks)
    ++ [s.clock.groupTime]

/-- HBM_CORRECTED: counted against its page; at the 16th within 24 hours a record, and the count begins anew. -/
def execHbmCorrected (channel page address : Nat) (s : State) : Host.Outcome State Fault Refusal :=
  let l := s.correctedTimes channel page
  let rest := s.errors.pages.filter fun p => !(p.1 == channel && p.2.1 == page)
  let keep := if l.length ≥ 16 then rest else (channel, page, l) :: rest
  let s1 := { s with errors.pages := keep }
  event s (channel < 512 && s.liesOn channel page address)
    (if l.length ≥ 16 then s.settled (s1.record { code := 0x0010, severity := 0, unitKind := 7, unit := channel, address }) else s1)

/-- The 32-byte word of an address. -/
def wordOf (address : Nat) : Nat := address / 32 * 32

/-- Words that read poisoned from here on. -/
def State.poison (s : State) (words : List Nat) : State :=
  { s with mem.poison := s.mem.poison ++ words.filter fun w => !s.mem.poison.contains w }

/-- HBM_UNCORRECTABLE: the word reads poisoned until it is written whole; whoever reads it ends as the table of poisoned reads
says, at its own completion. -/
def execHbmUncorrectable (channel page address : Nat) (s : State) : Host.Outcome State Fault Refusal :=
  event s (channel < 512 && s.liesOn channel page address)
    (s.settled ((s.poison [wordOf address]).record
      { code := 0x0011, severity := 1, unitKind := 7, unit := channel, address, page := some page }))

/-! ### Relief pages and splice entries (R379 to R384) -/

def State.splicesOf (s : State) (stack : Nat) : List Splice := s.mem.splices.filter fun x => x.stack == stack

/-- Pages that wait for their mapping at the next round start. -/
def State.retiringIn (s : State) (stack : Nat) : Nat := (s.mem.retiring.filter fun r => r.1 / 64 == stack).length

/-- Relief pages of a stack that are free. -/
def State.reliefFree (s : State) (stack : Nat) : Nat := 64 * 512 - sumBy (fun x : Splice => x.pages) (s.splicesOf stack) - s.retiringIn stack

/-- The lowest free entry of a stack's splice table. -/
def State.freeEntry (s : State) (stack : Nat) : Option Nat := (List.range 1024).find? fun n => !(s.splicesOf stack).any fun x => x.num == n

/-- Entries that are free beyond those that waiting retirements will take. -/
def State.entriesFree (s : State) (stack : Nat) : Nat := 1024 - (s.splicesOf stack).length - s.retiringIn stack

def State.splice? (s : State) (stack num : Nat) : Option Splice := (s.splicesOf stack).find? fun x => x.num == num

def State.updSplice (s : State) (stack num : Nat) (f : Splice → Splice) : State :=
  { s with mem.splices := updWhere (fun x => x.stack == stack && x.num == num) f s.mem.splices }

/-- The record of a completed repair. -/
def State.repaired (s : State) (channel : Nat) : State := s.record { code := 0x0013, severity := 2, unitKind := 7, unit := channel }

/-- Spare data lanes left of a pseudo-channel, those of remaps under way counted as used. -/
def State.lanesLeft (s : State) (channel : Nat) : Nat :=
  2 - assoc s.mem.lanesSpare channel
    - (s.mem.splices.filter fun x => x.channel == channel && x.repair == 1 && !x.released && !x.back).length

/-- Post-package repair rows left of a pseudo-channel: one for each DRAM bank, whose number is open (log 2). -/
def State.pprLeft (s : State) (channel : Nat) : Nat := Config.banks - (s.mem.pprUsed.filter fun x => x.1 == channel).length

/-- The reply body of HBM_REPAIR. -/
def State.repairBody (s : State) (channel num : Nat) : Bytes :=
  let stack := channel / 64
  toLe 2 num ++ toLe 1 (((s.splice? stack num).map (·.state)).getD 0) ++ toLe 1 (s.lanesLeft channel) ++ toLe 2 (s.reliefFree stack)
    ++ toLe 2 (s.pprLeft channel) ++ zeros 8

/-! ### Page retirement (R196 to R198, R379, R380, R666) -/

/-- The words of runs of device addresses, which read poisoned when their page is retired (R379). -/
def runWords (runs : List (Nat × Nat)) : List Nat := runs.flatMap fun r => (List.range (r.2 / 32)).map fun w => r.1 + 32 * w

/-- Whether a range shares a byte with runs. -/
def onRuns (runs : List (Nat × Nat)) (r : Nat × Nat) : Bool := r.1 != 0 && runs.any (overlap r)

/-- The partitions of a generation that structures on runs belong to: segments, reference arrays and tombstone chunk copies. -/
def Collection.affectedIn (c : Collection) (runs : List (Nat × Nat)) (g : Generation) : List Nat :=
  let seg (p : Partition) (x : Segment) : Bool :=
    x.part == p.num && x.gens.contains g.num && (onRuns runs (c.segRange x) || onRuns runs (x.refArray, x.refBytes))
  let chunk (p : Partition) (k : ChunkCopy) : Bool := k.gen == p.owner && k.part == p.num && onRuns runs (k.addr, 4096)
  (g.parts.filter fun p => c.segs.any (seg p) || c.chunks.any (chunk p)).map (·.num)

/-- A retired page held structures of a collection's partitions, of whatever retained generation. -/
def Collection.affected (c : Collection) (runs : List (Nat × Nat)) : Bool := c.gens.any fun g => !(c.affectedIn runs g).isEmpty

/-- It held route-graph records or a codebook. -/
def Collection.graphOn (c : Collection) (runs : List (Nat × Nat)) : Bool := c.graphRanges.any (onRuns runs)

/-- Queries whose probe sets meet a partition that cannot be read, and requests that scan one for another coordinator, end (R196). -/
def State.endLost (s : State) (coll : Nat) : State :=
  let gone (snap gen : Nat) (probes : List Nat) : Bool :=
    ((s.coll? coll).bind fun c => c.gens.find? fun g => g.num == gen).any fun g => g.unreadable snap probes
  let own := s.rings.cmds.flatMap fun c => match c.query? with
    | some q => if c.admitted && !c.finished && c.hdr.collection == coll then
        (q.active.filter fun m => gone q.snapshot q.gen m.probes).map fun m => (c.cid, m.idx) else []
    | none => []
  let served := (s.group.requests.filter fun r => r.served != 0 && !r.refine && r.coll == coll
      && r.work.members.any fun m => gone r.work.snapshot r.work.gen m.probes).map fun r => (r.served, r.member)
  (own ++ served).foldl (fun s x => s.endMember x.1 x.2 8) s

/-- A collection with the structures of a retired page lost: its partitions to be rebuilt, its route graph to be copied
back. -/
def State.loseStructures (s : State) (c : Collection) (runs : List (Nat × Nat)) : State :=
  let mark (c : Collection) (g : Generation) (p : Partition) : Partition := if (c.affectedIn runs g).contains p.num then { p with lost := true } else p
  let s1 := s.updColl c.cid fun c =>
    { c with copyBack := c.copyBack || c.graphOn runs, gens := c.gens.map fun g => { g with parts := g.parts.map (mark c g) } }
  let now := ((c.gens.find? fun g => g.num == c.lastGen).map (c.affectedIn runs)).getD []
  (if now.isEmpty then s1 else s1.startJob c.cid (c.rebuildJob now none)).endLost c.cid

/-- A page mapped onto a relief page at a round start, and its RETIRE_PAGE answered. -/
def State.mapPage (s : State) (r : Nat × Nat × Nat) : State :=
  let (channel, page, seq) := r
  let stack := channel / 64
  let num := (s.freeEntry stack).getD 0
  let entry : Splice := { num, stack, channel, first := page, pages := 1, state := 3, copied := 65536, released := true, back := false, retire := true
                          repair := 0, ended := true, msg := none, maint := 0, ppr := none }
  let runs := s.pageRuns channel page
  let hit := s.colls.filter fun c => c.affected runs || c.graphOn runs
  let s1 := { s with mem.retired := s.mem.retired ++ [(channel, page)], mem.splices := s.mem.splices ++ [entry] }
  let s2 := hit.foldl (fun s c => s.loseStructures c runs) (s1.poison (runWords runs))
  let s3 := s2.record { code := 0x0012, severity := 2, unitKind := 7, unit := channel
                        address := ((runs.head?).map (·.1)).getD (Config.freeNat s2.free), page := some page }
  let s4 := if s.colls.any fun c => c.affected runs then s3
    else (s3.endRecovery (7, channel)).endRecovery (8, stack)
  s4.replyLater 0x82 (some seq)
    (toLe 2 s4.mem.retired.length ++ toLe 2 (s4.reliefFree stack) ++ toLe 2 num ++ toLe 2 hit.length ++ zeros 8)

/-- The retirements that were waiting, in their order. -/
def State.mapPages (s : State) : State := s.mem.retiring.foldl (fun s r => ({ s with mem.retiring := s.mem.retiring.tail }).mapPage r) s

/-- RETIRE_PAGE. -/
def execRetirePage (cells : Bytes) (_host : HostImage) (s : State) : Host.Outcome State Fault Refusal :=
  let m := msgBytes cells
  let channel := field m 0x20 2
  let page := field m 0x22 2
  messageEvent s ⟨0x82, 0x30, Component.memory, false⟩ cells [(0x24, 12, 0xFF)] true
    (fieldAt [(channel > 511, 0x20), (page > 32255, 0x22)]) fun s seq =>
      if s.mem.retired.contains (channel, page) || s.mem.retiring.any (fun r => r.1 == channel && r.2.1 == page) then
        s.refuse 0x82 seq 6 noOffset 0
      else if s.mem.retired.length + s.mem.retiring.length ≥ 4096 || s.reliefFree (channel / 64) == 0 || s.entriesFree (channel / 64) == 0 then
        s.refuse 0x82 seq 7 noOffset 0
      else { s with mem.retiring := s.mem.retiring ++ [(channel, page, seq)] }

/-! ### HBM_REPAIR (R669 to R672) -/

/-- The HBM_REPAIR rows: fields that an action of the table does not use are reserved (R726); outside a service session it is refused. A message
whose action the table does not list comes under the row of action 0 (log 41). -/
def repairEvent (s : State) (cells : Bytes) (action : Nat) (run : State → Nat → State) : Host.Outcome State Fault Refusal :=
  let m := msgBytes cells
  let a := byteAt m 0x20
  let runs := 1 ≤ action && action ≤ 3
  let unused := (if action == 1 then [] else [(0x21, 1, 0xFF)]) ++ (if runs then [] else [(0x24, 4, 0xFF)])
    ++ (if action == 3 then [] else [(0x28, 4, 0xFF)]) ++ (if action == 3 || action == 4 then [] else [(0x2C, 2, 0xFF)])
  let bad := fieldAt [(a > 4, 0x20), (field m 0x22 2 > 511, 0x22), (runs && field m 0x24 2 + field m 0x26 2 > 32256, 0x24),
    (runs && (field m 0x26 2 == 0 || field m 0x26 2 > 64), 0x26), (action ≥ 3 && field m 0x2C 2 > 1023, 0x2C)]
  messageEvent s ⟨0x83, 0x40, Component.memory, false⟩ cells ((0x2E, 18, 0xFF) :: if a > 4 then [] else unused) (a == action || (action == 0 && a > 4)) bad
    fun s seq => if s.keys.session.isNone then s.refuse 0x83 seq 8 noOffset 0 else run s seq

/-- Action 0: the state of entry 0 of the pseudo-channel's stack, since the request names none, and what is left. -/
def execHbmRepairStatus (cells : Bytes) (_host : HostImage) (s : State) : Host.Outcome State Fault Refusal :=
  repairEvent s cells 0 fun s seq => s.reply 0x83 seq (s.repairBody (field (msgBytes cells) 0x22 2) 0)

/-- A run of pages that begins to be copied (R670, R381): a free entry and relief pages are taken. -/
def State.beginSplice (s : State) (m : Bytes) (action seq : Nat) : State :=
  let channel := field m 0x22 2
  let stack := channel / 64
  let n := field m 0x26 2
  match s.freeEntry stack with
  | none => s.refuse 0x83 seq 7 noOffset 0
  | some num =>
    if s.entriesFree stack == 0 || s.reliefFree stack < n || (action == 1 && s.lanesLeft channel == 0) then s.refuse 0x83 seq 7 noOffset 0
    else
      { s with mem.splices := s.mem.splices ++ [{ num, stack, channel, first := field m 0x24 2, pages := n, state := 1, copied := 0, released := false
                                                  back := false, retire := false, repair := action, ended := false, msg := some seq, maint := 0
                                                  ppr := none }] }

def execHbmRepairLaneRemap (cells : Bytes) (_host : HostImage) (s : State) : Host.Outcome State Fault Refusal :=
  repairEvent s cells 1 fun s seq => s.beginSplice (msgBytes cells) 1 seq

def execHbmRepairRowReplacement (cells : Bytes) (_host : HostImage) (s : State) : Host.Outcome State Fault Refusal :=
  repairEvent s cells 2 fun s seq => s.beginSplice (msgBytes cells) 2 seq

/-- Action 3: the named entry is ACTIVE over a run that holds the row, and the row's bank has a repair row left. How many
maintenance slots it takes, at most 64, is free (log 2). -/
def execHbmRepairPostPackageRepair (cells : Bytes) (_host : HostImage) (s : State) : Host.Outcome State Fault Refusal :=
  let m := msgBytes cells
  let channel := field m 0x22 2
  let row := field m 0x28 4
  let num := field m 0x2C 2
  repairEvent s cells 3 fun s seq =>
    match s.splice? (channel / 64) num with
    | none => s.refuse 0x83 seq 6 0x2C 0
    | some x =>
      if x.state != 3 || x.back || x.channel != channel || x.ppr.isSome || !Config.rowInRun channel x.first x.pages row then
        s.refuse 0x83 seq 6 0x2C 0
      else if s.mem.pprUsed.any fun u => u.1 == channel && Config.bankOf u.2 == Config.bankOf row then s.refuse 0x83 seq 7 noOffset 0
      else
        (s.updSplice (channel / 64) num fun x =>
          { x with ppr := some row, maint := 1 + Config.freeNat s.free % 64, ended := false, repair := 3, msg := some seq }).draw 1

/-- Action 4: the relief pages are copied back (R672). -/
def execHbmRepairRelease (cells : Bytes) (_host : HostImage) (s : State) : Host.Outcome State Fault Refusal :=
  let m := msgBytes cells
  let stack := field m 0x22 2 / 64
  let num := field m 0x2C 2
  repairEvent s cells 4 fun s seq =>
    match s.splice? stack num with
    | none => s.refuse 0x83 seq 6 0x2C 0
    | some x =>
      if x.state != 3 || x.retire || !x.ended || x.back then s.refuse 0x83 seq 6 0x2C 0
      else s.updSplice stack num fun x => { x with state := 1, back := true, copied := 0, msg := some seq }

/-! ### The switch at a round start, and the release of the old run (R382, R384, R670, R672) -/

/-- An ARMED entry switched: ACTIVE, or FREE where the copy ran back; lane passes under way keep the old run (R384). -/
def State.switchSplice (s : State) (x : Splice) : State :=
  if x.back then
    let s1 := { s with mem.splices := s.mem.splices.filter fun y => !(y.stack == x.stack && y.num == x.num) }
    s1.replyLater 0x83 x.msg (s1.repairBody x.channel x.num)
  else
    let s1 := s.updSplice x.stack x.num fun y => { y with state := 3, ended := y.ended || y.repair == 2 || y.repair == 0, msg := none }
    let mark (p : LanePass) : LanePass := if p.started && p.lane == x.channel then { p with splices := p.splices ++ [x.num] } else p
    let s2 := { s1 with comp.passes := s1.comp.passes.map mark }
    let s3 := if x.repair == 2 then s2.repaired x.channel else s2
    ((s3.endRecovery (7, x.channel)).endRecovery (8, x.stack)).replyLater 0x83 x.msg (s3.repairBody x.channel x.num)

def State.switchSplices (s : State) : State := (s.mem.splices.filter fun x => x.state == 2).foldl State.switchSplice s

/-- SPLICE_OLD_RUN_RELEASE: no pass reads the old run any more; a lane remap is applied and its pseudo-channel retrained
(R670). -/
def execSpliceOldRunRelease (stack entry : Nat) (s : State) : Host.Outcome State Fault Refusal :=
  match s.splice? stack entry with
  | none => .next s
  | some x =>
    let spans := s.comp.passes.any fun p => p.started && p.lane / 64 == stack && p.splices.contains entry
    let s1 := s.updSplice stack entry ({ · with released := true })
    let s2 := if x.repair == 1 then
      { s1 with mem.lanesSpare := setAssoc s1.mem.lanesSpare x.channel (assoc s1.mem.lanesSpare x.channel + 1)
                mem.retraining := s1.mem.retraining ++ [(x.channel, 0)] } else s1
    event s (x.state == 3 && !x.released && !x.back && !spans) s2

/-! ### The maintenance slot (R330, R331, R381, R382, R671) -/

/-- A copy step of an entry. -/
def copyStep (x : Splice) : Splice :=
  let n := x.copied + 65536
  if n ≥ 65536 * x.pages then { x with copied := 65536 * x.pages, state := 2 } else { x with copied := n }

/-- A maintenance step of a post-package repair; with the last it is written, recorded and answered. -/
def State.pprStep (s : State) (x : Splice) : State :=
  if x.maint > 1 then s.updSplice x.stack x.num fun y => { y with maint := y.maint - 1 }
  else
    let s1 := s.updSplice x.stack x.num fun y => { y with maint := 0, ppr := none, ended := true, msg := none }
    let s2 := ({ s1 with mem.pprUsed := s1.mem.pprUsed ++ (x.ppr.map fun r => (x.channel, r)).toList }).repaired x.channel
    s2.replyLater 0x83 x.msg (s2.repairBody x.channel x.num)

/-- A retraining of a pseudo-channel that has ended: a lane remap waiting for it is complete. Where the retraining finds a lane
failing (free, log 2) and a spare lane, a splice entry and relief pages remain, the memory service begins a remap of its own, over a
run that the spec does not fix (free). -/
def State.trained (s : State) (channel : Nat) : State :=
  let stack := channel / 64
  let waits := s.mem.splices.filter fun x => x.channel == channel && x.repair == 1 && x.released && !x.ended
  let s1 := waits.foldl (fun s x => (s.updSplice x.stack x.num ({ · with ended := true })).repaired channel) s
  let n := 1 + Config.freeNat (s1.free + 1) % 64
  match s1.freeEntry stack with
  | some num =>
    if waits.isEmpty && Config.freeBit s1.free && s1.entriesFree stack > 0 && s1.reliefFree stack ≥ n && s1.lanesLeft channel > 0 then
      let x : Splice := { num, stack, channel, first := Config.freeNat (s1.free + 2) % (32256 - n), pages := n, state := 1, copied := 0
                          released := false, back := false, retire := false, repair := 1, ended := false, msg := none, maint := 0, ppr := none }
      { s1.draw 3 with mem.splices := s1.mem.splices ++ [x] }
    else s1.draw 3
  | none => s1.draw 3

/-- A retraining step: a full retraining takes at most 16, how many is free (log 2). -/
def State.retrainStep (s : State) (channel : Nat) : State :=
  let n := assoc s.mem.retraining channel + 1
  let rest := s.mem.retraining.filter fun r => r.1 != channel
  if n ≥ 16 || Config.freeBit s.free then ({ s.draw 1 with mem.retraining := rest }).trained channel
  else { s.draw 1 with mem.retraining := rest ++ [(channel, n)] }

/-- Whether a hold serves an extended self-test under way, which takes pseudo-channels only so (R679): free (log 2). -/
def State.testsHold (s : State) : Bool := s.fw.selftest.1 == 1 && s.fw.selftest.2.1 == 1 && Config.freeBit s.free

/-- What a held pseudo-channel's hold serves: a copy step, a step of a post-package repair, a self-test, or a retraining step. -/
def State.holdStep (s : State) (channel : Nat) : State :=
  match s.mem.splices.find? fun x => x.channel == channel && x.state == 1 with
  | some x => s.updSplice x.stack x.num copyStep
  | none =>
    match s.mem.splices.find? fun x => x.channel == channel && x.ppr.isSome && x.released with
    | some x => s.pprStep x
    | none => if s.testsHold then { s.draw 1 with mem.testHeld := s.mem.testHeld ++ [channel] } else s.retrainStep channel

/-- Oldest journal parts whose mutations have completed: those that a checkpoint may drop (R405). -/
def Journal.droppable (l : List Journal) : Nat := (l.takeWhile fun j => j.done && j.onMedium).length

/-- A housekeeping burst (R331): journal parts checkpointed and the medium kept (R401), as much as the burst takes (free, log 2). A
failed read's flash channel has recovered once its sector is relocated. -/
def State.housekeep (s : State) : State :=
  let j := Config.freeNat s.free % (Journal.droppable s.store.journal + 1)
  let (s1, gone) := ({ s.draw 1 with store.journal := s.store.journal.drop j, comp.housekeeping := [] }).mediumBurst
  gone.foldl (fun s x => s.endRecovery (9, x.1)) s1

/-- MAINTENANCE_SLOT: at most one pseudo-channel of each stack is held; a stack in self-refresh, and a die asleep, has no
step. -/
def execMaintenanceSlot (held : List Nat) (s : State) : Host.Outcome State Fault Refusal :=
  let good := held.all (fun c => c < 512 && !s.mem.selfRefresh.contains (c / 64)) && (distinct (held.map fun c => c / 64)).length == held.length
  let s1 := held.foldl State.holdStep { s with mem.held := held, mem.testHeld := [] }
  event s (s.regs.ready && good && (held.isEmpty || s.compUp Component.memory))
    (s.settled (if s.storesUp && !s.dieAsleep 0 && !s.dieAsleep 1 then s1.housekeep else s1))

/-- PSEUDO_CHANNEL_REFRESH: the lane pauses, or goes on at the same slot (R152). -/
def execPseudoChannelRefresh (channel : Nat) (resume : Bool) (s : State) : Host.Outcome State Fault Refusal :=
  let pause (p : LanePass) : LanePass := if p.lane == channel then { p with paused := !resume } else p
  let list := if resume then s.mem.refreshing.filter fun c => c != channel else s.mem.refreshing ++ [channel]
  event s (channel < 512 && s.mem.refreshing.contains channel == resume)
    { s with mem.refreshing := list, comp.passes := s.comp.passes.map pause }

/-! ### Clusters and spare cores (R20, R21, R663 to R665) -/

/-- The number of a core as records name it (log 21). -/
def coreUnit (cluster core : Nat) : Nat := 68 * cluster + core

/-- The enabled cores of a cluster (R20). -/
def State.enabledOf (s : State) (cluster : Nat) : List Nat := s.comp.enabled.getD cluster []

/-- A core marked failing: its repair waits for the next round start. One that is not enabled only leaves the spares. -/
def State.markFailing (s : State) (cluster core : Nat) : State :=
  if s.comp.defective.contains (cluster, core) || s.comp.repairing.any (fun r => r.1 == cluster && r.2.1 == core) then s
  else if (s.enabledOf cluster).contains core then { s with comp.repairing := s.comp.repairing ++ [(cluster, core, 0)] }
  else { s with comp.defective := s.comp.defective ++ [(cluster, core)] }

/-- The program whose team stands on a cluster stops, as at a poisoned word (R306). -/
def State.stopOn (s : State) (cluster : Nat) : State :=
  (s.comp.runs.filter fun r => r.teams.any fun t => t.2 == cluster).foldl (fun s r =>
    (s.updRun r.rid ({ · with medium := true })).settleRun r.rid) s

/-- CORE_MEMORY_UNCORRECTABLE: a record; its reader, the team on the cluster or the query whose walk, refinement or merge runs
there, ends; twice within 24 hours marks the core failing. -/
def execCoreMemoryUncorrectable (cluster core address : Nat) (query : Option (Nat × Nat)) (s : State) : Host.Outcome State Fault Refusal :=
  let u := coreUnit cluster core
  let again := (s.errors.coreWords.find? fun x => x.1 == u).any fun x => s.clock.groupTime < x.2 + dayTicks
  let s1 := { s with errors.coreWords := setAssoc s.errors.coreWords u s.clock.groupTime }
  let s2 := s1.record { code := 0x0018, severity := 1, unitKind := 6, unit := u, address }
  let s3 := if again then s2.markFailing cluster core else s2
  event s (cluster < 64 && core < 68)
    (s.settled (match query with
      | some (cid, member) => if (s3.cmd? cid).any (fun c => c.admitted && c.query?.isSome) then s3.endMember cid member 8 else s3
      | none => s3.stopOn cluster))

/-- CORE_DATAPATH_PARITY. -/
def execCoreDatapathParity (cluster core : Nat) (s : State) : Host.Outcome State Fault Refusal :=
  event s (cluster < 64 && core < 68) (s.markFailing cluster core)

/-- Good cores of a cluster: neither defective nor failing (R21). -/
def State.goodCores (s : State) (cluster : Nat) : Nat :=
  let bad := (s.comp.defective.filter fun d => d.1 == cluster).map (·.2)
    ++ (s.comp.repairing.filter fun r => r.1 == cluster && r.2.2 != 3).map fun r => r.2.1
  68 - (distinct bad).length

/-- A cluster with too few good cores: out of service, where the recovery of its failing cores ends (R21, R665). -/
def State.retireCluster (s : State) (cluster : Nat) : State :=
  let mine := s.comp.repairing.filter fun r => r.1 == cluster
  let bad := (mine.map fun r => (r.1, r.2.1)).filter fun d => !s.comp.defective.contains d
  let s1 : State := { s with comp.defective := s.comp.defective ++ bad
                             comp.out := sortNats (s.comp.out ++ [cluster]), comp.enabled := s.comp.enabled.set cluster []
                             comp.repairing := s.comp.repairing.filter fun r => r.1 != cluster }
  (mine.foldl (fun (s : State) r => s.endRecovery (6, coreUnit r.1 r.2.1)) s1).endRecovery (5, cluster)

/-- Step 1 of R664 for a failing core: its cluster leaves every window, and with fewer than 64 good cores leaves service (R21). -/
def State.beginCoreRepair (s : State) (r : Nat × Nat × Nat) : State :=
  if !s.comp.repairing.contains r then s else
  let s1 := (s.dropFromWindows r.1).record { code := 0x0019, severity := 2, unitKind := 6, unit := coreUnit r.1 r.2.1 }
  if s1.goodCores r.1 < 64 then s1.retireCluster r.1
  else { s1 with comp.repairing := updWhere (fun x => x == r) (fun x => (x.1, x.2.1, 1)) s1.comp.repairing }

/-- At a round start: a cluster all of whose failing cores have been replaced returns, and the clusters of failing cores leave every
window (R664, steps 1 and 4). -/
def State.repairRound (s : State) : State :=
  let back := s.comp.repairing.filter fun r => s.comp.repairing.all fun x => x.1 != r.1 || x.2.2 == 3
  let s1 := back.foldl (fun s r => (s.endRecovery (6, coreUnit r.1 r.2.1)).endRecovery (5, r.1))
    ({ s with comp.repairing := s.comp.repairing.filter fun r => !back.contains r })
  (s.comp.repairing.filter fun r => r.2.2 == 0).foldl State.beginCoreRepair s1

/-- SPARE_TEST_END: a spare that passed takes the failing core's place among the enabled cores, and the cluster returns at the next round
start; one that failed is defective too, and with fewer than 64 good cores left the cluster is out of service (R20, R21, R664, R665). -/
def execSpareTestEnd (cluster spare : Nat) (passed : Bool) (s : State) : Host.Outcome State Fault Refusal :=
  match s.comp.repairing.find? fun r => r.1 == cluster && r.2.2 == 1 with
  | none => .next s
  | some r =>
    let idle := !s.comp.runs.any fun x => x.teams.any fun t => t.2 == cluster
    let isSpare := spare < 68 && !(s.enabledOf cluster).contains spare && !s.comp.defective.contains (cluster, spare)
    let s1 := { s with comp.defective := s.comp.defective ++ [(cluster, r.2.1)]
                       comp.enabled := s.comp.enabled.modify cluster fun l => sortNats (spare :: l.filter fun k => k != r.2.1)
                       comp.repairing := updWhere (fun x => x == r) (fun x => (x.1, x.2.1, 3)) s.comp.repairing }
    let s2 := { s with comp.defective := s.comp.defective ++ [(cluster, spare)] }
    event s (isSpare && idle) (if passed then s1 else if s2.goodCores cluster < 64 then s2.retireCluster cluster else s2)

/-! ### Units of a self-test (R679) -/

/-- A cluster that a self-test may take: in service, with no team on it and no work that waits for a window of it. -/
def State.testable (s : State) (cluster : Nat) : Bool :=
  !s.comp.out.contains cluster && !(s.comp.repairing.any fun r => r.1 == cluster) && !s.clusterWanted cluster
    && !s.comp.runs.any fun r => r.teams.any fun t => t.2 == cluster

/-- At a round start a self-test takes clusters that are idle, which of them is free (log 2), and releases those that work needs; a step
that was so interrupted is repeated once its cluster is taken again. -/
def State.testRound (s : State) : State :=
  if s.fw.selftest.1 != 1 then s
  else
    let s1 := s.interruptTests (s.comp.underTest.filter fun c => !s.testable c)
    let take := (List.range 64).filter fun c => s.testable c && (s1.comp.underTest.contains c || (Config.freeByte s.free c).getLsbD 0)
    { s1.draw 1 with comp.underTest := take, comp.testAgain := s1.comp.testAgain.filter fun c => !take.contains c }

end Sys2Proof.Machine
end

