-- ==== Sys2Proof/Machine/Rounds.lean ====
section
/-!
DEFINITION. ROUND_START: what every round boundary does (chapters 3, 10, 11, 12, 18, 19), in the order in which later items
rest on earlier ones, with admission last.
-/

namespace Sys2Proof.Machine

/-! ### The turn of the round (R324, R422, R425) -/

/-- The next round begins at its tick; what counts by the round begins anew. -/
def State.turn (s : State) : State :=
  let s1 := s.advance (s.roundTick (s.clock.round + 1))
  { s1 with
    clock.round := s1.clock.round + 1
    comp.ledger.admitted := 0
    mem.held := []
    ports := s1.ports.map (fun (p : Port) => { p with lost := 0, nacks := [], kept := [], resent := [] })
    group.lostFlits := []
    group.sentHops := [] }

/-! ### Switching timetables (R349, R350) -/

/-- A drained switch starts to drain, and the switch round switches. -/
def State.switchStep (s : State) : State :=
  let s1 := if s.sw.state == 2 && s.sw.drained && s.clock.round + s.active.nDrain ≥ s.sw.atRound then { s with sw.state := 3 } else s
  if s1.switching && s1.clock.round == s1.sw.atRound then s1.switchRound else s1

/-! ### Ports, routes and the leader (R430, R432, R453 to R458) -/

/-- Routes that break or become whole from this round, and a leader taken from it. -/
def State.routeStep (s : State) : State :=
  let r := s.clock.round
  let due := fun (x : Nat × Nat × Nat) => x.1 ≤ r
  let whole := (s.group.upFrom.filter due).map (·.2)
  let broken := (s.group.brokenFrom.filter due).map (·.2)
  let kept := (s.group.brokenPorts ++ broken).filter fun b => !whole.contains b
  let leader := match s.group.leaderFrom with
    | some x => if x.1 ≤ r then (x.2, none) else (s.group.leader, some x)
    | none => (s.group.leader, none)
  { s with group := { s.group with
      brokenPorts := kept, brokenFrom := s.group.brokenFrom.filter (fun x => !due x), upFrom := s.group.upFrom.filter (fun x => !due x)
      leader := leader.1, leaderFrom := leader.2 } }

/-- Ports that are TIMED again from this round; their recovery has ended. -/
def State.timePorts (s : State) : State :=
  let back := (List.range 8).filter fun p => (s.port p).state == 3 && (s.port p).timedAt.any fun r => r ≤ s.clock.round
  back.foldl (fun s p => (s.updPort p ({ · with state := 4, timedAt := none })).endRecovery (10, p)) s

/-- The neighbours of a module over ports that are TIMED as far as this module knows: its own ports by their states, others' unless they
were announced DOWN or their module is lost (R453, R456, log 107). -/
def State.neighbours (s : State) (m : Nat) : List Nat :=
  (List.range 8).filterMap fun p =>
    if m == s.group.index then (if s.portState p == 4 then some (s.port p).farModule else none)
    else (Config.cable m p).bind fun f =>
      if s.group.brokenPorts.contains (m, p) || s.group.brokenPorts.contains f || s.group.lost.contains f.1 then none else some f.1

/-- Modules by their distance in hops from a first layer, as far as a number of hops. -/
def State.layers (s : State) : Nat → List Nat → List Nat → List (List Nat)
  | 0, _, _ => []
  | n + 1, seen, layer =>
    let next := distinct ((layer.flatMap s.neighbours).filter fun m => !seen.contains m && m < s.group.size)
    layer :: s.layers n (seen ++ next) next

/-- Hops from a module to the leader; none where no path of TIMED ports leads there (R430). -/
def State.hopsToLeader (s : State) (m : Nat) : Option Nat :=
  (s.layers s.group.size [s.group.leader] [s.group.leader]).findIdx? fun l => l.contains m

/-- The time parent: the port to a neighbour on a shortest path of TIMED ports to the leader, the lowest of equals. -/
def State.bestParent (s : State) : Option Nat :=
  let known := ((List.range 8).filter fun p => s.portState p == 4 && !s.group.lost.contains (s.port p).farModule).filterMap fun p =>
    (s.hopsToLeader (s.port p).farModule).map fun d => (d, p)
  (known.foldl (fun (b : Option (Nat × Nat)) x => if b.all fun y => x.1 < y.1 then some x else b) none).map (·.2)

/-- The time parent taken, and the rounds without one, or without a leader within reach, counted. -/
def State.followLeader (s : State) : State :=
  if !s.groupMember then s
  else
    let leads := s.group.leader == s.group.index
    let parent := if leads then none else s.bestParent
    { s with group.parent := parent
             group.orphan := if leads || parent.isSome then 0 else s.group.orphan + 1
             group.noLeader := if s.group.lost.contains s.group.leader then s.group.noLeader + 1 else 0 }

/-! ### Lending and placement moves (R386, R448, R451) -/

/-- Windows whose agreed round has come open. -/
def State.openLoans (s : State) : State :=
  let due (l : Loan) : Bool := !l.opened && l.start.any fun r => r ≤ s.clock.round
  { s with mem.loans := updWhere due ({ · with opened := true }) s.mem.loans }

/-- From r_open, the partition has two placements in every generation; at B it lies on the stack with the most free T1 (R716). -/
def State.openMove (s : State) (m : MoveOp) : State :=
  let k := s.freestStack
  let at_ (p : Partition) : Partition := if m.dst == s.group.index then { p with stack := k } else p
  let mark (p : Partition) : Partition := if p.num == m.part && p.holder == m.src then { at_ p with move := some m.dst } else p
  s.updColl m.coll fun c => { c with gens := c.gens.map fun g => { g with parts := g.parts.map mark } }

/-- A's EPOCH_CLOSE in the control slot of this round, with r_close at least N_drain rounds after r_both. -/
def State.sendClose (s : State) (m : MoveOp) (both : Nat) : State :=
  let r := s.clock.round
  let at0 := max (both + m.drain) (r + s.safeAt)
  let is (x : MoveOp) : Bool := x.coll == m.coll && x.part == m.part
  ({ s with group.moves := updWhere is ({ · with closes := some at0 }) s.group.moves }).lineNow 0x0D
    (toLe 2 m.coll ++ toLe 4 m.part ++ toLe 4 m.epoch ++ toLe 2 m.src ++ toLe 2 (at0 - r))

/-- What this round brings to a move: A sends its copy once every COMMIT of a round before r_open has reached it; A frees its copy,
and the move ends, N_drain rounds after r_close, N_drain being the largest of the images active since r_open (R448). -/
def State.moveStep (s0 : State) (m0 : MoveOp) : State :=
  let r := s0.clock.round
  let is (x : MoveOp) : Bool := x.coll == m0.coll && x.part == m0.part
  let m := { m0 with drain := if m0.opens ≤ r then max m0.drain s0.active.nDrain else 0 }
  let s := { s0 with group.moves := updWhere is (fun x => { x with drain := m.drain }) s0.group.moves }
  let s1 := if m.opens == r then (s.openMove m).sendToBoth m else s
  let s1 := if m.src == s.group.index && !m.sent && m.opens + s.active.hops ≤ r then
      { s1.sendCopy m with group.moves := updWhere is ({ · with sent := true }) (s1.sendCopy m).group.moves } else s1
  let s2 := match m.bothAt, m.closes with
    | some b, none => if b ≤ r && m.src == s.group.index && !s1.moveHeld m && s1.compUp Component.fabric then s1.sendClose m b else s1
    | _, _ => s1
  let s3 := if m.closes == some r then s2.closeEpoch m else s2
  let s4 := if m.src == s.group.index then s3.dropCopy m.coll m.part else s3
  if m.closes.any fun c => c + m.drain ≤ r then
    ({ s4 with group.moves := s4.group.moves.filter fun x => !is x }).replyLater 0x23 m.msg (toLe 8 m.epoch)
  else s3

/-- A MOVE_TENSOR that names T2 and has not started completes with SHED while either module of the loan sheds (R389). -/
def State.shedMoves (s : State) : State :=
  s.endAll (fun c => match c.body with
    | .move m => !m.started && s.t2Shed [m.src, m.dst]
    | _ => false) (.of 9)

def State.moveRound (s : State) : State := s.group.moves.foldl State.moveStep s

/-! ### Shedding and ledgers (R81, R354 to R357, R636) -/

/-- Stage additions end at a round start; the plan for admissions is lean while this module or a module of the group is at stage
4 or beyond. -/
def State.planStep (s : State) : State :=
  { s with power.applied := min s.power.applied s.shed
           power.leanPlan := s.shed ≥ 4 || (s.groupMember && s.group.stages.any fun x => x.2 ≥ 4) }

/-- Whether work under the full plan is in flight (R356). -/
def State.fullWork (s : State) : Bool :=
  s.rings.cmds.any (fun c => c.admitted && !c.finished && c.query?.any fun q => !q.lean) || s.group.requests.any fun r => !r.work.lean

/-- Charges drained by a rate at each stack, the oldest first; the second number is what is left of the rate. -/
def drainShares (round : Nat) : List Nat → List (Nat × Nat × Nat) → List (Nat × Nat × Nat)
  | _, [] => []
  | rate, x :: r =>
    if x.2.1 ≥ 8 then (if x.2.1 - 8 ≥ round then x :: drainShares round rate r else drainShares round rate r)
    else
      let cut := min x.2.2 (rate.getD x.2.1 0)
      let rest := drainShares round (updAt x.2.1 (· - cut) rate) r
      if cut == x.2.2 then rest else (x.1, x.2.1, x.2.2 - cut) :: rest

/-- c_stack of the plans of queries and requests admitted under earlier images, the largest (R345). -/
def State.formerRate (s : State) : Nat :=
  let own := s.rings.cmds.filterMap fun c => (c.query?.filter fun _ => c.admitted && !c.finished).map fun q => (q.admitRound, q.lean)
  ((own ++ s.group.requests.map fun r => (r.work.admitRound, r.work.lean)).map fun x =>
    if x.1 < s.clock.baseRound then (s.planFor x.1 x.2).cStack else 0).foldl max 0

/-- The scan ledgers are drained by a round's rate, and past rounds of the others are gone; the bulk share begins anew (R151). -/
def State.drainLedgers (s : State) : State :=
  let rate := max s.formerRate (if s.power.leanPlan && !s.fullWork then s.active.lean.cStack else s.active.full.cStack)
  let l := s.comp.ledger
  { s with comp.ledger := { l with scan := l.scan.map (fun n => n - rate)
                                   bulk := List.replicate 8 0, shares := drainShares s.clock.round (List.replicate 8 rate) l.shares
                                   refine := l.refine.filter (fun x => x.1 ≥ s.clock.round)
                                   rerank := l.rerank.filter (fun x => x.1 ≥ s.clock.round) } }

/-! ### ROUND_START -/

/-- Everything of a round start before admission. -/
def State.roundBegin (s : State) : State :=
  let s1 := s.turn.switchStep.routeStep.cutLoans.timePorts.followLeader.cutQueries.openLoans.moveRound
  let s2 := s1.planStep.shedMoves.drainLedgers.repairRound.testRound.moveTeams.switchSplices.mapPages.releaseWait .round
  s2.consumeHops.dropStale.chargeRequests

/-- A queries' stage may have waited for what this round start changed. -/
def State.progressAll (s : State) : State :=
  (s.rings.cmds.filter fun c => c.admitted && !c.finished && c.query?.isSome).foldl (fun s c => s.progress c.cid) s

/-- Whether a query of a member waits for another module. -/
def Member.abroad (m : Member) (here : Nat) : Bool :=
  m.lists.any (fun l => !l.done && l.holder != here) || m.refLeft.any fun e => m.askedOf here e.id != here

/-- An admitted query whose bound ends with the round under way and that nothing excuses: the device completes it first (R27, R88, R102).
A query held for a component (R563), one that the lodge's restart overtook (R642) and one that waits for another module are none. -/
def State.overdue (s : State) : Bool :=
  s.rings.cmds.any fun c => c.admitted && !c.finished && c.held.isNone && s.fw.lodge == .up && c.query?.any fun q =>
    q.bound ≤ s.clock.round + 1 && !(s.fw.lodgeAt.any fun t => s.roundTick q.admitRound ≤ t)
      && !q.active.any fun m => m.abroad s.group.index

/-- ROUND_START. It is passed over while a query has still to complete before it (log 90). -/
def execRoundStart (s : State) : Host.Outcome State Fault Refusal :=
  event s (s.regs.ready && !s.overdue) (s.settled s.roundBegin.progressAll.admitRound.blurAllows)

end Sys2Proof.Machine
end

