-- ==== Sys2Proof/Machine/Service.lean ====
section
/-!
DEFINITION. Self-tests, FORMAT and SANITIZE (chapter 19), and reads of the flash that fail (chapters 3, 11).
-/

namespace Sys2Proof.Machine

/-! ### SELFTEST (R678 to R680) -/

/-- The reply body of SELFTEST. How far a run has come, what it has found so far and the time it took are free (log 2). -/
def State.selftestBody (s : State) : Bytes :=
  let (state, kind, permille, failures) := s.fw.selftest
  let run := state == 1
  toLe 1 state ++ toLe 1 kind ++ toLe 2 (if run then Config.freeNat s.free % 1001 else permille)
    ++ toLe 4 (if run then Config.freeNat (s.free + 1) else failures) ++ toLe 4 (Config.freeNat (s.free + 2)) ++ zeros 4

/-- The reply of a SELFTEST. -/
def State.selftestReply (s : State) (seq : Nat) : State := (s.draw 3).reply 0x71 seq s.selftestBody

/-- Whether shelter mode accepts a SELFTEST of a kind and action (R660). -/
def State.selftestShelter (s : State) (kind action : Nat) : Bool :=
  if kind == 0 then action != 0 || (s.errors.shelterCause != 0x40 && s.errors.shelterCause != 0x41) else action == 2

/-- The SELFTEST rows. A message whose action the table does not list comes under the row of action 0 (log 41). -/
def selftestEvent (s : State) (cells : Bytes) (action : Nat) (run : State → Nat → State) : Host.Outcome State Fault Refusal :=
  let m := msgBytes cells
  let a := byteAt m 0x21
  messageEvent s ⟨0x71, 0x30, Component.lodge, s.selftestShelter (byteAt m 0x20) a⟩ cells [(0x22, 14, 0xFF)]
    (a == action || (action == 0 && a > 2)) (fieldAt [(byteAt m 0x20 > 1, 0x20), (a > 2, 0x21)]) run

/-- Action 0: a run begins, unless one is under way. -/
def execSelftestStart (cells : Bytes) (_host : HostImage) (s : State) : Host.Outcome State Fault Refusal :=
  selftestEvent s cells 0 fun s seq =>
    if s.fw.selftest.1 == 1 then s.refuse 0x71 seq 6 noOffset 0
    else ({ s with fw.selftest := (1, byteAt (msgBytes cells) 0x20, 0, 0) }).selftestReply seq

/-- Action 1: the run under way ends aborted; where none is, nothing changes. -/
def execSelftestAbort (cells : Bytes) (_host : HostImage) (s : State) : Host.Outcome State Fault Refusal :=
  selftestEvent s cells 1 fun s seq =>
    let t := s.fw.selftest
    let s1 := if t.1 == 1 then
      { s.releaseTests with fw.selftest := (4, t.2.1, Config.freeNat s.free % 1001, Config.freeNat (s.free + 1) % 2 ^ 32), free := s.free + 2 } else s
    s1.selftestReply seq

/-- Action 2. -/
def execSelftestStatus (cells : Bytes) (_host : HostImage) (s : State) : Host.Outcome State Fault Refusal :=
  selftestEvent s cells 2 fun s seq => s.selftestReply seq

/-- The record of a page that a self-test found failing (R680). -/
def State.pageFailed (s : State) (p : Nat × Nat) : State :=
  (s.record { code := 0x0011, severity := 1, unitKind := 7, unit := p.1
              address := ((s.pageRuns p.1 p.2).head?.map (·.1)).getD (Config.freeNat s.free), page := some p.2 }).draw 1

/-- SELFTEST_END, once every interrupted step has been repeated (R679): failing cores are repaired, failing pages recorded, failing flash
blocks relocated, which changes no sector's content; only an extended run tests pages and blocks. -/
def execSelftestEnd (failCores failPages : List (Nat × Nat)) (failBlocks : List Nat) (otherFailures : Nat) (s : State) :
    Host.Outcome State Fault Refusal :=
  let kind := s.fw.selftest.2.1
  let n := failCores.length + failPages.length + failBlocks.length + otherFailures
  let s1 := failCores.foldl (fun s c => s.markFailing c.1 c.2) s
  let s2 := failPages.foldl State.pageFailed s1
  let s3 := { s2.releaseTests with fw.selftest := (if n == 0 then 2 else 3, kind, 1000, n % 2 ^ 32) }
  let good := failCores.all (fun c => c.1 < 64 && c.2 < 68) && failPages.all (fun p => p.1 < 512 && p.2 < 32768)
    && (kind == 1 || (failPages.isEmpty && failBlocks.isEmpty))
  event s (s.fw.selftest.1 == 1 && s.fw.lodge == .up && good && s.comp.testAgain.isEmpty)
    (s.settled (s3.record { code := 0x0051, severity := if n == 0 then 0 else 2 }))

/-! ### FORMAT (R390 to R392, R681, R682) -/

/-- Sectors mapped: those of the index area in use and the host area's written ones (log 42). -/
def State.mappedSectors (s : State) : Nat :=
  sumBy Collection.indexSectors s.colls + journalSectors + (distinct (s.store.host.map fun c => c.1 / 4096)).length

/-- The FORMAT rows: both need a store that is not being formatted, converted or sanitised (R684, log 42). -/
def formatEvent (s : State) (cells : Bytes) (convert : Bool) (bad : List (Bool × Nat)) (run : State → Nat → State) :
    Host.Outcome State Fault Refusal :=
  let m := msgBytes cells
  let format := byteAt m 0x20
  messageEvent s ⟨0x80, 0x40, Component.store0, false⟩ cells [(0x21, 1, 0xFC), (0x22, 2, 0xFF), (0x2C, 20, 0xFF)]
    ((byteAt m 0x21).testBit 0 == convert) (fieldAt ((format != 1 && format != 2, 0x20) :: bad)) fun s seq =>
      if s.store.sanitise.isSome || s.store.converting.isSome || s.store.formatting.isSome then s.refuse 0x80 seq 6 noOffset 0 else run s seq

/-- FORMAT with flags[0]: the conversion begins; both areas and their contents stay. An index_sectors other than 0 (R681) is refused with
REFUSED_FIELD, not as a reserved field of R726: DESIGN CHOICE (log 111). -/
def execFormatConvert (cells : Bytes) (_host : HostImage) (s : State) : Host.Outcome State Fault Refusal :=
  let m := msgBytes cells
  let format := byteAt m 0x20
  formatEvent s cells true [(field m 0x24 8 != 0, 0x24)] fun s seq =>
    if s.store.format == 0 || s.store.format == format || (format == 1 && s.mappedSectors > capacitySectors 1) then s.refuse 0x80 seq 6 0x20 0
    else { s with store.converting := some format, store.convMsg := some seq }

/-- FORMAT_CONVERSION_END: the new format and its atomic limit apply. -/
def execFormatConversionEnd (s : State) : Host.Outcome State Fault Refusal :=
  match s.store.converting with
  | none => .next s
  | some f => event s (s.regs.ready && s.storesUp)
      ({ s with store.format := f, store.converting := none, store.convMsg := none }.replyLater 0x80 s.store.convMsg [])

/-- FORMAT without flags[0]: refused over collections unless it erases; then their drops come first (R64, R65). -/
def execFormat (cells : Bytes) (_host : HostImage) (s : State) : Host.Outcome State Fault Refusal :=
  let m := msgBytes cells
  let format := byteAt m 0x20
  let index := field m 0x24 8
  let erase := (byteAt m 0x21).testBit 1
  formatEvent s cells false [(index < journalSectors || index > capacitySectors format, 0x24)] fun s seq =>
    if !s.colls.isEmpty && !erase then s.refuse 0x80 seq 6 noOffset 0
    else
      let s1 := { s with store.convMsg := some seq }
      if s.colls.isEmpty then s1.writeFormat erase format index
      else
        (s.colls.filter fun c => decide (c.load ≠ .dropping)).foldl (fun s c => s.beginDrop c.cid none)
          ({ s1 with store.formatting := some (format, index) })

/-! ### SANITIZE (R622, R683, R684) -/

/-- What waits on a collection that is gone at once: its drop and the destruction of its keys are done, and its upkeep is
refused. -/
def State.answerGone (s : State) (c : Collection) : State :=
  let s1 := c.destroying.foldl (fun s d => s.replyLater 0x31 (some d.1) []) s
  (c.upkeep.foldl (fun s u => s.refuseLater 0x23 u.msg 6 noOffset 0) s1).replyLater 0x21 c.dropMsg []

/-- Whether a command ends with the collections when a sanitise begins: its status. Store commands and mutations end with
NO_RESOURCES (R684); queries find no collection (log 43). -/
def Cmd.sanitised (c : Cmd) : Option Nat :=
  match c.body with
  | .query _ => some 12
  | .mutation _ | .store _ => some 5
  | _ => none

/-- Phase 1, the crypto-erase: the key generation rises, every key is gone, no collection exists and nothing of the store can be
read. A FORMAT under way does not complete (log 43). -/
def State.cryptoErase (s : State) (mode pattern : Nat) (msg : Nat) : State :=
  let ended := (s.rings.cmds.filter fun c => !c.finished).foldl (fun s c =>
    match c.sanitised with
    | some status => (s.dropWork c).complete c.cid (.of status)
    | none => s) s
  let gone := { ended with
    colls := [], group.moves := []
    keys := { ended.keys with generation := (ended.keys.generation + 1) % 2 ^ 32, imports := [], media := none }
    store := { ended.store with converting := none, convMsg := none, formatting := none, host := [], failing := [], relocate := [], placed := [], journal := []
                                sanitise := some (mode, if mode == 0 then 4 else 2, pattern), sanMsg := some msg } }
  (s.colls.foldl State.answerGone gone).refuseLater 0x80 s.store.convMsg 6 noOffset 0

/-- SANITIZE: refused where the sealing key cannot be derived (R597); phase 1 is done at once, and the phases after it run until SANITIZE_END. -/
def execSanitize (cells : Bytes) (_host : HostImage) (s : State) : Host.Outcome State Fault Refusal :=
  let m := msgBytes cells
  let mode := byteAt m 0x20
  let shelterOk := s.errors.shelterCause != 0x40 && s.errors.shelterCause != 0x41
  messageEvent s ⟨0x81, 0x40, Component.store0, shelterOk⟩ cells
    ([(0x21, 3, 0xFF), (0x28, 24, 0xFF)] ++ (if mode ≥ 2 then [] else [(0x24, 4, 0xFF)])) true (fieldAt [(mode > 2, 0x20)]) fun s seq =>
      if s.store.sanitise.isSome || s.keys.seed.isNone then s.refuse 0x81 seq 6 noOffset 0
      else s.cryptoErase mode (if mode == 2 then field m 0x24 4 else 0) seq

/-- The reply body of SANITIZE, which reports the retired blocks in a form that the spec does not give: free bytes (log 2). -/
def State.sanitizeBody (s : State) : Bytes := (List.range 16).map (Config.freeByte s.free)

/-- SANITIZE_END: HBM is zero, the media keys are new, and the store is empty in its format. A sanitise that resumed after a
power cycle sends its reply unsolicited (R583). -/
def execSanitizeEnd (badBlocks : Nat) (s : State) : Host.Outcome State Fault Refusal :=
  match s.store.sanitise with
  | none => .next s
  | some (mode, _, _) =>
    let s1 := { s with
      mem.hbm := [], mem.poison := []
      keys.media := some (s.free, s.free + 1)
      store := { s.store with sanitise := none, sanMsg := none, badBlocks := s.store.badBlocks + badBlocks }
      free := s.free + 3 }
    let body := ({ s with free := s.free + 2 }).sanitizeBody
    event s ((s.regs.ready || s.regs.shelter) && s.storesUp && (mode == 2 || badBlocks == 0))
      (match s.store.sanMsg with
        | some q => s1.replyLater 0x81 (some q) body
        | none => s1.send ⟨0x81, 0, 0, 3, body⟩)

/-! ### Reads of the flash that fail (R96, R399, R401) -/

/-- A sector marked for relocation, with the flash channel of its read. -/
def State.relocateAt (s : State) (area sector : Nat) : State :=
  { s with store.relocate := s.store.relocate ++ [(Config.freeNat s.free % 32, area, sector)] }

/-- STORE_READs under way over a sector. -/
def State.readersOf (s : State) (sector : Nat) : List Cmd := s.rings.cmds.filter fun c => !c.finished && c.admitted && c.held.isNone &&
  match c.body with
  | .store w => decide (w.kind = .read) && w.first ≤ sector && sector < w.first + w.count
  | _ => false

/-- Whether a transfer under way reads the host area: it records the failure at its own end. -/
def State.movesRead (s : State) : Bool :=
  (s.rings.cmds.any fun c => !c.finished && match c.body with
    | .move m => m.started && m.src.tier == 3
    | _ => false)
  || s.comp.runs.any fun r => r.moves.any fun t => !t.scan && t.src.tier == 3

/-- A failed read that no command's own entry reports, with its record. -/
def State.noteFailure (s : State) (sector : Nat) : State :=
  (s.record { code := 0x0020, severity := 1, unitKind := 9, unit := Config.freeNat s.free % 32, address := sector }).draw 1

/-- A sector of the host area that fails: it keeps failing until it is written or trimmed, and every STORE_READ of it ends. -/
def State.hostReadFailed (s : State) (sector : Nat) : State :=
  let s1 := { s with store.failing := if s.store.failing.contains sector then s.store.failing else s.store.failing ++ [sector] }
  let s2 := s1.relocateAt 0 sector
  let l := s.readersOf sector
  if l.isEmpty then (if s.movesRead then s2.draw 1 else s2.noteFailure sector)
  else l.foldl (fun s c => (s.flashFailure c sector).complete c.cid (.of 8)) s2

/-- FLASH_READ_FAILED: of the host area; of a refinement, whose query ends with MEDIUM_ERROR; or of the index area for the device
itself. -/
def execFlashReadFailed (sector : Nat) (reader : FlashReader) (s : State) : Host.Outcome State Fault Refusal :=
  match reader with
  | .host => event s (sector < s.store.hostSectors && s.storesUp) (s.settled (s.hostReadFailed sector))
  | .index =>
    event s (sector < s.store.indexSectors && s.storesUp)
      (s.settled ((s.relocateAt 1 sector).noteFailure sector))
  | .refine cid member id =>
    match (s.work? cid).bind fun w => (s.coll? w.1).bind fun c => (w.2.member? member).map fun m => (w.1, w.2, c, m) with
    | none => .next s
    | some (coll, q, c, m) =>
      let at1 := ((c.liveSlot q.snapshot id).map fun y => y.2.2.ref / 4096).any fun k => k ≤ sector && sector < k + c.fullReads
      let h := (s.cmd? cid).map fun x => (x.hdr.tag, x.ring)
      let s1 := ((s.relocateAt 1 sector).record { code := 0x0020, severity := 1, unitKind := 9, unit := Config.freeNat s.free % 32, address := sector
                                                  tag := (h.map (·.1)).getD 0, ring := (h.map (·.2)).getD 0, collection := coll }).draw 1
      event s (q.phase == .refine && m.status.isNone && (m.refLeft.any fun e => e.id == id) && m.askedOf s.group.index id == s.group.index && at1)
        (s.settled ((s1.endMember cid member 8).progress cid))

end Sys2Proof.Machine
end

