-- ==== Sys2Proof/Machine/Dispatch.lean ====
section
/-!
DEFINITION. exec: one arm per command, each a direct call of its meaning.
-/

namespace Sys2Proof.Machine

def exec (i : Instr) (s : State) : Host.Outcome State Fault Refusal :=
  match i with
  | .nop ring desc host => Sys2Proof.Machine.execNop ring desc host s
  | .query ring desc host => Sys2Proof.Machine.execQuery ring desc host s
  | .queryBatch ring desc host => Sys2Proof.Machine.execQueryBatch ring desc host s
  | .insert ring desc host => Sys2Proof.Machine.execInsert ring desc host s
  | .delete ring desc host => Sys2Proof.Machine.execDelete ring desc host s
  | .setAttr ring desc host => Sys2Proof.Machine.execSetAttr ring desc host s
  | .embedInsert ring desc host => Sys2Proof.Machine.execEmbedInsert ring desc host s
  | .storeRead ring desc host => Sys2Proof.Machine.execStoreRead ring desc host s
  | .storeWrite ring desc host => Sys2Proof.Machine.execStoreWrite ring desc host s
  | .storeTrim ring desc host => Sys2Proof.Machine.execStoreTrim ring desc host s
  | .runProgram ring desc host => Sys2Proof.Machine.execRunProgram ring desc host s
  | .moveTensor ring desc host => Sys2Proof.Machine.execMoveTensor ring desc host s
  | .abort ring desc host => Sys2Proof.Machine.execAbort ring desc host s
  | .fence ring desc host => Sys2Proof.Machine.execFence ring desc host s
  | .fenceComplete cid => Sys2Proof.Machine.execFenceComplete cid s
  | .pad cells host => Sys2Proof.Machine.execPad cells host s
  | .unframedCell cells host => Sys2Proof.Machine.execUnframedCell cells host s
  | .hello cells host => Sys2Proof.Machine.execHello cells host s
  | .caps cells host => Sys2Proof.Machine.execCaps cells host s
  | .tether cells host => Sys2Proof.Machine.execTether cells host s
  | .tetherExpiry => Sys2Proof.Machine.execTetherExpiry s
  | .ringCreate cells host => Sys2Proof.Machine.execRingCreate cells host s
  | .ringDelete cells host => Sys2Proof.Machine.execRingDelete cells host s
  | .ringDeleteComplete ring => Sys2Proof.Machine.execRingDeleteComplete ring s
  | .arbSet cells host => Sys2Proof.Machine.execArbSet cells host s
  | .collectionCreate cells host => Sys2Proof.Machine.execCollectionCreate cells host s
  | .collectionDrop cells host => Sys2Proof.Machine.execCollectionDrop cells host s
  | .collectionDropComplete coll => Sys2Proof.Machine.execCollectionDropComplete coll s
  | .collectionState cells host => Sys2Proof.Machine.execCollectionState cells host s
  | .upkeepCentroidRetraining cells host => Sys2Proof.Machine.execUpkeepCentroidRetraining cells host s
  | .upkeepQuantiserTraining cells host => Sys2Proof.Machine.execUpkeepQuantiserTraining cells host s
  | .upkeepRebuild cells host => Sys2Proof.Machine.execUpkeepRebuild cells host s
  | .upkeepPartitionMove cells host => Sys2Proof.Machine.execUpkeepPartitionMove cells host s
  | .upkeepRebalance cells host => Sys2Proof.Machine.execUpkeepRebalance cells host s
  | .keyImport cells host => Sys2Proof.Machine.execKeyImport cells host s
  | .keyDestroy cells host => Sys2Proof.Machine.execKeyDestroy cells host s
  | .keyDestroyComplete coll => Sys2Proof.Machine.execKeyDestroyComplete coll s
  | .attestQuote cells host => Sys2Proof.Machine.execAttestQuote cells host s
  | .attestCertificateChain cells host => Sys2Proof.Machine.execAttestCertificateChain cells host s
  | .fwStage cells host => Sys2Proof.Machine.execFwStage cells host s
  | .fwActivateNow cells host => Sys2Proof.Machine.execFwActivateNow cells host s
  | .fwActivateAtReset cells host => Sys2Proof.Machine.execFwActivateAtReset cells host s
  | .componentImageSwitch comp => Sys2Proof.Machine.execComponentImageSwitch comp s
  | .programLoad cells host => Sys2Proof.Machine.execProgramLoad cells host s
  | .programUnload cells host => Sys2Proof.Machine.execProgramUnload cells host s
  | .timetableLoadStage cells host => Sys2Proof.Machine.execTimetableLoadStage cells host s
  | .timetableLoadPropose cells host => Sys2Proof.Machine.execTimetableLoadPropose cells host s
  | .groupJoin cells host => Sys2Proof.Machine.execGroupJoin cells host s
  | .lendMemoryOffer cells host => Sys2Proof.Machine.execLendMemoryOffer cells host s
  | .lendMemoryBorrow cells host => Sys2Proof.Machine.execLendMemoryBorrow cells host s
  | .lendMemoryEnd cells host => Sys2Proof.Machine.execLendMemoryEnd cells host s
  | .powerCap cells host => Sys2Proof.Machine.execPowerCap cells host s
  | .selftestStart cells host => Sys2Proof.Machine.execSelftestStart cells host s
  | .selftestAbort cells host => Sys2Proof.Machine.execSelftestAbort cells host s
  | .selftestStatus cells host => Sys2Proof.Machine.execSelftestStatus cells host s
  | .selftestEnd failCores failPages failBlocks otherFailures => Sys2Proof.Machine.execSelftestEnd failCores failPages failBlocks otherFailures s
  | .formatConvert cells host => Sys2Proof.Machine.execFormatConvert cells host s
  | .formatConversionEnd => Sys2Proof.Machine.execFormatConversionEnd s
  | .format cells host => Sys2Proof.Machine.execFormat cells host s
  | .sanitize cells host => Sys2Proof.Machine.execSanitize cells host s
  | .sanitizeEnd badBlocks => Sys2Proof.Machine.execSanitizeEnd badBlocks s
  | .retirePage cells host => Sys2Proof.Machine.execRetirePage cells host s
  | .hbmRepairStatus cells host => Sys2Proof.Machine.execHbmRepairStatus cells host s
  | .hbmRepairLaneRemap cells host => Sys2Proof.Machine.execHbmRepairLaneRemap cells host s
  | .hbmRepairRowReplacement cells host => Sys2Proof.Machine.execHbmRepairRowReplacement cells host s
  | .hbmRepairPostPackageRepair cells host => Sys2Proof.Machine.execHbmRepairPostPackageRepair cells host s
  | .hbmRepairRelease cells host => Sys2Proof.Machine.execHbmRepairRelease cells host s
  | .configRecordRead cells host => Sys2Proof.Machine.execConfigRecordRead cells host s
  | .configRecordWrite cells host => Sys2Proof.Machine.execConfigRecordWrite cells host s
  | .serviceSessionOpen cells host => Sys2Proof.Machine.execServiceSessionOpen cells host s
  | .serviceSessionClose cells host => Sys2Proof.Machine.execServiceSessionClose cells host s
  | .serviceSessionExpiry => Sys2Proof.Machine.execServiceSessionExpiry s
  | .logRead cells host => Sys2Proof.Machine.execLogRead cells host s
  | .nopInstruction run core => Sys2Proof.Machine.execNopInstruction run core s
  | .sets run core => Sys2Proof.Machine.execSets run core s
  | .adds run core => Sys2Proof.Machine.execAdds run core s
  | .muls run core => Sys2Proof.Machine.execMuls run core s
  | .setb run core => Sys2Proof.Machine.execSetb run core s
  | .loop run core => Sys2Proof.Machine.execLoop run core s
  | .bar run core => Sys2Proof.Machine.execBar run core s
  | .waitr run core => Sys2Proof.Machine.execWaitr run core s
  | .endCore run core => Sys2Proof.Machine.execEndCore run core s
  | .waitm run core => Sys2Proof.Machine.execWaitm run core s
  | .moveInstruction run core => Sys2Proof.Machine.execMoveInstruction run core s
  | .scan run core => Sys2Proof.Machine.execScan run core s
  | .tclr run core => Sys2Proof.Machine.execTclr run core s
  | .tadd run core => Sys2Proof.Machine.execTadd run core s
  | .tsave run core => Sys2Proof.Machine.execTsave run core s
  | .tload run core => Sys2Proof.Machine.execTload run core s
  | .mma run core => Sys2Proof.Machine.execMma run core s
  | .vop run core => Sys2Proof.Machine.execVop run core s
  | .outInstruction run core => Sys2Proof.Machine.execOutInstruction run core s
  | .accm run core => Sys2Proof.Machine.execAccm run core s
  | .selInit run core => Sys2Proof.Machine.execSelInit run core s
  | .selFeed run core => Sys2Proof.Machine.execSelFeed run core s
  | .selRead run core => Sys2Proof.Machine.execSelRead run core s
  | .cycleLimit run team => Sys2Proof.Machine.execCycleLimit run team s
  | .teamStart run placed => Sys2Proof.Machine.execTeamStart run placed s
  | .programEnd run => Sys2Proof.Machine.execProgramEnd run s
  | .transferComplete run transfer host => Sys2Proof.Machine.execTransferComplete run transfer host s
  | .moveTensorDone cid host => Sys2Proof.Machine.execMoveTensorDone cid host s
  | .detach => Sys2Proof.Machine.execDetach s
  | .adminEnable value => Sys2Proof.Machine.execAdminEnable value s
  | .nudge value => Sys2Proof.Machine.execNudge value s
  | .registerWrite offset width value => Sys2Proof.Machine.execRegisterWrite offset width value s
  | .stagedFieldBoundary field => Sys2Proof.Machine.execStagedFieldBoundary field s
  | .smbCapWrite value pecGood => Sys2Proof.Machine.execSmbCapWrite value pecGood s
  | .smbusWriteWord code value pecGood => Sys2Proof.Machine.execSmbusWriteWord code value pecGood s
  | .flr => Sys2Proof.Machine.execFlr s
  | .hotReset => Sys2Proof.Machine.execHotReset s
  | .d3hotEntry => Sys2Proof.Machine.execD3hotEntry s
  | .d0Return => Sys2Proof.Machine.execD0Return s
  | .busMasterEnableClear => Sys2Proof.Machine.execBusMasterEnableClear s
  | .msixPendingSend vector => Sys2Proof.Machine.execMsixPendingSend vector s
  | .hostReadFailed read address => Sys2Proof.Machine.execHostReadFailed read address s
  | .ptmCapture hostTime => Sys2Proof.Machine.execPtmCapture hostTime s
  | .doorbellWatch host => Sys2Proof.Machine.execDoorbellWatch host s
  | .watcherSleep host => Sys2Proof.Machine.execWatcherSleep host s
  | .completionCoalesceTimeout cq => Sys2Proof.Machine.execCompletionCoalesceTimeout cq s
  | .roundStart => Sys2Proof.Machine.execRoundStart s
  | .waitLimitExpiry cid => Sys2Proof.Machine.execWaitLimitExpiry cid s
  | .spliceOldRunRelease stack entry => Sys2Proof.Machine.execSpliceOldRunRelease stack entry s
  | .switchAbortDeadline => Sys2Proof.Machine.execSwitchAbortDeadline s
  | .controlSlot => Sys2Proof.Machine.execControlSlot s
  | .fanOutSlot => Sys2Proof.Machine.execFanOutSlot s
  | .returnSlot => Sys2Proof.Machine.execReturnSlot s
  | .bulkSlot => Sys2Proof.Machine.execBulkSlot s
  | .replaySlot => Sys2Proof.Machine.execReplaySlot s
  | .maintenanceSlot held => Sys2Proof.Machine.execMaintenanceSlot held s
  | .pseudoChannelRefresh channel resume => Sys2Proof.Machine.execPseudoChannelRefresh channel resume s
  | .walkEnd cid member => Sys2Proof.Machine.execWalkEnd cid member s
  | .lanePassStart lane => Sys2Proof.Machine.execLanePassStart lane s
  | .lanePassEnd lane => Sys2Proof.Machine.execLanePassEnd lane s
  | .laneEccError lane address => Sys2Proof.Machine.execLaneEccError lane address s
  | .refineReadDone cid member id => Sys2Proof.Machine.execRefineReadDone cid member id s
  | .refineReadTimeout cid => Sys2Proof.Machine.execRefineReadTimeout cid s
  | .rerankInvocation cid member => Sys2Proof.Machine.execRerankInvocation cid member s
  | .queryFinal cid => Sys2Proof.Machine.execQueryFinal cid s
  | .queryBoundExpiry cid => Sys2Proof.Machine.execQueryBoundExpiry cid s
  | .mutationAdmission cid => Sys2Proof.Machine.execMutationAdmission cid s
  | .embedBatch cid first count => Sys2Proof.Machine.execEmbedBatch cid first count s
  | .lastPartIssue cid => Sys2Proof.Machine.execLastPartIssue cid s
  | .journalPartOnMedium mutation part => Sys2Proof.Machine.execJournalPartOnMedium mutation part s
  | .holderWriteDone cid holder => Sys2Proof.Machine.execHolderWriteDone cid holder s
  | .groupCommitCompletion cid => Sys2Proof.Machine.execGroupCommitCompletion cid s
  | .storeCompletion cid => Sys2Proof.Machine.execStoreCompletion cid s
  | .flashReadFailed sector reader => Sys2Proof.Machine.execFlashReadFailed sector reader s
  | .compaction coll part => Sys2Proof.Machine.execCompaction coll part s
  | .rebalanceStart coll part => Sys2Proof.Machine.execRebalanceStart coll part s
  | .clusteringIteration coll job => Sys2Proof.Machine.execClusteringIteration coll job s
  | .generationPublish coll job => Sys2Proof.Machine.execGenerationPublish coll job s
  | .routeGraphCopyBackDone coll => Sys2Proof.Machine.execRouteGraphCopyBackDone coll s
  | .collectionLoadEnd coll => Sys2Proof.Machine.execCollectionLoadEnd coll s
  | .hbmCorrected channel page address => Sys2Proof.Machine.execHbmCorrected channel page address s
  | .hbmUncorrectable channel page address => Sys2Proof.Machine.execHbmUncorrectable channel page address s
  | .lendWindowClose window => Sys2Proof.Machine.execLendWindowClose window s
  | .coreMemoryUncorrectable cluster core address query => Sys2Proof.Machine.execCoreMemoryUncorrectable cluster core address query s
  | .coreDatapathParity cluster core => Sys2Proof.Machine.execCoreDatapathParity cluster core s
  | .spareTestEnd cluster spare passed => Sys2Proof.Machine.execSpareTestEnd cluster spare passed s
  | .compartmentFault comp => Sys2Proof.Machine.execCompartmentFault comp s
  | .componentHeartbeatTimeout comp => Sys2Proof.Machine.execComponentHeartbeatTimeout comp s
  | .kioskHalt kiosk => Sys2Proof.Machine.execKioskHalt kiosk s
  | .componentRestartEnd comp => Sys2Proof.Machine.execComponentRestartEnd comp s
  | .kioskRestartEnd kiosk => Sys2Proof.Machine.execKioskRestartEnd kiosk s
  | .lodgeWatchdogExpiry => Sys2Proof.Machine.execLodgeWatchdogExpiry s
  | .lodgeReturn => Sys2Proof.Machine.execLodgeReturn s
  | .gatehouseWatchdogExpiry => Sys2Proof.Machine.execGatehouseWatchdogExpiry s
  | .gatehouseReturn => Sys2Proof.Machine.execGatehouseReturn s
  | .gatehouseReturnTimeout => Sys2Proof.Machine.execGatehouseReturnTimeout s
  | .recoveryPeriodEnd kind unit => Sys2Proof.Machine.execRecoveryPeriodEnd kind unit s
  | .componentMoveTimeout comp => Sys2Proof.Machine.execComponentMoveTimeout comp s
  | .ledgerLoop r => Sys2Proof.Machine.execLedgerLoop r s
  | .powerClamp mean => Sys2Proof.Machine.execPowerClamp mean s
  | .voltageStageRise millivolts => Sys2Proof.Machine.execVoltageStageRise millivolts s
  | .voltageStageFall millivolts => Sys2Proof.Machine.execVoltageStageFall millivolts s
  | .pwrbrkAssert => Sys2Proof.Machine.execPwrbrkAssert s
  | .pwrbrkDeassert => Sys2Proof.Machine.execPwrbrkDeassert s
  | .supplyOutOfSpec millivolts => Sys2Proof.Machine.execSupplyOutOfSpec millivolts s
  | .powerLoss => Sys2Proof.Machine.execPowerLoss s
  | .thermalThreshold sensor temp => Sys2Proof.Machine.execThermalThreshold sensor temp s
  | .thermalStageEnd sensor => Sys2Proof.Machine.execThermalStageEnd sensor s
  | .thermalLimit sensor temp => Sys2Proof.Machine.execThermalLimit sensor temp s
  | .thermalCutOff die => Sys2Proof.Machine.execThermalCutOff die s
  | .cmisHighAlarm cage => Sys2Proof.Machine.execCmisHighAlarm cage s
  | .perstAssert => Sys2Proof.Machine.execPerstAssert s
  | .perstDeassert => Sys2Proof.Machine.execPerstDeassert s
  | .startupStepEnd report => Sys2Proof.Machine.execStartupStepEnd report s
  | .startupStepTimeout => Sys2Proof.Machine.execStartupStepTimeout s
  | .startupHold => Sys2Proof.Machine.execStartupHold s
  | .linkUp rate width cfg => Sys2Proof.Machine.execLinkUp rate width cfg s
  | .dieDeepSleep die => Sys2Proof.Machine.execDieDeepSleep die s
  | .dieWake die => Sys2Proof.Machine.execDieWake die s
  | .clusterWake cluster => Sys2Proof.Machine.execClusterWake cluster s
  | .prewake cluster => Sys2Proof.Machine.execPrewake cluster s
  | .cageModuleInserted cage info => Sys2Proof.Machine.execCageModuleInserted cage info s
  | .cageModuleRemoved cage => Sys2Proof.Machine.execCageModuleRemoved cage s
  | .trainingTimeout port => Sys2Proof.Machine.execTrainingTimeout port s
  | .trainingRetry port => Sys2Proof.Machine.execTrainingRetry port s
  | .blockLock port => Sys2Proof.Machine.execBlockLock port s
  | .blockLockLoss port => Sys2Proof.Machine.execBlockLockLoss port s
  | .lostBlock port blockSeq block flits => Sys2Proof.Machine.execLostBlock port blockSeq block flits s
  | .linkHello port group farModule farPort => Sys2Proof.Machine.execLinkHello port group farModule farPort s
  | .timeSync port txTime rxTime arrival => Sys2Proof.Machine.execTimeSync port txTime rxTime arrival s
  | .heartbeat port msg => Sys2Proof.Machine.execHeartbeat port msg s
  | .moduleLost module => Sys2Proof.Machine.execModuleLost module s
  | .switchPropose port msg => Sys2Proof.Machine.execSwitchPropose port msg s
  | .switchAccept port msg => Sys2Proof.Machine.execSwitchAccept port msg s
  | .switchRefuse port msg => Sys2Proof.Machine.execSwitchRefuse port msg s
  | .switchAbort port msg => Sys2Proof.Machine.execSwitchAbort port msg s
  | .shedStage port msg => Sys2Proof.Machine.execShedStage port msg s
  | .barrier port msg => Sys2Proof.Machine.execBarrier port msg s
  | .commit port msg => Sys2Proof.Machine.execCommit port msg s
  | .epochOpen port msg => Sys2Proof.Machine.execEpochOpen port msg s
  | .epochReady port msg => Sys2Proof.Machine.execEpochReady port msg s
  | .epochClose port msg => Sys2Proof.Machine.execEpochClose port msg s
  | .placementCopyDone coll part => Sys2Proof.Machine.execPlacementCopyDone coll part s
  | .lend port msg => Sys2Proof.Machine.execLend port msg s
  | .portDown port msg => Sys2Proof.Machine.execPortDown port msg s
  | .portUp port msg => Sys2Proof.Machine.execPortUp port msg s
  | .leave port msg => Sys2Proof.Machine.execLeave port msg s
  | .leader port msg => Sys2Proof.Machine.execLeader port msg s
  | .timeParentTimeout => Sys2Proof.Machine.execTimeParentTimeout s
  | .leaderSearchTimeout => Sys2Proof.Machine.execLeaderSearchTimeout s
  | .groupFormationTimeout => Sys2Proof.Machine.execGroupFormationTimeout s
  | .fanOutTransferReceived port flow => Sys2Proof.Machine.execFanOutTransferReceived port flow s
  | .returnTransferReceived port flow => Sys2Proof.Machine.execReturnTransferReceived port flow s
  | .bulkTransferReceived port flow => Sys2Proof.Machine.execBulkTransferReceived port flow s
  | .powerGood => Sys2Proof.Machine.execPowerGood s
  | .holdInputRecovered => Sys2Proof.Machine.execHoldInputRecovered s
  | .flrCompletion => Sys2Proof.Machine.execFlrCompletion s
  | .pmeStatusClear => Sys2Proof.Machine.execPmeStatusClear s
  | .clusterSleep cluster => Sys2Proof.Machine.execClusterSleep cluster s
  | .portsMeasuredReport port msg => Sys2Proof.Machine.execPortsMeasuredReport port msg s
  | .invalidOpcodeDescriptor ring desc host => Sys2Proof.Machine.execInvalidOpcodeDescriptor ring desc host s
  | .unknownMessageType cells host => Sys2Proof.Machine.execUnknownMessageType cells host s
  | .hostPortInternalError => Sys2Proof.Machine.execHostPortInternalError s

end Sys2Proof.Machine
end

