-- ==== Sys2Proof/Safety.lean ====
section
/-!
DEFINITION. The terms that claims use: what a safe run keeps, when a command of each kind is the one that the device acts on, and
what a reply and a completion may touch.
-/

namespace Sys2Proof.Machine

/-- The memories of the block in canonical form: addresses rising, no byte listed that reads as an unlisted one. -/
def State.memoriesWf (s : State) : Bool :=
  Mem.wf s.host && Mem.wf s.mem.hbm && Mem.wf s.mem.t2 && Mem.wf s.store.host

/-- The driver's message is the next that the device takes, it passes checks 1 to 4 of R581, shelter mode does not refuse it, and
its owner runs. -/
def State.takes (s : State) (f : MsgForm) (cells : Bytes) (reserved : List (Nat × Nat × Nat)) : Bool :=
  s.supported && !s.regs.untethered && s.mayTake && framed cells s.mail.toHead s.mailCells && decide (msgLen cells ≤ cells.length)
    && s.moving != some f.owner && field cells 6 2 == f.type && (msgFault f.bodyEnd reserved (msgBytes cells)).isNone
    && (!s.regs.shelter || f.shelterOk) && s.serving f.owner

/-! The messages of the driver: type, end of the body, owner, and whether shelter mode takes them. -/

def MsgForm.caps : MsgForm := ⟨2, 0x20, Component.mailboxService, true⟩
def MsgForm.tether : MsgForm := ⟨3, 0x30, Component.mailboxService, true⟩
def MsgForm.ringCreate : MsgForm := ⟨0x10, 0x40, Component.ringService, true⟩
def MsgForm.ringDelete : MsgForm := ⟨0x11, 0x30, Component.ringService, true⟩
def MsgForm.arbSet : MsgForm := ⟨0x12, 0x30, Component.ringService, false⟩
def MsgForm.collectionCreate : MsgForm := ⟨0x20, 0x140, Component.store0, false⟩
def MsgForm.collectionDrop : MsgForm := ⟨0x21, 0x30, Component.store0, false⟩
def MsgForm.collectionState : MsgForm := ⟨0x22, 0x30, Component.store0, false⟩
def MsgForm.upkeep : MsgForm := ⟨0x23, 0x40, Component.store0, false⟩
def MsgForm.keyImport : MsgForm := ⟨0x30, 0xD0, Component.gatehouse, false⟩
def MsgForm.keyDestroy : MsgForm := ⟨0x31, 0x30, Component.gatehouse, true⟩
def MsgForm.attest : MsgForm := ⟨0x32, 0x60, Component.gatehouse, false⟩
def MsgForm.fwStage : MsgForm := ⟨0x40, 0x40, Component.gatehouse, false⟩
def MsgForm.fwActivate : MsgForm := ⟨0x41, 0x30, Component.lodge, false⟩
def MsgForm.programLoad : MsgForm := ⟨0x50, 0x40, Component.loader, false⟩
def MsgForm.programUnload : MsgForm := ⟨0x51, 0x30, Component.loader, false⟩
def MsgForm.timetableLoad : MsgForm := ⟨0x60, 0x30, Component.fabric, false⟩
def MsgForm.groupJoin : MsgForm := ⟨0x61, 0x50, Component.fabric, false⟩
def MsgForm.lendMemory : MsgForm := ⟨0x62, 0x30, Component.fabric, false⟩
def MsgForm.powerCap : MsgForm := ⟨0x70, 0x30, Component.lodge, false⟩
def MsgForm.format : MsgForm := ⟨0x80, 0x40, Component.store0, false⟩
def MsgForm.retirePage : MsgForm := ⟨0x82, 0x30, Component.memory, false⟩
def MsgForm.hbmRepair : MsgForm := ⟨0x83, 0x40, Component.memory, false⟩
def MsgForm.configRecord : MsgForm := ⟨0x84, 0x40, Component.gatehouse, false⟩
def MsgForm.serviceSession : MsgForm := ⟨0x85, 0x80, Component.gatehouse, false⟩
def MsgForm.logRead : MsgForm := ⟨0x91, 0x40, Component.log, true⟩
def MsgForm.selftest (s : State) (kind action : Nat) : MsgForm := ⟨0x71, 0x30, Component.lodge, s.selftestShelter kind action⟩
def MsgForm.sanitize (s : State) : MsgForm := ⟨0x81, 0x40, Component.store0, s.errors.shelterCause != 0x40 && s.errors.shelterCause != 0x41⟩

/-- The seq of a message. -/
def seqOf (cells : Bytes) : Nat := field (msgBytes cells) 8 4

/-- The descriptor is the one that the device fetches next from a ring, and its opcode is the row's. -/
def State.grants (s : State) (ring op : Nat) (desc : Bytes) : Bool :=
  s.supported && s.mayFetch ring op && byteAt desc 0 == op

/-- The descriptor rows of the opcode table, each with its opcode. -/
def descriptorRows (ring : Nat) (desc : Bytes) (host : HostImage) : List (Nat × Instr) :=
  [(0x00, .nop ring desc host), (0x10, .query ring desc host), (0x11, .queryBatch ring desc host), (0x20, .insert ring desc host),
    (0x21, .delete ring desc host), (0x22, .setAttr ring desc host), (0x23, .embedInsert ring desc host), (0x30, .storeRead ring desc host),
    (0x31, .storeWrite ring desc host), (0x32, .storeTrim ring desc host), (0x40, .runProgram ring desc host),
    (0x41, .moveTensor ring desc host), (0x50, .abort ring desc host), (0x51, .fence ring desc host)]

/-- The rows of the driver's messages other than HELLO. -/
def messageRows (cells : Bytes) (host : HostImage) : List Instr :=
  [.caps cells host, .tether cells host, .ringCreate cells host, .ringDelete cells host, .arbSet cells host, .collectionCreate cells host,
    .collectionDrop cells host, .collectionState cells host, .upkeepCentroidRetraining cells host, .upkeepQuantiserTraining cells host,
    .upkeepRebuild cells host, .upkeepPartitionMove cells host, .upkeepRebalance cells host, .keyImport cells host, .keyDestroy cells host,
    .attestQuote cells host, .attestCertificateChain cells host, .fwStage cells host, .fwActivateNow cells host,
    .fwActivateAtReset cells host, .programLoad cells host, .programUnload cells host, .timetableLoadStage cells host,
    .timetableLoadPropose cells host, .groupJoin cells host, .lendMemoryOffer cells host, .lendMemoryBorrow cells host,
    .lendMemoryEnd cells host, .powerCap cells host, .selftestStart cells host, .selftestAbort cells host, .selftestStatus cells host,
    .formatConvert cells host, .format cells host, .sanitize cells host, .retirePage cells host, .hbmRepairStatus cells host,
    .hbmRepairLaneRemap cells host, .hbmRepairRowReplacement cells host, .hbmRepairPostPackageRepair cells host,
    .hbmRepairRelease cells host, .configRecordRead cells host, .configRecordWrite cells host, .serviceSessionOpen cells host,
    .serviceSessionClose cells host, .logRead cells host, .pad cells host, .unframedCell cells host, .unknownMessageType cells host]

/-- The messages that shelter mode never takes. -/
def shelterRefused (cells : Bytes) (host : HostImage) : List Instr :=
  [.arbSet cells host, .collectionCreate cells host, .collectionDrop cells host, .collectionState cells host,
    .upkeepCentroidRetraining cells host, .upkeepQuantiserTraining cells host, .upkeepRebuild cells host, .upkeepPartitionMove cells host,
    .upkeepRebalance cells host, .keyImport cells host, .attestQuote cells host, .attestCertificateChain cells host, .fwStage cells host,
    .fwActivateNow cells host, .fwActivateAtReset cells host, .programLoad cells host, .programUnload cells host,
    .timetableLoadStage cells host, .timetableLoadPropose cells host, .groupJoin cells host, .lendMemoryOffer cells host,
    .lendMemoryBorrow cells host, .lendMemoryEnd cells host, .powerCap cells host, .formatConvert cells host, .format cells host,
    .retirePage cells host, .hbmRepairStatus cells host, .hbmRepairLaneRemap cells host, .hbmRepairRowReplacement cells host,
    .hbmRepairPostPackageRepair cells host, .hbmRepairRelease cells host, .configRecordRead cells host, .configRecordWrite cells host,
    .serviceSessionOpen cells host, .serviceSessionClose cells host]

/-- Two states differ at most in what a message or an answer touches: the mailbox and its pages in host memory, MSI-X, which
error records have been reported, and the watcher that a message wakes. -/
def State.mailOnly (s t : State) : Prop :=
  t = { s with host := t.host, mail := t.mail, msix := t.msix, errors := t.errors
               regs := { s.regs with asleep := t.regs.asleep } }

/-- Two states differ at most in what a completion touches: rings and their entries in host memory, MSI-X, staging, the marks of journal parts
whose mutation has completed, and the free values drawn. -/
def State.endOnly (s t : State) : Prop :=
  t = { s with host := t.host, rings := t.rings, msix := t.msix, tether := t.tether, free := t.free
               store := { s.store with journal := t.store.journal } }

/-- Two states differ at most in what an error record touches: the error queue and the mailbox that reports it, host memory, MSI-X,
the shelter flag with PME, and the free values drawn. -/
def State.recordOnly (s t : State) : Prop :=
  t = { s with errors := t.errors, mail := t.mail, host := t.host, msix := t.msix, free := t.free
               regs := { s.regs with shelter := t.regs.shelter, asleep := t.regs.asleep }
               pcie := { s.pcie with pmeStatus := t.pcie.pmeStatus, wake := t.pcie.wake } }

/-- A control message of a type can arrive on a port and is new: 32 bytes, the port TIMED, group-wide and not seen before, and the
fabric service runs. -/
def State.hears? (s : State) (type port : Nat) (msg : Bytes) : Bool :=
  decide (port < 8) && msg.length == 32 && byteAt msg 0 == type && s.portState port == 4 && byteAt msg 1 % 2 == 1
    && !s.group.seen.contains (field msg 2 2, field msg 4 4) && s.compUp Component.fabric

/-- A group-wide message noted as seen, and in line for the other ports. -/
def State.noted (s : State) (port : Nat) (msg : Bytes) : State :=
  { s with
    group.seen := (field msg 2 2, field msg 4 4) :: s.group.seen
    group.toSend := s.group.toSend ++ [{ type := byteAt msg 0, groupWide := true, origin := field msg 2 2, seq := field msg 4 4
                                         sent := field msg 8 8, body := slice msg 0x10 16, inPort := port }] }

/-- Nothing is under way: no command, run, collection, repair, move, transfer or switch, and the module is a group of one. -/
def State.quiet (s : State) : Prop :=
  s.rings.cmds = [] ∧ s.comp.runs = [] ∧ s.comp.passes = [] ∧ s.colls = [] ∧ s.comp.repairing = [] ∧ s.mem.splices = [] ∧ s.mem.retiring = []
    ∧ s.mem.loans = [] ∧ s.group.moves = [] ∧ s.group.hops = [] ∧ s.group.requests = [] ∧ s.group.size = 1 ∧ s.switching = false

end Sys2Proof.Machine
end

