-- ==== Sys2Proof/Certificates/Slice0/Obligations.lean ====
section
/-!
DEFINITION. The statements for the provers.
-/

open Sys2Proof Sys2Proof.Machine

/-! ### The step, reset and the memories -/

/-- A step with a command at the front of the queue is that command on the state with the queue's rest. -/
def Obligations.StepRunsFrontCommand : Prop :=
  ∀ (c : Instr) (rest : List Instr) (s : State), s.pending = c :: rest → step s = exec c { s with pending := rest }

/-- The model's choice (log 1): with no command waiting a step changes nothing but group time, one tick once the block is READY. -/
def Obligations.EmptyQueuePassesOneTick : Prop :=
  ∀ s : State, s.pending = [] →
    step s = .next (if s.regs.ready then { s with clock.groupTime := s.clock.groupTime + 1 } else s)

/-- After reset the block is untethered, start-up has not reached READY, no ring, command, collection, program or error record
exists, the recovery depth of every unit is 0, MSI-X vectors are masked with nothing pending, ports are DOWN, the built-in timetable
is active, the cap is 450 W and no memory lists a byte. -/
def Obligations.ResetLeavesNoWork : Prop :=
  State.reset.pending = [] ∧ State.reset.regs.untethered = true ∧ State.reset.regs.ready = false ∧ State.reset.regs.shelter = false
    ∧ State.reset.regs.step = 1 ∧ State.reset.rings.sqs = [] ∧ State.reset.rings.cqs = [] ∧ State.reset.rings.cmds = []
    ∧ State.reset.colls = [] ∧ State.reset.comp.programs = [] ∧ State.reset.comp.runs = [] ∧ State.reset.errors.queue = []
    ∧ State.reset.errors.overflow = 0 ∧ State.reset.errors.depths = []
    ∧ State.reset.msix.masked.all (fun b => b) = true ∧ State.reset.msix.pend.all (fun b => !b) = true
    ∧ State.reset.ports.all (fun p => p.state == 0) = true ∧ State.reset.active = Timetable.builtin ∧ State.reset.power.cap = 450
    ∧ State.reset.host = [] ∧ State.reset.mem.hbm = [] ∧ State.reset.mem.t2 = [] ∧ State.reset.store.host = []

/-- After reset every memory is in its canonical form. -/
def Obligations.ResetMemoriesCanonical : Prop := State.reset.memoriesWf = true

/-- Every step keeps every memory in its canonical form: host memory as the device wrote it, HBM, borrowed memory, the host area of
the flash and lent windows. -/
def Obligations.StepKeepsMemoriesCanonical : Prop :=
  ∀ s t : State, s.memoriesWf = true → step s = .next t → t.memoriesWf = true

/-! ### The fetch of descriptors -/

/-- A descriptor that passes every check is taken: the ring's head advances and the command is outstanding with its work. The
opcodes: QUERY, QUERY_BATCH, STORE_READ, STORE_WRITE, STORE_TRIM and FENCE. -/
def Obligations.FetchedWorkIsTaken : Prop :=
  ∀ (s : State) (ring : Nat) (desc : Bytes) (host : HostImage) (r : SubRing), s.sq? ring = some r →
    (s.grants ring 0x10 desc = true → s.commonFault r 0x10 desc = none → s.queryFault false desc host = none →
      exec (.query ring desc host) s = .next (s.take r (headerOf 0x10 desc) (s.queryBody false desc host) false))
    ∧ (s.grants ring 0x11 desc = true → s.commonFault r 0x11 desc = none → s.queryFault true desc host = none →
      exec (.queryBatch ring desc host) s = .next (s.take r (headerOf 0x11 desc) (s.queryBody true desc host) false))
    ∧ (s.grants ring 0x30 desc = true → s.commonFault r 0x30 desc = none → s.storeFault .read desc = none →
      exec (.storeRead ring desc host) s = .next (s.take r (headerOf 0x30 desc)
        (.store { kind := .read, dataAddr := field desc 0x10 8, first := field desc 0x18 8, count := field desc 0x20 4, issued := 0, data := [] })
        (s.serves Component.store0 && s.serves Component.store1)))
    ∧ (s.grants ring 0x31 desc = true → s.commonFault r 0x31 desc = none → s.storeFault .write desc = none →
      exec (.storeWrite ring desc host) s = .next (s.take r (headerOf 0x31 desc)
        (.store { kind := .write, dataAddr := field desc 0x10 8, first := field desc 0x18 8, count := field desc 0x20 4, issued := 0
                  data := hostRead host (field desc 0x10 8) (field desc 0x20 4 * 4096) })
        (s.serves Component.store0 && s.serves Component.store1)))
    ∧ (s.grants ring 0x32 desc = true → s.commonFault r 0x32 desc = none → s.storeFault .trim desc = none →
      exec (.storeTrim ring desc host) s = .next (s.take r (headerOf 0x32 desc)
        (.store { kind := .trim, dataAddr := field desc 0x10 8, first := field desc 0x18 8, count := field desc 0x20 4, issued := 0, data := [] })
        (s.serves Component.store0 && s.serves Component.store1)))
    ∧ (s.grants ring 0x51 desc = true → s.commonFault r 0x51 desc = none →
      exec (.fence ring desc host) s = .next (s.take r (headerOf 0x51 desc)
        (.fence { covered := s.fenceCovers ring desc, unfetched := s.fenceRings ring desc host, total := (s.fenceCovers ring desc).length })
        true))

/-- A mutation that passes every check is taken under the next mutation_id and waits for its admission, with the entries or chunks
that its batch gives. The opcodes: INSERT, DELETE, SET_ATTR and EMBED_INSERT; an EMBED_INSERT whose envelopes or chunks fail a check
completes with that check's status. -/
def Obligations.FetchedMutationsAreTaken : Prop :=
  ∀ (s : State) (ring : Nat) (desc : Bytes) (host : HostImage) (r : SubRing) (c : Collection), s.sq? ring = some r →
    s.usable (field desc 8 2) = some c → s.store.sanitise = none → s.power.applied < 3 →
    (s.grants ring 0x20 desc = true → s.commonFault r 0x20 desc = none → (s.insertFault c desc host).1 = none →
      ∃ m : Mutation, m.kind = .insert ∧ m.admitted = false ∧ m.mutationId = s.store.nextMutation
        ∧ m.entries = (s.insertFault c desc host).2.map (·.entry c)
        ∧ exec (.insert ring desc host) s = .next { s.take r (headerOf 0x20 desc) (.mutation m) false with
            store.nextMutation := s.store.nextMutation + 1 })
    ∧ (s.grants ring 0x21 desc = true → s.commonFault r 0x21 desc = none → (s.idsFault c .delete desc host).1 = none →
      ∃ m : Mutation, m.kind = .delete ∧ m.admitted = false ∧ m.mutationId = s.store.nextMutation
        ∧ m.entries = (s.idsFault c .delete desc host).2
        ∧ exec (.delete ring desc host) s = .next { s.take r (headerOf 0x21 desc) (.mutation m) false with
            store.nextMutation := s.store.nextMutation + 1 })
    ∧ (s.grants ring 0x22 desc = true → s.commonFault r 0x22 desc = none → (s.idsFault c .setAttr desc host).1 = none →
      ∃ m : Mutation, m.kind = .setAttr ∧ m.admitted = false ∧ m.mutationId = s.store.nextMutation
        ∧ m.entries = (s.idsFault c .setAttr desc host).2
        ∧ exec (.setAttr ring desc host) s = .next { s.take r (headerOf 0x22 desc) (.mutation m) false with
            store.nextMutation := s.store.nextMutation + 1 })
    ∧ (s.grants ring 0x23 desc = true → s.commonFault r 0x23 desc = none →
      ∃ m : Mutation, m.kind = .embed ∧ m.admitted = false ∧ m.mutationId = s.store.nextMutation
        ∧ m.chunks = (s.embedFault c desc host).2.map c.chunkOf
        ∧ exec (.embedInsert ring desc host) s = .next (match (s.embedFault c desc host).1 with
          | none => { s.take r (headerOf 0x23 desc) (.mutation m) false with store.nextMutation := s.store.nextMutation + 1 }
          | some e => (s.take r (headerOf 0x23 desc) .plain true).complete s.rings.nextCid e))

/-- MOVE_TENSOR and RUN_PROGRAM that pass every check are taken: the first with its transfer started while the memory service serves,
the second with a run of its program that waits for clusters, under its own seed or, where its seed field is 0, the program's, and with
the program's status block cleared where no other RUN_PROGRAM of the handle is under way. -/
def Obligations.FetchedTensorWorkIsTaken : Prop :=
  ∀ (s : State) (ring : Nat) (desc : Bytes) (host : HostImage) (r : SubRing), s.sq? ring = some r →
    (s.grants ring 0x41 desc = true → s.commonFault r 0x41 desc = none →
      s.moveCheck desc (parseTensor (hostRead host (field desc 0x10 8) 64)) (parseTensor (hostRead host (field desc 0x10 8 + 64) 64)) = none →
      exec (.moveTensor ring desc host) s = .next (((s.draw 1).take r (headerOf 0x41 desc)
        (.move { src := parseTensor (hostRead host (field desc 0x10 8) 64), dst := parseTensor (hostRead host (field desc 0x10 8 + 64) 64)
                 started := s.serves Component.memory, flown := none }) (s.serves Component.memory)).blurAllows))
    ∧ ∀ (p : Program) (args : List (Nat × TensorDesc)) (t : State), s.grants ring 0x40 desc = true → s.commonFault r 0x40 desc = none →
      s.runFault desc host = none → s.comp.programs.find? (fun p => p.handle == field desc 0x10 4) = some p →
      args = (((List.range 16).filter fun i => (field desc 0x14 2).testBit i).map fun i =>
        (i, parseTensor (hostRead host (field desc 0x20 8 + 64 * i) 64))) →
      (t = (s.take r (headerOf 0x40 desc) (.run { handle := p.handle, seed := field desc 0x18 8, args, run := some s.comp.nextRun }) false).newRun p
        (.command s.rings.nextCid) (if field desc 0x18 8 = 0 then p.seed else field desc 0x18 8) args (!s.runsFor p.handle)) →
      exec (.runProgram ring desc host) s = .next (
        if s.runsFor p.handle = true then { t with group.barred := t.group.barred.filter fun b => b.1 != p.handle }
        else { t with group.barred := t.group.barred.filter fun b => b.1 != p.handle }.writeT1 p.status (clearedStatus p))

/-- NOP completes with DONE, an ABORT with DONE, its outcome and its count after what it does to its target, and a descriptor of version 1
whose opcode is not listed with INVALID_DESCRIPTOR, one of another version with UNSUPPORTED_VERSION. An ABORT ends a target that has not
begun with ABORTED and outcome 0, leaves one that completes at once or is past its first journal part alone with outcome 2, and answers
3 for a tag that its ring does not know. -/
def Obligations.ImmediateDescriptorsComplete : Prop :=
  ∀ (s : State) (ring : Nat) (desc : Bytes) (host : HostImage) (r : SubRing), s.sq? ring = some r →
    (s.grants ring 0x00 desc = true → s.commonFault r 0x00 desc = none →
      exec (.nop ring desc host) s = .next ((s.take r (headerOf 0x00 desc) .plain true).complete s.rings.nextCid (.of 0)))
    ∧ (s.supported = true → s.mayFetch ring (byteAt desc 0) = true → opcodes.contains (byteAt desc 0) = false → byteAt desc 1 % 16 = 1 →
      r.doomed.contains r.fetches = false →
      exec (.invalidOpcodeDescriptor ring desc host) s =
        .next ((s.take r (headerOf (byteAt desc 0) desc) .plain true).complete s.rings.nextCid (.invalid 1 noItem)))
    ∧ (s.supported = true → s.mayFetch ring (byteAt desc 0) = true → byteAt desc 1 % 16 ≠ 1 → r.doomed.contains r.fetches = false →
      exec (.invalidOpcodeDescriptor ring desc host) s =
        .next ((s.take r (headerOf (byteAt desc 0) desc) .plain true).complete s.rings.nextCid (.of 4)))
    ∧ (∀ t u : State, s.grants ring 0x50 desc = true → s.commonFault r 0x50 desc = none →
      t = (s.take r (headerOf 0x50 desc) .plain true).updCmd s.rings.nextCid (fun c => { c with finished := true }) →
      u = (t.abortTarget (byteAt desc 0x10) (field desc 0x14 4) host).1.updCmd s.rings.nextCid (fun c => { c with finished := false }) →
      exec (.abort ring desc host) s = .next (u.complete s.rings.nextCid { Result.of 0 with
        detail := (t.abortTarget (byteAt desc 0x10) (field desc 0x14 4) host).2.1
        b := (t.abortTarget (byteAt desc 0x10) (field desc 0x14 4) host).2.2 }))
    ∧ (∀ (tag : Nat) (c : Cmd), (s.rings.cmds.find? fun c => c.ring == ring && c.hdr.tag == tag && !c.unreachable && !c.finished) = some c →
      (∀ (q : QueryWork) (f : FenceWork), c.body = .query q ∨ c.body = .fence f →
        s.abortTarget ring tag host = ((s.dropWork c).complete c.cid (.of 1), 0, 0))
      ∧ (∀ (m : Mutation) (w : StoreWork), c.body = .mutation m ∨ c.body = .store w → c.admitted = false →
        s.abortTarget ring tag host = ((s.dropWork c).complete c.cid (.of 1), 0, 0))
      ∧ (∀ m : Mutation, c.body = .mutation m → c.admitted = true → 0 < m.issued → s.abortTarget ring tag host = (s, 2, 0))
      ∧ (∀ m : MoveWork, c.body = .move m → m.started = false → s.abortTarget ring tag host = ((s.dropWork c).complete c.cid (.of 1), 0, 0))
      ∧ (c.body = .plain → s.abortTarget ring tag host = (s, 2, 0)))
    ∧ (∀ tag : Nat, (s.rings.cmds.find? fun c => c.ring == ring && c.hdr.tag == tag && !c.unreachable && !c.finished) = none →
      (∀ x ∈ unfetchedTags host r (s.readTail host r), x.2 ≠ tag) →
      s.abortTarget ring tag host = (s, if r.recent.contains tag = true then 2 else 3, 0))

/-- A descriptor whose desc_version is not 1 completes with UNSUPPORTED_VERSION, whatever its opcode and the rest of it, and its fetch
and its completion are all that happens. -/
def Obligations.OtherVersionCompletesUnsupported : Prop :=
  ∀ (s : State) (ring : Nat) (desc : Bytes) (host : HostImage) (r : SubRing) (op : Nat) (i : Instr), s.sq? ring = some r →
    (op, i) ∈ descriptorRows ring desc host → s.grants ring op desc = true → byteAt desc 1 % 16 ≠ 1 → r.doomed.contains r.fetches = false →
    exec i s = .next ((s.take r (headerOf op desc) .plain true).complete s.rings.nextCid (.of 4))

/-- In shelter mode a descriptor that passes R12 to R14 and is no NOP, ABORT or FENCE completes with SHELTER, and none of its own
checks is made. -/
def Obligations.ShelterEndsDescriptors : Prop :=
  ∀ (s : State) (ring : Nat) (desc : Bytes) (host : HostImage) (r : SubRing) (op : Nat) (i : Instr), s.sq? ring = some r →
    (op, i) ∈ descriptorRows ring desc host → s.grants ring op desc = true → s.regs.shelter = true → headerFault op desc = none →
    r.doomed.contains r.fetches = false → op ≠ 0x00 → op ≠ 0x50 → op ≠ 0x51 →
    exec i s = .next ((s.take r (headerOf op desc) .plain true).complete s.rings.nextCid (.of 10))

/-- What a fetch of a descriptor may touch, whatever its opcode and its outcome: rings and commands, completion entries in host
memory, MSI-X, staging, free values, the mailbox's notes of failed reads, mutation numbers, the done marks of journal parts, and for
RUN_PROGRAM its run, the barriers of its handle and its program's status block. Registers, collections, keys, firmware, the store's
contents, group and power are as before. -/
def Obligations.FetchTouchesRingsOnly : Prop :=
  ∀ (s t : State) (ring : Nat) (desc : Bytes) (host : HostImage) (op : Nat) (i : Instr), (op, i) ∈ descriptorRows ring desc host → op ≠ 0x50 →
    exec i s = .next t →
    t = { s with rings := t.rings, host := t.host, msix := t.msix, tether := t.tether, free := t.free, mail.readFailed := t.mail.readFailed
                 store.nextMutation := t.store.nextMutation, store.journal := t.store.journal, comp.runs := t.comp.runs
                 comp.nextRun := t.comp.nextRun, mem := t.mem, group.barred := t.group.barred }
      ∧ (t.store.journal.map fun j => { j with done := false }) = (s.store.journal.map fun j => { j with done := false })
      ∧ (op ≠ 0x40 → t.mem = s.mem ∧ t.comp = s.comp ∧ t.group = s.group)
      ∧ (op = 0x40 → ∀ p : Program, s.comp.programs.find? (fun p => p.handle == field desc 0x10 4) = some p → ∀ a : Nat,
          s.memoriesWf = true → ¬ (p.status ≤ a ∧ a < p.status + (clearedStatus p).length) → Mem.get t.mem.hbm a = Mem.get s.mem.hbm a)

/-! ### The ends of commands -/

/-- STORE_COMPLETION: a write or trim, or a read whose sectors decode, has its effect and completes with DONE and its sectors in word_b;
a read over a sector that fails completes with MEDIUM_ERROR and a record that names the sector, and writes nothing to its buffer. -/
def Obligations.StoreCommandsComplete : Prop :=
  ∀ (s : State) (cid : Nat) (c : Cmd) (w : StoreWork), s.cmd? cid = some c → c.body = .store w → c.admitted = true → c.held = none →
    s.storesUp = true →
    ((w.kind ≠ .read ∨ s.sectorFails (w.first * 4096) (w.count * 4096) = false) →
      exec (.storeCompletion cid) s = .next ((s.storeApply w w.count (!c.unreachable)).complete cid { Result.of 0 with b := w.count }))
    ∧ (w.kind = .read → s.sectorFails (w.first * 4096) (w.count * 4096) = true →
      exec (.storeCompletion cid) s = .next (s.settled ((s.flashFailure c
        ((s.store.failing.find? fun k => w.first ≤ k && k < w.first + w.count).getD w.first)).complete cid (.of 8))))

/-- What a store command that completes leaves in the host area: a written range reads as its data, a trimmed one as zeros, and every
byte outside it, and after a read every byte, reads as before. -/
def Obligations.StoreCommandsChangeTheirSectors : Prop :=
  ∀ (s t : State) (cid : Nat) (c : Cmd) (w : StoreWork), s.cmd? cid = some c → c.body = .store w → c.admitted = true → c.held = none →
    s.storesUp = true → s.memoriesWf = true → w.data.length = w.count * 4096 ∨ w.kind ≠ .write → exec (.storeCompletion cid) s = .next t →
    t.regs.shelter = s.regs.shelter → ∀ j : Nat,
      Mem.get t.store.host j =
        if w.kind ≠ .read ∧ w.first * 4096 ≤ j ∧ j < (w.first + w.count) * 4096 then
          (if w.kind = .write then w.data.getD (j - w.first * 4096) 0 else 0)
        else Mem.get s.store.host j

/-- FENCE_COMPLETE, WAIT_LIMIT_EXPIRY, QUERY_BOUND_EXPIRY, GROUP_COMMIT_COMPLETION and MOVE_TENSOR_DONE end their commands: DONE with
the commands covered, NO_RESOURCES, INTERRUPTED_RETRY, DONE with the commit sequence and the counts, and DONE with the bytes written. -/
def Obligations.CommandsEnd : Prop :=
  ∀ (s : State) (cid : Nat) (host : HostImage) (c : Cmd), s.cmd? cid = some c →
    (∀ f : FenceWork, c.body = .fence f → s.fenceOver f = true → c.held = none →
      exec (.fenceComplete cid) s = .next (s.complete cid { Result.of 0 with a := f.total }))
    ∧ (∀ q : QueryWork, c.body = .query q → c.admitted = false → s.waitOut q s.clock.round = true →
      exec (.waitLimitExpiry cid) s = .next (s.complete cid (.of 5)))
    ∧ (∀ (q : QueryWork) (at0 : Nat), c.body = .query q → c.admitted = true → q.bound ≤ s.clock.round → s.fw.lodgeAt = some at0 →
      s.roundTick q.admitRound ≤ at0 → exec (.queryBoundExpiry cid) s = .next ((s.dropWork c).complete cid (.of 2)))
    ∧ (∀ (m : Mutation) (seq : Nat), c.body = .mutation m → m.committed = some seq → m.commitRound + s.active.hops ≤ s.clock.round →
      c.held = none → exec (.groupCommitCompletion cid) s = .next (s.complete cid
        { Result.of 0 with a := m.counts.getD 0 0, b := seq, c := m.counts.getD 1 0 }))
    ∧ (∀ (m : MoveWork) (u : State), c.body = .move m → m.started = true → c.held = none → s.compUp Component.memory = true → s.moveFails m = false →
      m.namesT2 = false ∨ (s.flownOver m.flown = true ∧ s.t2Shed [m.src, m.dst] = false) →
      u = s.readMedium m.src.tier ((m.src.fmt?.map fun f => readRows m.src f m.src.dims []).getD []) →
      exec (.moveTensorDone cid host) s =
        .next ((if c.unreachable && m.dst.tier == 4 then u else u.writeRows m.dst.tier (s.moveRows m host)).complete cid
          { Result.of 0 with b := ((s.moveRows m host).map fun x => x.2.length).sum }))

/-! ### Mutations -/

/-- The journal's order: a mutation is admitted with its slots and all parts but the last issued, its last part is issued alone, once
what was overtaken is written again and its holders have its data, and each part that reaches the medium is noted. Where the sequences
of its collection or the room are used up it ends with NO_RESOURCES. -/
def Obligations.MutationsAdvance : Prop :=
  ∀ (s : State) (cid : Nat) (c : Cmd) (m : Mutation) (k : Collection), s.cmd? cid = some c → c.body = .mutation m →
    s.usable c.hdr.collection = some k → c.held = none → s.compUp Component.store0 = true →
    (c.admitted = false → m.ready = true → s.serves Component.store0 = true → s.fw.lodge = .up → k.load = .loaded → s.power.applied < 3 →
      s.regs.shelter = false → s.group.joining = none → s.store.sanitise = none →
      s.journalRoom (m.sectorsFrom (s.partSize m.kind) 0) = true → s.roomAwaited cid = false →
      s.earlier c (fun x y => !x.admitted && y.ready) = false →
      exec (.mutationAdmission cid) s = .next
        (if k.latest ≥ 0xFFFFFFFFFFFFFFFE ∨ ((m.kind = .insert ∨ m.kind = .embed) ∧ (s.admitMutation c m k).fits k.cid = false)
         then s.complete cid (.of 5) else s.admitMutation c m k))
    ∧ (c.admitted = true → m.admitted = true → m.issued + 1 = m.parts →
      (s.rings.cmds.any fun x => x.hdr.collection == c.hdr.collection && (x.mutation?.any fun y => y.closing || (y.out && x.cid != cid))) = false →
      s.earlier c (fun _ y => y.committed.isNone) = false → s.coll? c.hdr.collection = some k →
      (∀ u : State, k.latest < 0xFFFFFFFFFFFFFFFE → (u = if m.sent = true then s.redo c m k else (s.redo c m k).sendData cid) →
        exec (.lastPartIssue cid) s = .next (if u.holdersWait cid = true then u else u.issueLast cid))
      ∧ (k.latest < 0xFFFFFFFFFFFFFFFE → m.base = k.latest → m.gen = k.lastGen → m.sent = true → m.holdersLeft = [] →
        exec (.lastPartIssue cid) s = .next { s.updMutation cid (fun m => { m with issued := m.parts }) with
          store.journal := s.store.journal ++ [s.journalPart c m (m.parts - 1)] })
      ∧ (0xFFFFFFFFFFFFFFFE ≤ k.latest → exec (.lastPartIssue cid) s = .next (s.noSequence c m)))
    ∧ (∀ holder : Nat, m.admitted = true → m.holdersLeft.contains holder = true →
      exec (.holderWriteDone cid holder) s =
        .next ((s.updMutation cid fun m => { m with holdersLeft := m.holdersLeft.filter fun h => h != holder }).tryCommit cid))

/-- JOURNAL_PART_ON_MEDIUM: where this is a mutation's last part and no holder still writes, the mutation commits: its collection's
latest sequence rises by one, and in a group of one its command is over. Another part, or a last part that holders still write for, is
only noted, and so the part of a mutation that no sequence is left for ends it with NO_RESOURCES. -/
def Obligations.LastPartCommits : Prop :=
  ∀ (s u : State) (part : Nat) (c : Cmd) (m : Mutation) (k : Collection) (noted : List Journal),
    s.rings.cmds.find? (fun c => !c.finished && (c.mutation?.any fun x => x.mutationId == m.mutationId)) = some c → c.body = .mutation m →
    s.cmd? c.cid = some c → s.coll? c.hdr.collection = some k → m.admitted = true → part < m.issued → m.onMedium.contains part = false →
    s.compUp Component.store0 = true → m.committed = none → m.lastOnMedium = false →
    noted = updWhere (fun j => j.mutationId == m.mutationId && j.index == part && j.kind < 3) (fun j => { j with onMedium := true })
      s.store.journal →
    u = { s with store.journal := noted }.updMutation c.cid (fun y =>
          { y with onMedium := y.onMedium ++ [part], lastOnMedium := y.lastOnMedium || part + 1 == m.parts }) →
    exec (.journalPartOnMedium m.mutationId part) s = .next (u.tryCommit c.cid)
      ∧ (part + 1 ≠ m.parts ∨ m.holdersLeft ≠ [] → u.tryCommit c.cid = u ∧ u.colls = s.colls ∧ u.host = s.host)
      ∧ (part + 1 = m.parts → m.holdersLeft = [] → k.latest < 0xFFFFFFFFFFFFFFFE →
        (∀ x ∈ (u.tryCommit c.cid).colls, x.cid = k.cid → x.latest = k.latest + 1)
        ∧ (s.groupMember = false → (u.tryCommit c.cid).cmd? c.cid = none))

/-! ### Queries -/

/-- The stages of a query on a module: its walk ends, its lanes take and end passes, its rerank program is invoked, or the stage ends
where no candidate is left, and its last round writes its result. A program's scan ends with the slice that reads its last byte. -/
def Obligations.QueriesAdvance : Prop :=
  ∀ (s : State),
    (∀ (cid member : Nat) (c : Cmd) (q : QueryWork) (k : Collection) (g : Generation) (m : Member), s.cmd? cid = some c → c.body = .query q →
      s.coll? c.hdr.collection = some k → q.gen? k = some g → q.member? member = some m → q.phase = .walk → m.status = none → m.probes = [] →
      s.power.clampHold = false → exec (.walkEnd cid member) s = .next (s.settled ((s.walkEnd k q g m cid).progress cid)))
    ∧ (∀ (lane i : Nat) (p : LanePass), s.nextPass lane = some i → s.comp.passes[i]? = some p → s.bulkRoom p = true → s.power.clampHold = false →
      (s.comp.passes.any fun p => p.lane == lane && p.started) = false →
      exec (.lanePassStart lane) s = .next (s.startPass lane i)
        ∧ ∀ x : LanePass, (s.startPass lane i).comp.passes[i]? = some x → x.started = true ∧ x.filled = true)
    ∧ (∀ (lane : Nat) (p : LanePass), s.comp.passes.find? (fun p => p.lane == lane && p.started) = some p → p.paused = false →
      (p.program = none → exec (.lanePassEnd lane) s = .next (p.entries.foldl (fun s e => s.endEntry p e)
        { s with comp.passes := s.comp.passes.filter fun x => !(x.lane == lane && x.started) }))
      ∧ (∀ run transfer : Nat, p.program = some (run, transfer) →
        (s.jobBytes p ≤ p.bulkRead → exec (.lanePassEnd lane) s = .next (State.endScan
          { s with comp.passes := s.comp.passes.filter fun x => !(x.lane == lane && x.started) } p run transfer))
        ∧ (p.bulkRead < s.jobBytes p → exec (.lanePassEnd lane) s = .next { s with
          comp.passes := s.comp.passes.map fun x => if x.lane = lane ∧ x.started = true then { x with started := false } else x })))
    ∧ (∀ (cid member : Nat) (c : Cmd) (q : QueryWork) (k : Collection) (m : Member) (p : Program) (image : Timetable) (base : Nat),
      s.cmd? cid = some c → c.body = .query q → s.coll? c.hdr.collection = some k → q.member? member = some m → s.program? q.plan.rerank = some p →
      q.phase = .rerank → m.status = none → m.reranked = none → m.rerankSkipped = false → s.reranking cid member = false → s.power.applied = 0 →
      s.imageFor q.admitRound = (image, base) → image.rerankAt (image.place base s.clock.round) = true →
      (m.toRerank q.plan.refine = [] → exec (.rerankInvocation cid member) s =
        .next ((s.updMember cid member fun m => { m with reranked := some [] }).progress cid))
      ∧ (∀ (u v : State) (args : List (Nat × TensorDesc)), m.toRerank q.plan.refine ≠ [] → s.rerankRoom q = some u → u.rerankArgs k q m p = some (v, args) →
        exec (.rerankInvocation cid member) s = .next (v.newRun p (.rerank cid member) p.seed args)))
    ∧ (∀ (cid : Nat) (c : Cmd) (q : QueryWork) (k : Collection) (t : State), (s.moveOn cid).cmd? cid = some c → c.body = .query q →
      (s.moveOn cid).coll? c.hdr.collection = some k → q.phase = .final → t = q.active.foldl (fun s m => s.finalMember c k q m) (s.moveOn cid) →
      exec (.queryFinal cid) s = .next (t.complete cid
        (finalResult (((t.cmd? cid).bind Cmd.query?).getD q) (((t.cmd? cid).bind Cmd.query?).getD q).status)))

/-- REFINE_READ_DONE: the candidate's exact distance joins the refined list, or its NaR is counted, and the read is no longer awaited. A
read before its scheduled round takes what the round has left. -/
def Obligations.RefineReadsJoin : Prop :=
  ∀ (s early : State) (cid member id part place coll : Nat) (q : QueryWork) (k : Collection) (m : Member) (g : Generation) (e : Entry)
    (slot : Slot),
    s.work? cid = some (coll, q) → s.coll? coll = some k → q.member? member = some m → q.gen? k = some g → m.refLeft.find? (fun e => e.id == id) = some e →
    k.liveSlot q.snapshot id = some (part, place, slot) → q.phase = .refine → m.status = none → m.askedOf s.group.index id = s.group.index →
    (s.group.requests.any fun r => r.refine && r.served == 0 && r.query == cid && r.member == member && r.coord == s.group.index) = false →
    s.earlyRead q k.fullReads = some early →
    exec (.refineReadDone cid member id) s = .next (((early.flashRead 1 (slot.ref / 4096) k.fullReads).updMember cid member fun x =>
      let d := k.exactKey (m.zeroLength k) k.full (if k.full = .k16 then m.q16 else m.q8) slot.full
      if d.1 = 0xFFFFFFFF then { x with refLeft := x.refLeft.filter fun y => y.id != id, narRefine := x.narRefine + 1 }
      else { x with refLeft := x.refLeft.filter fun y => y.id != id
                    refined := x.refined ++ [{ e with key := d.1, dist := BitVec.ofNat 32 d.2 }] }).progress cid)

/-! ### Messages -/

/-- CAPS, TETHER and LOG_READ of error records: the reply and its body. TETHER renews the tether and sets its period, and the reply
carries the renewal's time; LOG_READ with release frees the records that its reply returns. Three periods after the last renewal the
device becomes untethered. -/
def Obligations.MailboxServiceAnswers : Prop :=
  ∀ (s : State) (cells : Bytes) (host : HostImage),
    (s.takes .caps cells [] = true →
      exec (.caps cells host) s = .next ((s.takeMessage .caps cells).reply 2 (seqOf cells) s.capsBody))
    ∧ (s.takes .tether cells [(0x24, 12, 0xFF)] = true →
      field cells 0x20 4 = 0 ∨ (10 ≤ field cells 0x20 4 ∧ field cells 0x20 4 ≤ 10000) →
      exec (.tether cells host) s = .next ({ s.takeMessage .tether cells with
        tether.period := if field cells 0x20 4 = 0 then s.tether.period else field cells 0x20 4
        tether.last := s.clock.groupTime }.reply 3 (seqOf cells) (toLe 8 s.clock.groupTime ++ zeros 8)))
    ∧ (s.takes .logRead cells [(0x21, 1, 0xFE), (0x22, 2, 0xFF), (0x34, 12, 0xFF), (0x28, 12, 0xFF)] = true →
      byteAt (msgBytes cells) 0x20 = 1 → field (msgBytes cells) 0x24 4 = 0 →
      exec (.logRead cells host) s = .next ((s.takeMessage .logRead cells).reply 0x91 (seqOf cells)
        (toLe 4 0 ++ toLe 4 s.errors.queue.length ++ zeros 8)))
    ∧ (s.takes .logRead cells [(0x21, 1, 0xFE), (0x22, 2, 0xFF), (0x34, 12, 0xFF)] = true →
      byteAt (msgBytes cells) 0x20 = 1 → byteAt (msgBytes cells) 0x21 = 1 → s.errors.queue.length ≤ field (msgBytes cells) 0x24 4 →
      0 < field (msgBytes cells) 0x24 4 → field (msgBytes cells) 0x28 8 ≠ 0 → field (msgBytes cells) 0x28 8 % 64 = 0 →
      field (msgBytes cells) 0x28 8 + field (msgBytes cells) 0x30 4 ≤ 2 ^ 47 → 0 < field (msgBytes cells) 0x30 4 →
      64 * s.errors.queue.length ≤ field (msgBytes cells) 0x30 4 →
      exec (.logRead cells host) s = .next ({ (s.takeMessage .logRead cells).hostWrite (field (msgBytes cells) 0x28 8)
          (s.errors.queue.map ErrRec.bytes).flatten with errors.queue := [] }.reply 0x91 (seqOf cells)
        (toLe 4 s.errors.queue.length ++ toLe 4 0 ++ zeros 8)))
    ∧ (s.regs.untethered = false → s.compUp Component.mailboxService = true → s.fw.lodge = .up →
      ∃ t, exec .tetherExpiry s = .next t ∧ t.regs.untethered = true ∧ t.tether.cause = 1 ∧ t.rings.sqs = [] ∧ t.rings.cqs = []
        ∧ t.mail.awaiting = [] ∧ t.keys.session = none
        ∧ max s.tether.last s.tether.since + 3 * s.tether.period * 500000 ≤ t.clock.groupTime)

/-- A PAD and a cell that begins no message are passed over, the first without a reply and the second with REFUSED_CRC; a message of
a type that is not listed is taken with REFUSED_TYPE at its type field. -/
def Obligations.FramingAnswers : Prop :=
  ∀ (s : State) (cells : Bytes) (host : HostImage), s.supported = true → s.regs.untethered = false → s.mayTake = true →
    (field cells 6 2 = 0 → framed cells s.mail.toHead s.mailCells = true → msgLen cells ≤ cells.length →
      crcFault (msgBytes cells) = none → exec (.pad cells host) s = .next (s.takeCells (msgLen cells / 64)))
    ∧ (64 ≤ cells.length → framed cells s.mail.toHead s.mailCells = false →
      exec (.unframedCell cells host) s = .next ((s.takeCells 1).refuse (field cells 6 2) (field cells 8 4) 1
        (if field cells 0 4 = 0x4C4E4D45 then 0x0C else 0) 0))
    ∧ (driverTypes.contains (field cells 6 2) = false → framed cells s.mail.toHead s.mailCells = true → msgLen cells ≤ cells.length →
      crcFault (msgBytes cells) = none →
      exec (.unknownMessageType cells host) s =
        .next ((s.takeCells (ceilDiv (msgLen cells) 64)).refuse (field cells 6 2) (field (msgBytes cells) 8 4) 3 6 0))

/-- An accepted HELLO of an untethered device: it is tethered with the period and the host stack of the message, the attach count is
one more, the message's cells are taken, and the tether runs from now. -/
def Obligations.HelloAttaches : Prop :=
  ∀ (s : State) (cells : Bytes) (host : HostImage), s.regs.untethered = true → s.mayHear = true → field cells 6 2 = 1 →
    framed cells 0 s.mail.toTail = true → msgLen cells ≤ cells.length → s.moving ≠ some Component.mailboxService →
    helloFault (msgBytes cells) = none →
    ∃ t, exec (.hello cells host) s = .next t ∧ t.regs.untethered = false ∧ t.tether.last = s.clock.groupTime
      ∧ t.tether.period = (if field (msgBytes cells) 0x2C 4 = 0 then 1000 else field (msgBytes cells) 0x2C 4)
      ∧ t.tether.stackId = field (msgBytes cells) 0x24 4 ∧ t.tether.stackVer = field (msgBytes cells) 0x28 4
      ∧ t.tether.attach = min 0xFFFFFFFF (s.tether.attach + 1) ∧ t.mail.toHead = ceilDiv (msgLen cells) 64
      ∧ (s.regs.adminEnable = false → t.rings = s.rings)

/-- RING_CREATE makes the ring that its fields describe, RING_DELETE of a ring without outstanding commands removes it and of another
stops it until RING_DELETE_COMPLETE, and ARB_SET sets the weights of the next arbitration cycle. -/
def Obligations.RingMessagesAct : Prop :=
  ∀ (s : State) (cells : Bytes) (host : HostImage),
    (byteAt (msgBytes cells) 0x21 = 0 → s.takes .ringCreate cells [(0x23, 1, 0xFF), (0x36, 10, 0xFF)] = true → ringFields (msgBytes cells) = none →
      s.sq? (byteAt (msgBytes cells) 0x20) = none → (s.cq? (byteAt (msgBytes cells) 0x30)).isSome = true →
      exec (.ringCreate cells host) s = .next ({ s.takeMessage .ringCreate cells with
        rings.sqs := s.rings.sqs ++ [s.newSub (msgBytes cells)] }.reply 0x10 (seqOf cells) []))
    ∧ (byteAt (msgBytes cells) 0x21 = 1 → s.takes .ringCreate cells [(0x23, 1, 0xFF), (0x36, 10, 0xFF), (0x22, 1, 0xFF)] = true →
      ringFields (msgBytes cells) = none → s.cq? (byteAt (msgBytes cells) 0x20) = none →
      exec (.ringCreate cells host) s = .next ({ s.takeMessage .ringCreate cells with
        rings.cqs := s.rings.cqs ++ [newCmp (msgBytes cells)] }.reply 0x10 (seqOf cells) []))
    ∧ (∀ r : SubRing, byteAt cells 0x20 ≠ 0 → byteAt cells 0x21 = 0 → s.takes .ringDelete cells [(0x22, 14, 0xFF)] = true →
      s.sq? (byteAt cells 0x20) = some r → r.deleteMsg = none →
      exec (.ringDelete cells host) s = .next (
        if s.outstanding (byteAt cells 0x20) then (s.takeMessage .ringDelete cells).updSq (byteAt cells 0x20) fun r =>
          { r with stopped := true, deleteMsg := some (seqOf cells) }
        else { s.takeMessage .ringDelete cells with
          rings.sqs := s.rings.sqs.filter fun r => r.num != byteAt cells 0x20 }.reply 0x11 (seqOf cells) []))
    ∧ (byteAt cells 0x20 ≠ 0 → byteAt cells 0x21 = 1 → s.takes .ringDelete cells [(0x22, 14, 0xFF)] = true →
      (s.cq? (byteAt cells 0x20)).isSome = true → (s.rings.sqs.any fun r => r.cq == byteAt cells 0x20) = false →
      exec (.ringDelete cells host) s = .next ({ s.takeMessage .ringDelete cells with
        rings.cqs := s.rings.cqs.filter fun q => q.num != byteAt cells 0x20 }.reply 0x11 (seqOf cells) []))
    ∧ (∀ (ring seq : Nat) (r : SubRing), s.sq? ring = some r → r.deleteMsg = some seq → s.outstanding ring = false →
      s.compUp Component.ringService = true → (s.mail.awaiting.any fun a => a.seq == seq) = true →
      exec (.ringDeleteComplete ring) s = .next ({ s with rings.sqs := s.rings.sqs.filter fun r => r.num != ring }.reply 0x11 seq []))
    ∧ (s.takes .arbSet cells [(0x24, 12, 0xFF)] = true → (∀ i < 4, byteAt cells (0x20 + i) ≠ 0) →
      exec (.arbSet cells host) s = .next ({ s.takeMessage .arbSet cells with
        rings.nextWeights := (List.range 4).map fun i => byteAt cells (0x20 + i) }.reply 0x12 (seqOf cells) []))

/-- Whatever their outcome, these messages touch the mailbox, its pages in host memory, MSI-X and the reported marks of records, and
beside them CAPS nothing, TETHER the tether, the ring messages the rings, ARB_SET the weights of the next cycle. -/
def Obligations.MailboxMessagesFrame : Prop :=
  ∀ (s t : State) (cells : Bytes) (host : HostImage),
    (exec (.caps cells host) s = .next t → s.mailOnly t)
    ∧ (exec (.tether cells host) s = .next t → s.mailOnly { t with tether := s.tether })
    ∧ (exec (.ringCreate cells host) s = .next t ∨ exec (.ringDelete cells host) s = .next t →
        s.mailOnly { t with rings.sqs := s.rings.sqs, rings.cqs := s.rings.cqs })
    ∧ (exec (.arbSet cells host) s = .next t → s.mailOnly { t with rings.nextWeights := s.rings.nextWeights })
    ∧ (exec (.pad cells host) s = .next t ∨ exec (.unframedCell cells host) s = .next t ∨ exec (.unknownMessageType cells host) s = .next t →
        s.mailOnly t)

/-- While the device is untethered a message other than HELLO is discarded without a reply: nothing changes. -/
def Obligations.UntetheredMessagesAreDiscarded : Prop :=
  ∀ (s t : State) (cells : Bytes) (host : HostImage) (i : Instr), s.regs.untethered = true → i ∈ messageRows cells host →
    exec i s = .next t → t = s

/-- In shelter mode a message that shelter mode does not take changes nothing but the mailbox that answers it, its pages in host memory,
MSI-X and the reported marks of records. -/
def Obligations.ShelterRefusesMessages : Prop :=
  ∀ (s t : State) (cells : Bytes) (host : HostImage) (i : Instr), s.regs.shelter = true → s.regs.untethered = false →
    i ∈ shelterRefused cells host → exec i s = .next t → s.mailOnly t

/-- COLLECTION_CREATE makes the collection of its fields where T1 and T3 have room for it and is refused with NO_RESOURCES where not,
COLLECTION_STATE answers with the collection's state, and COLLECTION_DROP puts it into dropping until the work admitted on it is done:
then it is gone with its journal parts and its regions. A collection that a mount found loads in ascending ID, and a route graph that
was copied back has no poisoned word. -/
def Obligations.CollectionMessagesAct : Prop :=
  ∀ (s : State) (cells : Bytes) (host : HostImage),
    (∀ t : State, s.takes .collectionCreate cells (createReserved (msgBytes cells)) = true → s.createFault (msgBytes cells) = none →
      s.coll? (field (msgBytes cells) 0x20 2) = none → s.store.sanitise = none → s.store.formatting = none →
      t = { s.takeMessage .collectionCreate cells with
        colls := s.colls ++ [s.newCollection (msgBytes cells)], free := s.free + 1 }.layout →
      exec (.collectionCreate cells host) s = .next (if t.t1Fits = true ∧ t.t3Fits = true
        then (t.sendRecord (field (msgBytes cells) 0x20 2)).reply 0x20 (seqOf cells) []
        else (s.takeMessage .collectionCreate cells).refuse 0x20 (seqOf cells) 7 noOffset 0))
    ∧ (∀ c : Collection, s.takes .collectionState cells [(0x22, 14, 0xFF)] = true → s.coll? (field (msgBytes cells) 0x20 2) = some c →
      field (msgBytes cells) 0x20 2 ≤ 0xFFF →
      exec (.collectionState cells host) s =
        .next (((s.takeMessage .collectionState cells).draw 1).reply 0x22 (seqOf cells) (s.collBody c)))
    ∧ (∀ c : Collection, s.takes .collectionDrop cells [(0x22, 14, 0xFF)] = true → s.coll? (field (msgBytes cells) 0x20 2) = some c →
      field (msgBytes cells) 0x20 2 ≤ 0xFFF → c.load ≠ .dropping →
      exec (.collectionDrop cells host) s = .next ((s.takeMessage .collectionDrop cells).beginDrop (field (msgBytes cells) 0x20 2)
          (some (seqOf cells)))
        ∧ (s.rings.cmds = [] → (s.takeMessage .collectionDrop cells).beginDrop (field (msgBytes cells) 0x20 2) (some (seqOf cells)) =
          (s.takeMessage .collectionDrop cells).updColl (field (msgBytes cells) 0x20 2) fun c =>
            { c with load := .dropping, dropMsg := some (seqOf cells) }))
    ∧ (∀ (coll : Nat) (c : Collection), s.coll? coll = some c → c.load = .dropping → s.collBusy coll = false → s.compUp Component.store0 = true →
      c.destroying = [] → c.upkeep = [] → s.store.formatting = none →
      exec (.collectionDropComplete coll) s = .next (({ s with
        colls := s.colls.filter fun x => x.cid != coll
        store.journal := s.store.journal.filter fun j => j.coll != coll
        group.moves := s.group.moves.filter fun x => x.coll != coll }.freeRegions).replyLater 0x21 c.dropMsg []))
    ∧ (∀ (coll : Nat) (c : Collection), s.coll? coll = some c → c.load = .loading → (∀ x ∈ s.colls, x.load = .loading → coll ≤ x.cid) →
      s.regs.ready = true → s.compUp Component.store0 = true →
      exec (.collectionLoadEnd coll) s = .next ((s.updColl coll fun _ => { c.restored with load := .loaded, permille := 1000 }).layout.send
        ⟨0x22, 0, 0, 2, s.collBody { c.restored with load := .loaded, permille := 1000 }⟩))
    ∧ (∀ (coll : Nat) (c : Collection), s.coll? coll = some c → c.copyBack = true →
      exec (.routeGraphCopyBackDone coll) s = .next ({ s with
        mem.poison := c.graphRanges.foldl (fun p (r : Nat × Nat) => cleanPoison p r.1 (roundUp r.2 32)) s.mem.poison }.updColl coll fun c =>
          { c with copyBack := false }))

/-- An UPKEEP that this module takes for one of its loaded collections: kinds 0, 1, 2 and 4 put a job into the collection's upkeep,
not yet begun, and kind 3 opens a move of its partition under the next epoch, here or, by an order, at the partition's holder. -/
def Obligations.UpkeepMessagesAct : Prop :=
  ∀ (s u : State) (cells : Bytes) (host : HostImage) (c : Collection), s.takes .upkeep cells [(0x3A, 6, 0xFF)] = true →
    upkeepFields (msgBytes cells) = none → s.coll? (field (msgBytes cells) 0x20 2) = some c → c.load = .loaded → c.home = s.group.index →
    u = s.takeMessage .upkeep cells →
    (byteAt (msgBytes cells) 0x22 = 0 → exec (.upkeepCentroidRetraining cells host) s = .next (u.startJob c.cid
        (c.newJob .centroids (field (msgBytes cells) 0x28 8) (field (msgBytes cells) 0x30 8) (byteAt (msgBytes cells) 0x23) (some (seqOf cells)))))
    ∧ (byteAt (msgBytes cells) 0x22 = 1 → c.pq = true → c.presentSlots * c.slotSize ≤ s.freeT1 →
      exec (.upkeepQuantiserTraining cells host) s = .next (u.startJob c.cid
        (c.newJob .quantiser (field (msgBytes cells) 0x28 8) (field (msgBytes cells) 0x30 8) (byteAt (msgBytes cells) 0x23) (some (seqOf cells)))))
    ∧ (byteAt (msgBytes cells) 0x22 = 2 → (c.named? (field (msgBytes cells) 0x24 4)).isSome = true →
      exec (.upkeepRebuild cells host) s = .next (u.startJob c.cid
        (c.rebuildJob [field (msgBytes cells) 0x24 4] (some (seqOf cells)))))
    ∧ (∀ r : Partition, byteAt (msgBytes cells) 0x22 = 3 → c.named? (field (msgBytes cells) 0x24 4) = some r →
      field (msgBytes cells) 0x38 2 < s.group.size → field (msgBytes cells) 0x38 2 ≠ r.holder →
      (s.group.moves.any fun x => x.coll == c.cid && x.part == field (msgBytes cells) 0x24 4) = false →
      (r.holder = s.group.index → exec (.upkeepPartitionMove cells host) s = .next
        (u.openEpoch c.cid (field (msgBytes cells) 0x24 4) (r.epoch + 1) (field (msgBytes cells) 0x38 2) (some (seqOf cells))))
      ∧ (∀ x : MoveOp, r.holder ≠ s.group.index →
        x = { coll := c.cid, part := field (msgBytes cells) 0x24 4, epoch := r.epoch + 1, src := r.holder, dst := field (msgBytes cells) 0x38 2
              opens := 2 ^ 64 - 1, bothAt := none, closes := none, copied := false, drain := 0, msg := some (seqOf cells), sent := false
              came := false } →
        exec (.upkeepPartitionMove cells host) s = .next ({ u with group.moves := s.group.moves ++ [x] }.launch 3 r.holder 0 0
          (.index 3 [field (msgBytes cells) 0x24 4, r.epoch + 1, field (msgBytes cells) 0x38 2]
            (c.wire (s.floor c) (fun _ => false) fun _ => false)))))
    ∧ (∀ (l : List Nat) (k : Nat), byteAt (msgBytes cells) 0x22 = 4 → (c.named? (field (msgBytes cells) 0x24 4)).isSome = true →
      c.rebalances (field (msgBytes cells) 0x24 4) = some (l, k) → (c.upkeep.any fun u => u.kind == .rebalance) = false →
      exec (.upkeepRebalance cells host) s = .next (u.startJob c.cid
        (c.rebalanceJob s.free (field (msgBytes cells) 0x24 4) l k (some (seqOf cells)))))

/-- Upkeep work: a compaction of the partition that is due, a rebalance that the policy starts, one iteration of a job, and the
publication of a finished job's generation, which takes the collection's next sequence, writes again what is not committed, lays the
generation out and, in a group, sends it to the other modules. -/
def Obligations.UpkeepWorkAdvances : Prop :=
  ∀ (s : State) (coll : Nat) (c : Collection), s.coll? coll = some c → c.load = .loaded → s.power.applied = 0 → s.regs.shelter = false →
    (∀ part : Nat, c.nextCompaction = some part → s.namedSegment c (s.compacted c part) = false →
      exec (.compaction coll part) s = .next ((s.updColl coll fun _ => s.compacted c part).layout.noteEligible coll))
    ∧ (∀ (part : Nat) (l : List Nat) (k : Nat), c.rebalances part = some (l, k) → (∀ u ∈ c.upkeep, u.kind ≠ .rebalance) → c.home = s.group.index →
      exec (.rebalanceStart coll part) s = .next (s.startJob coll (c.rebalanceJob s.free part l k none)))
    ∧ (∀ (job : Nat) (u : Upkeep), c.job? job = some u → u.done < u.iterations → u.paused = false → s.upkeepWindow = true →
      (u.kind = .centroids ∨ u.kind = .quantiser ∨ u.kind = .rebalance) →
      exec (.clusteringIteration coll job) s = .next (s.updColl coll fun c => { c with upkeep := c.upkeep.modify job c.iterate }))
    ∧ (∀ (job : Nat) (u : Upkeep) (t v : State), c.job? job = some u → u.done = u.iterations → u.paused = false → u.kind ≠ .partitionMove →
      s.upkeepWindow = true → (s.rings.cmds.any fun x => x.hdr.collection == coll && (x.mutation?.any fun y => y.closing || y.out)) = false →
      c.latest < 0xFFFFFFFFFFFFFFFE → s.compUp Component.store0 = true →
      t = { s.updColl coll (fun c => { c.publish u s.clock.groupTime with upkeep := c.upkeep.eraseIdx job }) with
        store.journal := s.store.journal ++ [{ mutationId := 0, coll, tag := 0, ring := 0, kind := 3, atomic := true, last := true, batch := 0
                                               index := 0, first := 0, count := 0, gen := c.lastGen + 1, seq := c.latest + 1, onMedium := true
                                               crcGood := true, sectors := 1, entries := [], done := true }] } →
      v = (c.rebuiltStacks u).foldl State.endStack ((t.redoAll coll).layout.sendRecord coll) →
      exec (.generationPublish coll job) s = .next ((if v.groupMember = true
        then v.announce 0x0A (toLe 2 coll ++ zeros 6 ++ toLe 8 (c.latest + 1)) else v).replyLater 0x23 u.msg (toLe 8 (c.latest + 1))))

/-- KEY_IMPORT under an import key that the device holds adds the key that its plaintext gives, the collection's first as its root key,
or is refused with the code of the first failed check; KEY_DESTROY of keys that nothing keeps removes them, and of others withdraws
them until KEY_DESTROY_COMPLETE. -/
def Obligations.KeyMessagesAct : Prop :=
  ∀ (s : State) (cells : Bytes) (host : HostImage) (c : Collection),
    (s.takes .keyImport cells [(0x22, 2, 0xFF), (0xC9, 7, 0xFF)] = true → s.coll? (field (msgBytes cells) 0x20 2) = some c →
      (s.keys.imports.any fun k => k.kid == field (msgBytes cells) 0x24 4) = true →
      exec (.keyImport cells host) s = .next (match s.unwrap (msgBytes cells) with
        | none => (s.takeMessage .keyImport cells).refuse 0x30 (seqOf cells) 5 0x28 3
        | some p => match s.importFault (msgBytes cells) (some p) with
          | some e => (s.takeMessage .keyImport cells).refuse 0x30 (seqOf cells) e.1 e.2.1 e.2.2
          | none => ((s.takeMessage .keyImport cells).updColl (field (msgBytes cells) 0x20 2) fun c => c.addKey p).reply
              0x30 (seqOf cells) (toLe 4 (field p 4 4) ++ toLe 1 ((!c.everKey).toNat + 2 * (byteAt p 1 % 2)) ++ zeros 11)))
    ∧ (∀ k : CollKey, s.takes .keyDestroy cells [(0x22, 1, 0xFE), (0x23, 1, 0xFF), (0x28, 8, 0xFF)] = true → byteAt (msgBytes cells) 0x22 = 0 →
      s.coll? (field (msgBytes cells) 0x20 2) = some c → c.key? (field (msgBytes cells) 0x24 4) = some k → k.root = false ∨ c.keys = [k] →
      exec (.keyDestroy cells host) s = .next ((s.takeMessage .keyDestroy cells).destroyKeys (field (msgBytes cells) 0x20 2) (seqOf cells)
        [field (msgBytes cells) 0x24 4]))
    ∧ (s.takes .keyDestroy cells [(0x22, 1, 0xFE), (0x23, 1, 0xFF), (0x28, 8, 0xFF), (0x24, 4, 0xFF)] = true → byteAt (msgBytes cells) 0x22 = 1 →
      s.coll? (field (msgBytes cells) 0x20 2) = some c →
      exec (.keyDestroy cells host) s = .next ((s.takeMessage .keyDestroy cells).destroyKeys (field (msgBytes cells) 0x20 2) (seqOf cells)
        (c.keys.map (·.keyId))))
    ∧ (∀ (coll seq : Nat) (l : List Nat), s.coll? coll = some c →
      (s.rings.cmds = [] → s.group.requests = [] → s.destroyKeys coll seq l =
        ((s.updColl coll fun c => c.withdraw l).updColl coll fun c => c.zeroKeys l).reply 0x31 seq [])
      ∧ (s.keysInUse (c.withdraw l) l = true → s.destroyKeys coll seq l =
        (s.updColl coll fun c => c.withdraw l).updColl coll fun c => { c with destroying := c.destroying ++ [(seq, l)] }))
    ∧ (∀ (coll : Nat) (d : Nat × List Nat), s.coll? coll = some c → (c.destroying.find? fun d => !s.keysInUse c d.2) = some d → s.fw.gatehouse = .up →
      exec (.keyDestroyComplete coll) s = .next ((s.updColl coll fun c =>
        { c.zeroKeys d.2 with destroying := c.destroying.filter fun x => x != d }).replyLater 0x31 (some d.1) []))

/-- ATTEST of kind 0 answers with the signed quote, which names the import key that it is asked for or a new one, and writes the
measurement log into its buffer where one is given; of kind 1 with the certificate chain; a request for this module and start-up whose
signature holds opens a service session with its duration, an entry in the measurement log and the import keys destroyed, and one whose
signature fails is refused; a session ends when closed or expired. -/
def Obligations.AttestAndSessionsAct : Prop :=
  ∀ (s t : State) (cells : Bytes) (host : HostImage),
    (∀ ident : Bytes, s.takes .attest cells (attestReserved (msgBytes cells)) = true → byteAt (msgBytes cells) 0x20 = 0 →
      s.attestFields (msgBytes cells) = none → s.identity? = some ident → t = s.takeMessage .attest cells →
      (byteAt (msgBytes cells) 0x21 = 0 → field (msgBytes cells) 0x48 8 = 0 →
        (field (msgBytes cells) 0x24 4 = 0xFFFFFFFF → (∀ k ∈ s.keys.imports, k.kid ≠ 0xFFFFFFFF) →
          exec (.attestQuote cells host) s = .next (t.reply 0x32 (seqOf cells) (s.quote (slice (msgBytes cells) 0x28 32) none ident)))
        ∧ (∀ key : ImportKey, s.keys.imports.find? (fun k => k.kid == field (msgBytes cells) 0x24 4) = some key →
          exec (.attestQuote cells host) s = .next (t.reply 0x32 (seqOf cells) (s.quote (slice (msgBytes cells) 0x28 32) (some key) ident))))
      ∧ (byteAt (msgBytes cells) 0x21 = 0 → field (msgBytes cells) 0x48 8 ≠ 0 → field (msgBytes cells) 0x24 4 = 0xFFFFFFFF →
        (∀ k ∈ s.keys.imports, k.kid ≠ 0xFFFFFFFF) →
        exec (.attestQuote cells host) s = .next ((t.hostWrite (field (msgBytes cells) 0x48 8) (logBytes s.keys.log).flatten).reply 0x32 (seqOf cells)
          (s.quote (slice (msgBytes cells) 0x28 32) none ident)))
      ∧ (byteAt (msgBytes cells) 0x21 = 1 → field (msgBytes cells) 0x48 8 = 0 →
        exec (.attestQuote cells host) s = .next (t.newImport.reply 0x32 (seqOf cells)
          (t.newImport.quote (slice (msgBytes cells) 0x28 32) (some ⟨s.keys.nextImport, s.free⟩) ident))))
    ∧ (∀ (r : CfgRecord) (q : Nat) (body : Bytes), s.takes .attest cells (attestReserved (msgBytes cells)) = true → byteAt (msgBytes cells) 0x20 = 1 →
      s.attestFields (msgBytes cells) = none → s.record? 2 = some r → r.inForce = some (q, body) →
      exec (.attestCertificateChain cells host) s = .next (((s.takeMessage .attest cells).hostWrite (field (msgBytes cells) 0x48 8)
        ((Config.certChain body).take (field (msgBytes cells) 0x50 4))).reply 0x32 (seqOf cells)
          (toLe 4 ((Config.certChain body).take (field (msgBytes cells) 0x50 4)).length ++ zeros 12)))
    ∧ (s.takes .serviceSession cells (sessionReserved (msgBytes cells)) = true → byteAt (msgBytes cells) 0x20 = 0 →
      sessionFields (msgBytes cells) = none →
      (s.logFull = false → exec (.serviceSessionOpen cells host) s = .next (if s.sessionAllowed (msgBytes cells) = true
        then (({ s.takeMessage .serviceSession cells with
          keys := { s.keys with session := some (field (msgBytes cells) 0x24 4), imports := []
                                log := (s.appendLog ⟨7, 0, 0, Config.sm3 (slice (msgBytes cells) 0x20 0x60)⟩).keys.log } } : State).reply
            0x85 (seqOf cells) [])
        else (s.takeMessage .serviceSession cells).refuse 0x85 (seqOf cells) 9 (s.sessionOffset (msgBytes cells)) 0))
      ∧ (∀ e : LogEntry, s.keys.log.length < 510 → (s.appendLog e).keys.log = s.keys.log ++ [e])
      ∧ (s.sessionAllowed (msgBytes cells) = true ↔ field (msgBytes cells) 0x28 8 = s.keys.serial ∧ field (msgBytes cells) 0x30 4 = s.keys.bootCount
        ∧ Config.sm2Verify 1 (slice (msgBytes cells) 0x20 32) (slice (msgBytes cells) 0x40 64) = true))
    ∧ (s.takes .serviceSession cells (sessionReserved (msgBytes cells)) = true → byteAt (msgBytes cells) 0x20 = 1 →
      exec (.serviceSessionClose cells host) s = .next ({ s.takeMessage .serviceSession cells with keys.session := none }.reply 0x85 (seqOf cells) []))
    ∧ (s.keys.session.isSome = true → exec .serviceSessionExpiry s = .next { s with keys.session := none })

/-- CONFIG_RECORD writes an operator's record under the next seq into the copy that is not in force, and reads the copy in force back
into the buffer. -/
def Obligations.ConfigRecordsAct : Prop :=
  ∀ (s : State) (cells : Bytes) (host : HostImage), s.takes .configRecord cells [(0x21, 1, 0xFF), (0x30, 16, 0xFF)] = true →
    cfgFields (msgBytes cells) = none →
    (∀ (q : Nat) (b : Bytes), byteAt (msgBytes cells) 0x20 = 0 → s.copyInForce (field (msgBytes cells) 0x22 2) = some (q, b) →
      b.length ≤ field (msgBytes cells) 0x2C 4 →
      exec (.configRecordRead cells host) s = .next ((((s.takeMessage .configRecord cells).hostWrite (field (msgBytes cells) 0x24 8) b).draw 3).reply
        0x84 (seqOf cells) (toLe 8 q ++ toLe 4 (b.length - 128) ++ zeros 4)))
    ∧ (∀ (r : CfgRecord) (q : Nat) (b : Bytes), byteAt (msgBytes cells) 0x20 = 1 → operatorRecords.contains (field (msgBytes cells) 0x22 2) = true →
      s.cfgWriteFault (field (msgBytes cells) 0x22 2) (hostRead host (field (msgBytes cells) 0x24 8) (field (msgBytes cells) 0x2C 4)) = none →
      s.record? (field (msgBytes cells) 0x22 2) = some r → r.inForce = some (q, b) →
      exec (.configRecordWrite cells host) s = .next ({ s.takeMessage .configRecord cells with
          fw.records := s.fw.records.map fun (x : CfgRecord) => if x.num = field (msgBytes cells) 0x22 2 then
            x.write (q + 1) ((hostRead host (field (msgBytes cells) 0x24 8) (field (msgBytes cells) 0x2C 4)).drop 128) else x }.reply 0x84 (seqOf cells)
        (toLe 8 (q + 1) ++ toLe 4 (field (msgBytes cells) 0x2C 4 - 128) ++ zeros 4)))

/-- A configuration record written: the copy in force is the one just written, under its seq, whichever copies were valid before, and
the copy that was in force is still there. -/
def Obligations.WrittenRecordIsInForce : Prop :=
  ∀ (r : CfgRecord) (q seq : Nat) (old body : Bytes), r.inForce = some (q, old) → q < seq →
    (r.validA = true → r.validB = true → r.seqA ≠ r.seqB) →
    (r.write seq body).inForce = some (seq, body)
      ∧ (((r.write seq body).validA = true ∧ (r.write seq body).seqA = q ∧ (r.write seq body).bodyA = old)
        ∨ ((r.write seq body).validB = true ∧ (r.write seq body).seqB = q ∧ (r.write seq body).bodyB = old))

/-- FW_STAGE of an image that verifies stages it, and of another empties the staged slot with REFUSED_SIGNATURE; FW_ACTIVATE of
scope 0 begins an activation and destroys the import keys, and of scope 1 arranges for the next start-up and answers. The component
whose turn it is restarts on the new image, at once where it owns no work and else after 1 s. -/
def Obligations.FirmwareMessagesAct : Prop :=
  ∀ (s : State) (cells : Bytes) (host : HostImage),
    (s.takes .fwStage cells [(0x30, 16, 0xFF)] = true →
      field (msgBytes cells) 0x20 8 + field (msgBytes cells) 0x28 8 ≤ 2 ^ 47 → field (msgBytes cells) 0x28 8 ≤ 67108864 →
      exec (.fwStage cells host) s = .next (
        match Config.fwImage s.fw.running (hostRead host (field (msgBytes cells) 0x20 8) (field (msgBytes cells) 0x28 8)) with
        | some x => ({ s.takeMessage .fwStage cells with fw.staged := some x } : State).reply 0x40 (seqOf cells)
            (toLe 4 x.1 ++ toLe 1 (inTable x.2.1 s.tether.stackId s.tether.stackVer).toNat ++ zeros 11)
        | none => ({ s.takeMessage .fwStage cells with fw.staged := none } : State).refuse 0x40 (seqOf cells) 9 0xFFFFFFFF 0))
    ∧ (s.takes .fwActivate cells [(0x21, 1, 0xFE), (0x22, 14, 0xFF)] = true → byteAt (msgBytes cells) 0x20 = 0 →
      s.activateFault (msgBytes cells) = none → s.fw.activating = none → s.keys.log.length < 511 →
      exec (.fwActivateNow cells host) s = .next { s.takeMessage .fwActivate cells with
        fw.activating := some (seqOf cells), keys.imports := [] })
    ∧ (∀ x : Nat × List (Nat × Nat × Nat) × Bool, s.takes .fwActivate cells [(0x21, 1, 0xFE), (0x22, 14, 0xFF)] = true →
      byteAt (msgBytes cells) 0x20 = 1 → s.activateFault (msgBytes cells) = none → s.fw.staged = some x →
      exec (.fwActivateAtReset cells host) s = .next ({ s.takeMessage .fwActivate cells with fw.atReset := true }.reply 0x41 (seqOf cells)
        (toLe 4 x.1 ++ zeros 12)))
    ∧ (∀ comp < 9, s.moving = some comp → s.compUp comp = true → s.fw.lodge = .up →
      (s.busy comp = false → exec (.componentImageSwitch comp) s = .next ((s.undo comp).restartOn comp))
      ∧ (s.busy comp = true → exec (.componentMoveTimeout comp) s = .next ((s.stopComponent comp).restartOn comp))
      ∧ ∀ t : State, t.fw.comps.length = 9 → (t.restartOn comp).compUp comp = false ∧ (t.restartOn comp).fw.activating = t.fw.activating)

/-- PROGRAM_LOAD gives the image the next handle and answers with it and its status block, or is refused where 1,024 programs are loaded
or T1 has no room; PROGRAM_UNLOAD of a program that neither runs nor is bound removes it, and TIMETABLE_LOAD stages its image and, where
it proposes, proposes a switch; a switch that meets a refusal by its deadline is aborted. -/
def Obligations.ProgramAndTimetableMessagesAct : Prop :=
  ∀ (s u : State) (cells image : Bytes) (host : HostImage),
    (s.takes .programLoad cells [(0x32, 1, 0xFE), (0x33, 13, 0xFF)] = true →
      field (msgBytes cells) 0x20 8 + field (msgBytes cells) 0x28 8 ≤ 2 ^ 47 →
      field (msgBytes cells) 0x30 2 = 0xFFFF ∨ (field (msgBytes cells) 0x30 2 ≤ 0xFFF ∧ (s.usable (field (msgBytes cells) 0x30 2)).isSome = true) →
      image = hostRead host (field (msgBytes cells) 0x20 8) (field (msgBytes cells) 0x28 8) → imageBad image = false →
      u = s.takeMessage .programLoad cells →
      (∀ (t : State) (p : Program), s.comp.programs.length < 1024 →
        u.loadImage image (field (msgBytes cells) 0x30 2) (byteAt (msgBytes cells) 0x32 % 2 == 1) = some (t, p) →
        exec (.programLoad cells host) s = .next (t.reply 0x50 (seqOf cells) (toLe 4 p.handle ++ zeros 4 ++ toLe 8 p.status))
          ∧ t.comp.programs = s.comp.programs ++ [p] ∧ p.handle = s.comp.nextHandle ∧ t.comp.nextHandle = s.comp.nextHandle + 1
          ∧ t.comp.runs = s.comp.runs ∧ t.rings = s.rings)
      ∧ (1024 ≤ s.comp.programs.length
          ∨ u.loadImage image (field (msgBytes cells) 0x30 2) (byteAt (msgBytes cells) 0x32 % 2 == 1) = none →
        exec (.programLoad cells host) s = .next (u.refuse 0x50 (seqOf cells) 7 noOffset 0)))
    ∧ (∀ p : Program, s.takes .programUnload cells [(0x24, 12, 0xFF)] = true → s.program? (field (msgBytes cells) 0x20 4) = some p →
      (s.comp.runs.any fun r => r.handle == field (msgBytes cells) 0x20 4) = false → s.programBound p = false →
      u = { s.takeMessage .programUnload cells with
        comp.programs := s.comp.programs.filter fun q => q.handle != field (msgBytes cells) 0x20 4 } →
      exec (.programUnload cells host) s = .next (u.freeRegions.reply 0x51 (seqOf cells) []))
    ∧ (∀ x : Timetable, s.takes .timetableLoad cells [(0x2C, 1, 0xFE), (0x2D, 3, 0xFF)] = true →
      field (msgBytes cells) 0x20 8 + field (msgBytes cells) 0x28 4 ≤ 2 ^ 47 → field (msgBytes cells) 0x28 4 ≤ 67108864 →
      image = hostRead host (field (msgBytes cells) 0x20 8) (field (msgBytes cells) 0x28 4) → timetableBad image s.comp.out = false →
      x = readTimetable image → s.switching = false → (s.sw.refused.any fun x => s.clock.round < x.2) = false →
      u = { s.takeMessage .timetableLoad cells with staged := some x, sw.state := 1 } →
      (byteAt (msgBytes cells) 0x2C = 0 → exec (.timetableLoadStage cells host) s = .next (u.reply 0x60 (seqOf cells) (toLe 8 x.ident ++ toLe 8 0)))
      ∧ (byteAt (msgBytes cells) 0x2C = 1 → (s.groupMember = true ∧ s.group.leader = s.group.index) ∨ (s.groupMember = false ∧ x.size = s.group.size) →
        exec (.timetableLoadPropose cells host) s = .next (u.propose (some (seqOf cells)))
          ∧ (u.propose (some (seqOf cells))).sw.state = 2 ∧ (u.propose (some (seqOf cells))).sw.leading = true
          ∧ (u.propose (some (seqOf cells))).sw.proposal = s.clock.round + 1 ∧ s.clock.round + 1 ≤ (u.propose (some (seqOf cells))).sw.atRound
          ∧ (u.propose (some (seqOf cells))).sw.msg = some (seqOf cells) ∧ (u.propose (some (seqOf cells))).active = s.active))
    ∧ (s.sw.leading = true → s.switching = true → s.group.joining = none → s.sw.proposal + 2 * s.active.hops + 1 ≤ s.clock.round →
      s.clock.round < s.sw.atRound → s.sw.refusals ≠ [] ∨ s.unanswered ≠ [] →
      exec .switchAbortDeadline s = .next ((s.line 0x07 (toLe 8 s.sw.ident)).abortSwitch)
        ∧ ((s.line 0x07 (toLe 8 s.sw.ident)).abortSwitch).sw.state = 1 ∧ ((s.line 0x07 (toLe 8 s.sw.ident)).abortSwitch).sw.leading = false
        ∧ ((s.line 0x07 (toLe 8 s.sw.ident)).abortSwitch).staged = s.staged
        ∧ ((s.line 0x07 (toLe 8 s.sw.ident)).abortSwitch).active = s.active)

/-- GROUP_JOIN begins the forming of a group, LEND_MEMORY offers zeroed regions, asks for a loan or sets a loan's last round; a report of
a module's ports counts, a group that does not form in time is given up, and a window whose last round has come is closed. -/
def Obligations.GroupMessagesAct : Prop :=
  ∀ (s u : State) (cells : Bytes) (host : HostImage),
    ((∀ i < 8, (mapEntry (msgBytes cells) i).2.2 = 1 →
        (mapEntry (msgBytes cells) i).1 < field (msgBytes cells) 0x28 2 ∧ (mapEntry (msgBytes cells) i).2.1 ≤ 7) →
      s.takes .groupJoin cells ((0x2E, 2, 0xFF) :: (List.range 8).flatMap fun i => (0x33 + 4 * i, 1, 0xFE)
        :: (if (mapEntry (msgBytes cells) i).2.2 = 0 then [(0x30 + 4 * i, 3, 0xFF)] else [])) = true →
      2 ≤ field (msgBytes cells) 0x28 2 → field (msgBytes cells) 0x28 2 ≤ 512 → field (msgBytes cells) 0x2A 2 < field (msgBytes cells) 0x28 2 →
      field (msgBytes cells) 0x2C 2 < field (msgBytes cells) 0x28 2 → s.groupMember = false → s.group.joining = none →
      (s.staged.any fun t => t.size == field (msgBytes cells) 0x28 2 && !t.single) = true → s.switching = false →
      ∃ t, exec (.groupJoin cells host) s = .next t ∧ t.group.joining = some (seqOf cells) ∧ t.group.joinSize = field (msgBytes cells) 0x28 2
        ∧ t.group.joinIndex = field (msgBytes cells) 0x2A 2 ∧ t.group.joinLeader = field (msgBytes cells) 0x2C 2
        ∧ t.group.ident = field (msgBytes cells) 0x20 8 ∧ t.group.size = s.group.size ∧ t.group.measured = []
        ∧ (∀ i < 8, i < s.ports.length → (t.port i).used = ((mapEntry (msgBytes cells) i).2.2 == 1)
          ∧ (t.port i).enabled = ((mapEntry (msgBytes cells) i).2.2 == 1) ∧ (t.port i).farModule = (mapEntry (msgBytes cells) i).1
          ∧ (t.port i).farPort = (mapEntry (msgBytes cells) i).2.1)
        ∧ t = { s.takeMessage .groupJoin cells with group := t.group, ports := t.ports, cages := t.cages })
    ∧ (∀ (v : State) (r : Nat), byteAt (msgBytes cells) 0x20 = 0 → s.takes .lendMemory cells [(0x26, 10, 0xFF), (0x21, 1, 0xFF)] = true →
      0 < field (msgBytes cells) 0x22 2 → field (msgBytes cells) 0x22 2 ≤ 256 → s.groupMember = true → field (msgBytes cells) 0x24 2 < s.group.size →
      field (msgBytes cells) 0x24 2 ≠ s.group.index → u = s.takeMessage .lendMemory cells → s.lentGib + field (msgBytes cells) 0x22 2 ≤ 256 →
      u.freeRun (field (msgBytes cells) 0x22 2) = some r → State.openRun (field (msgBytes cells) 0x22 2) r u = some v →
      exec (.lendMemoryOffer cells host) s = .next ({ v.zeroRegions ((List.range (field (msgBytes cells) 0x22 2)).map (r + ·)) with
        mem.offers := v.mem.offers ++ [(field (msgBytes cells) 0x22 2, field (msgBytes cells) 0x24 2,
          (List.range (field (msgBytes cells) 0x22 2)).map (r + ·))] }.reply 0x62 (seqOf cells) (zeros 16)))
    ∧ (∀ x : Loan, byteAt (msgBytes cells) 0x20 = 1 → s.takes .lendMemory cells [(0x26, 10, 0xFF)] = true → byteAt (msgBytes cells) 0x21 ≤ 15 →
      0 < field (msgBytes cells) 0x22 2 → s.groupMember = true → field (msgBytes cells) 0x24 2 < s.group.size →
      field (msgBytes cells) 0x24 2 ≠ s.group.index → s.borrowedGib + field (msgBytes cells) 0x22 2 ≤ 256 →
      (s.mem.loans.any fun l => l.borrow && l.window == byteAt (msgBytes cells) 0x21) = false →
      x = { window := byteAt (msgBytes cells) 0x21, gib := field (msgBytes cells) 0x22 2, peer := field (msgBytes cells) 0x24 2, borrow := true
            opened := false, start := none, stop := none, msg := some (seqOf cells), regions := [] } →
      exec (.lendMemoryBorrow cells host) s = .next ({ s.takeMessage .lendMemory cells with mem.loans := s.mem.loans ++ [x] }.announce 0x0E
        (toLe 1 0 ++ toLe 1 x.window ++ toLe 2 x.gib ++ toLe 2 x.peer)))
    ∧ (∀ l : Loan, byteAt (msgBytes cells) 0x20 = 2 → s.takes .lendMemory cells [(0x26, 10, 0xFF), (0x22, 2, 0xFF)] = true →
      byteAt (msgBytes cells) 0x21 ≤ 15 → s.groupMember = true → field (msgBytes cells) 0x24 2 < s.group.size →
      field (msgBytes cells) 0x24 2 ≠ s.group.index → s.mem.loans = [l] → l.window = byteAt (msgBytes cells) 0x21 → l.peer = field (msgBytes cells) 0x24 2 →
      exec (.lendMemoryEnd cells host) s = .next (({ s.takeMessage .lendMemory cells with
          mem.loans := [{ l with stop := some (s.clock.round + 1 + s.safeAt) }] }.announce 0x0E
            (toLe 1 2 ++ toLe 1 l.window ++ toLe 2 l.gib ++ toLe 2 l.peer ++ toLe 4 s.safeAt)).reply 0x62 (seqOf cells)
        (toLe 8 (if l.borrow then l.base else 0) ++ toLe 8 (s.clock.round + 1 + s.safeAt))))
    ∧ (∀ (port : Nat) (msg : Bytes), port < 8 → 2 ≤ s.portState port → s.group.joining.isSome = true → s.group.joinLeader = s.group.joinIndex →
      msg.length = 32 → field msg 2 2 < s.group.joinSize →
      u = { s with group.measured := field msg 2 2 :: s.group.measured.filter fun m => m != field msg 2 2 } →
        exec (.portsMeasuredReport port msg) s = .next (if u.allMeasured = true ∧ u.switching = false
            ∧ (∀ m < s.group.joinSize, m ≠ s.group.joinIndex → u.group.measured.contains m = true) then u.propose none else u))
    ∧ (∀ seq : Nat, s.group.joining = some seq → s.switching = false →
      exec .groupFormationTimeout s = .next ({ s with
        group.joining := none
        ports := s.ports.map fun (p : Port) => { p with state := 0, enabled := false, used := false, retry := false }
        cages := s.cages.map fun (c : Cage) => { c with txDisable := 255 } }.refuseLater 0x61 (some seq) 6 noOffset 0))
    ∧ (∀ (window : Nat) (l : Loan), s.mem.loans = [l] → l.window = window → (l.stop.any fun r => r ≤ s.clock.round) = true →
      ∃ t, exec (.lendWindowClose window) s = .next t ∧ t.mem.loans = []
        ∧ (l.borrow = true → s.memoriesWf = true → ∀ a : Nat, l.base ≤ a → a < l.base + l.gib * 2 ^ 30 → Mem.get t.mem.t2 a = 0)
        ∧ (l.borrow = false → t.mem.t2 = s.mem.t2))

/-- POWER_CAP, which with 0 W sets no cap, waits for the next ledger loop; SELFTEST starts, aborts and reports runs, of which one is under
way at a time, and a run that ends notes its outcome, marks what failed and queues its record. -/
def Obligations.PowerCapAndSelftestAct : Prop :=
  ∀ (s u : State) (cells : Bytes) (host : HostImage),
    (s.takes .powerCap cells [(0x22, 1, 0xFE), (0x23, 13, 0xFF)] = true →
      field (msgBytes cells) 0x20 2 = 0
        ∨ (250 ≤ field (msgBytes cells) 0x20 2 ∧ field (msgBytes cells) 0x20 2 ≤ 600 ∧ field (msgBytes cells) 0x20 2 % 25 = 0) →
      exec (.powerCap cells host) s = .next { s.takeMessage .powerCap cells with
        power.capNext := if field (msgBytes cells) 0x20 2 = 0 then s.power.capNext else some (field (msgBytes cells) 0x20 2)
        power.capMsgs := s.power.capMsgs ++ [(seqOf cells, byteAt (msgBytes cells) 0x22 % 2 == 1)] })
    ∧ (∀ kind ≤ 1, byteAt (msgBytes cells) 0x20 = kind →
      (byteAt (msgBytes cells) 0x21 = 0 → s.takes (.selftest s kind 0) cells [(0x22, 14, 0xFF)] = true →
        (s.fw.selftest.1 ≠ 1 → exec (.selftestStart cells host) s =
          .next ({ s.takeMessage (.selftest s kind 0) cells with fw.selftest := (1, kind, 0, 0) }.selftestReply (seqOf cells)))
        ∧ (s.fw.selftest.1 = 1 → exec (.selftestStart cells host) s =
          .next ((s.takeMessage (.selftest s kind 0) cells).refuse 0x71 (seqOf cells) 6 noOffset 0)))
      ∧ (byteAt (msgBytes cells) 0x21 = 1 → s.takes (.selftest s kind 1) cells [(0x22, 14, 0xFF)] = true →
        u = s.takeMessage (.selftest s kind 1) cells →
        (s.fw.selftest.1 = 1 → exec (.selftestAbort cells host) s = .next ({ u.releaseTests with
            fw.selftest := (4, s.fw.selftest.2.1, Config.freeNat s.free % 1001, Config.freeNat (s.free + 1) % 2 ^ 32)
            free := s.free + 2 }.selftestReply (seqOf cells)))
        ∧ (s.fw.selftest.1 ≠ 1 → exec (.selftestAbort cells host) s = .next (u.selftestReply (seqOf cells))))
      ∧ (byteAt (msgBytes cells) 0x21 = 2 → s.takes (.selftest s kind 2) cells [(0x22, 14, 0xFF)] = true →
        exec (.selftestStatus cells host) s = .next ((s.takeMessage (.selftest s kind 2) cells).selftestReply (seqOf cells))))
    ∧ (∀ seq : Nat, s.selftestReply seq = (s.draw 3).reply 0x71 seq s.selftestBody)
    ∧ (s.fw.selftest.1 = 1 → s.fw.lodge = .up → s.comp.testAgain = [] →
      (exec (.selftestEnd [] [] [] 0) s = .next (s.settled ({ s.releaseTests with
        fw.selftest := (2, s.fw.selftest.2.1, 1000, 0) }.record { code := 0x0051, severity := 0 })))
      ∧ (∀ (cores : List (Nat × Nat)) (others : Nat), (∀ c ∈ cores, c.1 < 64 ∧ c.2 < 68) → 0 < cores.length + others →
        exec (.selftestEnd cores [] [] others) s = .next (s.settled ({
          (cores.foldl (fun (s : State) (c : Nat × Nat) => s.markFailing c.1 c.2) s).releaseTests with
          fw.selftest := (3, s.fw.selftest.2.1, 1000, (cores.length + others) % 2 ^ 32) }.record { code := 0x0051, severity := 2 }))))

/-- FORMAT in place begins a conversion that its end completes; FORMAT without collections takes the new format and index area under new
media keys with an empty journal and, where it erases, an empty host area; over collections it is refused, or where it erases it drops
them first; SANITIZE leaves no collection, key or stored byte at once, and is refused where no sealing key can be derived,
and its end leaves HBM zero under new media keys. -/
def Obligations.FormatAndSanitizeAct : Prop :=
  ∀ (s u : State) (cells : Bytes) (host : HostImage),
    (s.store.sanitise = none → s.store.converting = none → s.store.formatting = none →
      s.takes .format cells [(0x21, 1, 0xFC), (0x22, 2, 0xFF), (0x2C, 20, 0xFF)] = true →
      byteAt (msgBytes cells) 0x20 = 1 ∨ byteAt (msgBytes cells) 0x20 = 2 →
      (byteAt (msgBytes cells) 0x21 % 2 = 1 → field (msgBytes cells) 0x24 8 = 0 → s.store.format ≠ 0 → s.store.format ≠ byteAt (msgBytes cells) 0x20 →
        (byteAt (msgBytes cells) 0x20 = 1 → s.mappedSectors ≤ capacitySectors 1) →
        exec (.formatConvert cells host) s = .next { s.takeMessage .format cells with
          store.converting := some (byteAt (msgBytes cells) 0x20), store.convMsg := some (seqOf cells) })
      ∧ (byteAt (msgBytes cells) 0x21 % 2 = 0 → 62500000 ≤ field (msgBytes cells) 0x24 8 →
        field (msgBytes cells) 0x24 8 ≤ capacitySectors (byteAt (msgBytes cells) 0x20) →
        (u = { s.takeMessage .format cells with store.convMsg := some (seqOf cells) }) →
        (s.colls = [] → exec (.format cells host) s = .next (u.writeFormat ((byteAt (msgBytes cells) 0x21).testBit 1) (byteAt (msgBytes cells) 0x20)
            (field (msgBytes cells) 0x24 8)))
        ∧ (s.colls ≠ [] → byteAt (msgBytes cells) 0x21 = 0 →
          exec (.format cells host) s = .next ((s.takeMessage .format cells).refuse 0x80 (seqOf cells) 6 0xFFFFFFFF 0))
        ∧ (s.colls ≠ [] → byteAt (msgBytes cells) 0x21 = 2 → ∃ t, exec (.format cells host) s = .next t
          ∧ t.store.formatting = some (byteAt (msgBytes cells) 0x20, field (msgBytes cells) 0x24 8) ∧ t.store.format = s.store.format
          ∧ (∀ c ∈ t.colls, c.load = .dropping) ∧ t.colls.map (·.cid) = s.colls.map (·.cid))))
    ∧ (∀ (erase : Bool) (format index : Nat), (s.writeFormat erase format index).store.format = format
      ∧ (s.writeFormat erase format index).store.indexSectors = index ∧ (s.writeFormat erase format index).store.journal = []
      ∧ (erase = true → (s.writeFormat erase format index).store.host = [])
      ∧ (s.writeFormat erase format index).store.hostSectors = capacitySectors format - index
      ∧ (s.writeFormat erase format index).keys.media = some (s.free, s.free + 1) ∧ (s.writeFormat erase format index).mem = s.mem
      ∧ (s.writeFormat erase format index).colls = s.colls)
    ∧ (∀ f : Nat, s.store.converting = some f → s.regs.ready = true → s.storesUp = true →
      exec .formatConversionEnd s = .next ({ s with store.format := f, store.converting := none, store.convMsg := none }.replyLater 0x80
        s.store.convMsg []))
    ∧ (s.takes (.sanitize s) cells ([(0x21, 3, 0xFF), (0x28, 24, 0xFF)]
          ++ (if byteAt (msgBytes cells) 0x20 = 2 then [] else [(0x24, 4, 0xFF)])) = true → byteAt (msgBytes cells) 0x20 ≤ 2 → s.store.sanitise = none →
      u = s.takeMessage (.sanitize s) cells →
      (s.keys.seed = none → exec (.sanitize cells host) s = .next (u.refuse 0x81 (seqOf cells) 6 noOffset 0))
      ∧ (s.keys.seed ≠ none → ∃ t, exec (.sanitize cells host) s = .next t
        ∧ (t = u.cryptoErase (byteAt (msgBytes cells) 0x20) (if byteAt (msgBytes cells) 0x20 = 2 then field (msgBytes cells) 0x24 4 else 0) (seqOf cells))
        ∧ t.colls = [] ∧ t.keys.media = none ∧ t.keys.imports = [] ∧ t.store.host = [] ∧ t.store.journal = [] ∧ t.store.sanitise.isSome = true
        ∧ t.keys.generation = (s.keys.generation + 1) % 2 ^ 32))
    ∧ (∀ (mode phase pattern bad : Nat), s.store.sanitise = some (mode, phase, pattern) → s.regs.ready = true ∨ s.regs.shelter = true →
      s.storesUp = true → mode = 2 ∨ bad = 0 →
      u = { s with mem.hbm := [], mem.poison := [], keys.media := some (s.free, s.free + 1)
                   store := { s.store with sanitise := none, sanMsg := none, badBlocks := s.store.badBlocks + bad }, free := s.free + 3 } →
      (∀ seq : Nat, s.store.sanMsg = some seq →
        exec (.sanitizeEnd bad) s = .next (u.replyLater 0x81 (some seq) (s.draw 2).sanitizeBody))
      ∧ (s.store.sanMsg = none → exec (.sanitizeEnd bad) s = .next (u.send ⟨0x81, 0, 0, 3, (s.draw 2).sanitizeBody⟩)))

/-! ### Repair -/

/-- RETIRE_PAGE waits for the next round start, and the HBM_REPAIR actions within a service session report, begin to copy a run to
relief pages, begin a post-package repair, or begin to copy back. -/
def Obligations.RepairMessagesAct : Prop :=
  ∀ (s u : State) (cells : Bytes) (host : HostImage),
    (s.takes .retirePage cells [(0x24, 12, 0xFF)] = true → field (msgBytes cells) 0x20 2 ≤ 511 → field (msgBytes cells) 0x22 2 ≤ 32255 →
      s.mem.retired.contains (field (msgBytes cells) 0x20 2, field (msgBytes cells) 0x22 2) = false →
      (s.mem.retiring.any fun r => r.1 == field (msgBytes cells) 0x20 2 && r.2.1 == field (msgBytes cells) 0x22 2) = false →
      s.mem.retired.length + s.mem.retiring.length < 4096 → 0 < s.reliefFree (field (msgBytes cells) 0x20 2 / 64) →
      0 < s.entriesFree (field (msgBytes cells) 0x20 2 / 64) →
      exec (.retirePage cells host) s = .next { s.takeMessage .retirePage cells with
        mem.retiring := s.mem.retiring ++ [(field (msgBytes cells) 0x20 2, field (msgBytes cells) 0x22 2, seqOf cells)] })
    ∧ (s.keys.session.isSome = true → field (msgBytes cells) 0x22 2 ≤ 511 → u = s.takeMessage .hbmRepair cells →
      (byteAt (msgBytes cells) 0x20 = 0 →
        s.takes .hbmRepair cells [(0x2E, 18, 0xFF), (0x21, 1, 0xFF), (0x24, 4, 0xFF), (0x28, 4, 0xFF), (0x2C, 2, 0xFF)] = true →
        exec (.hbmRepairStatus cells host) s = .next (u.reply 0x83 (seqOf cells) (s.repairBody (field (msgBytes cells) 0x22 2) 0)))
      ∧ (0 < field (msgBytes cells) 0x26 2 → field (msgBytes cells) 0x26 2 ≤ 64 →
        field (msgBytes cells) 0x24 2 + field (msgBytes cells) 0x26 2 ≤ 32256 →
        (byteAt (msgBytes cells) 0x20 = 1 → s.takes .hbmRepair cells [(0x2E, 18, 0xFF), (0x28, 4, 0xFF), (0x2C, 2, 0xFF)] = true →
          exec (.hbmRepairLaneRemap cells host) s = .next (u.beginSplice (msgBytes cells) 1 (seqOf cells)))
        ∧ (byteAt (msgBytes cells) 0x20 = 2 → s.takes .hbmRepair cells [(0x2E, 18, 0xFF), (0x21, 1, 0xFF), (0x28, 4, 0xFF), (0x2C, 2, 0xFF)] = true →
          exec (.hbmRepairRowReplacement cells host) s = .next (u.beginSplice (msgBytes cells) 2 (seqOf cells)))
        ∧ (∀ (action num : Nat) (x : Splice), s.freeEntry (field (msgBytes cells) 0x22 2 / 64) = some num →
          0 < s.entriesFree (field (msgBytes cells) 0x22 2 / 64) → field (msgBytes cells) 0x26 2 ≤ s.reliefFree (field (msgBytes cells) 0x22 2 / 64) →
          (action = 1 → 0 < s.lanesLeft (field (msgBytes cells) 0x22 2)) →
          x = { num, stack := field (msgBytes cells) 0x22 2 / 64, channel := field (msgBytes cells) 0x22 2, first := field (msgBytes cells) 0x24 2
                pages := field (msgBytes cells) 0x26 2, state := 1, copied := 0, released := false, back := false, retire := false
                repair := action, ended := false, msg := some (seqOf cells), maint := 0, ppr := none } →
          u.beginSplice (msgBytes cells) action (seqOf cells) = { u with mem.splices := s.mem.splices ++ [x] }))
      ∧ (∀ x : Splice, field (msgBytes cells) 0x2C 2 ≤ 1023 → s.splice? (field (msgBytes cells) 0x22 2 / 64) (field (msgBytes cells) 0x2C 2) = some x →
        x.state = 3 → x.back = false →
        (byteAt (msgBytes cells) 0x20 = 3 → s.takes .hbmRepair cells [(0x2E, 18, 0xFF), (0x21, 1, 0xFF)] = true →
          0 < field (msgBytes cells) 0x26 2 → field (msgBytes cells) 0x26 2 ≤ 64 →
          field (msgBytes cells) 0x24 2 + field (msgBytes cells) 0x26 2 ≤ 32256 → x.channel = field (msgBytes cells) 0x22 2 → x.ppr = none →
          (s.mem.pprUsed.any fun u => u.1 == x.channel && Config.bankOf u.2 == Config.bankOf (field (msgBytes cells) 0x28 4)) = false →
          exec (.hbmRepairPostPackageRepair cells host) s = .next (
            if Config.rowInRun x.channel x.first x.pages (field (msgBytes cells) 0x28 4) = true then
              (u.updSplice x.stack x.num fun y => { y with
                ppr := some (field (msgBytes cells) 0x28 4), maint := 1 + Config.freeNat s.free % 64, ended := false, repair := 3
                msg := some (seqOf cells) }).draw 1
            else u.refuse 0x83 (seqOf cells) 6 0x2C 0))
        ∧ (byteAt (msgBytes cells) 0x20 = 4 → s.takes .hbmRepair cells [(0x2E, 18, 0xFF), (0x21, 1, 0xFF), (0x24, 4, 0xFF), (0x28, 4, 0xFF)] = true →
          x.retire = false → x.ended = true →
          exec (.hbmRepairRelease cells host) s = .next (u.updSplice x.stack x.num fun y =>
            { y with state := 1, back := true, copied := 0, msg := some (seqOf cells) }))))

/-- Repair in service: a maintenance slot serves each held pseudo-channel, a copy step where a run is copied to relief pages, and gives the
store its burst where both dies are awake; refresh pauses and resumes the passes of a pseudo-channel; the release of a remapped run uses
up a spare lane where it is a lane remap; cores that fail leave the enabled ones at the next round start, and the test of a spare puts it
in their place or finds it defective. -/
def Obligations.RepairWorkAdvances : Prop :=
  ∀ s : State,
    (∀ (held : List Nat) (u : State), s.regs.ready = true → (∀ c ∈ held, c < 512 ∧ s.mem.selfRefresh.contains (c / 64) = false) →
      (held.map fun c => c / 64).Nodup → held = [] ∨ s.compUp Component.memory = true →
      u = held.foldl State.holdStep { s with mem.held := held, mem.testHeld := [] } →
      exec (.maintenanceSlot held) s =
        .next (s.settled (if s.storesUp = true ∧ s.dieAsleep 0 = false ∧ s.dieAsleep 1 = false then u.housekeep else u)))
    ∧ (∀ (channel : Nat) (x : Splice), s.mem.splices.find? (fun x => x.channel == channel && x.state == 1) = some x →
      s.holdStep channel = s.updSplice x.stack x.num copyStep)
    ∧ (∀ channel < 512, (s.mem.refreshing.contains channel = false → exec (.pseudoChannelRefresh channel false) s = .next { s with
          mem.refreshing := s.mem.refreshing ++ [channel]
          comp.passes := s.comp.passes.map fun p => if p.lane = channel then { p with paused := true } else p })
      ∧ (s.mem.refreshing.contains channel = true → exec (.pseudoChannelRefresh channel true) s = .next { s with
          mem.refreshing := s.mem.refreshing.filter fun c => c != channel
          comp.passes := s.comp.passes.map fun p => if p.lane = channel then { p with paused := false } else p }))
    ∧ (∀ (stack entry : Nat) (x : Splice), s.splice? stack entry = some x → x.state = 3 → x.released = false → x.back = false →
      (s.comp.passes.any fun p => p.started && p.lane / 64 == stack && p.splices.contains entry) = false →
      (x.repair ≠ 1 → exec (.spliceOldRunRelease stack entry) s = .next (s.updSplice stack entry fun y => { y with released := true }))
      ∧ (x.repair = 1 → exec (.spliceOldRunRelease stack entry) s = .next { s.updSplice stack entry fun y => { y with released := true } with
          mem.lanesSpare := setAssoc s.mem.lanesSpare x.channel (assoc s.mem.lanesSpare x.channel + 1)
          mem.retraining := s.mem.retraining ++ [(x.channel, 0)] }))
    ∧ (∀ (cluster core : Nat), cluster < 64 → core < 68 →
      exec (.coreDatapathParity cluster core) s = .next (s.markFailing cluster core)
      ∧ ((s.enabledOf cluster).contains core = true → s.comp.defective.contains (cluster, core) = false →
        (s.comp.repairing.any fun r => r.1 == cluster && r.2.1 == core) = false →
        s.markFailing cluster core = { s with comp.repairing := s.comp.repairing ++ [(cluster, core, 0)] })
      ∧ (∀ (address : Nat) (u v : State),
        u = { s with errors.coreWords := setAssoc s.errors.coreWords (coreUnit cluster core) s.clock.groupTime }.record
          { code := 0x0018, severity := 1, unitKind := 6, unit := coreUnit cluster core, address } →
        (v = if (s.errors.coreWords.find? fun x => x.1 == coreUnit cluster core).any (fun x => s.clock.groupTime < x.2 + dayTicks) = true
          then u.markFailing cluster core else u) →
        exec (.coreMemoryUncorrectable cluster core address none) s = .next (s.settled (v.stopOn cluster))
        ∧ ∀ (cid member : Nat) (c : Cmd) (q : QueryWork), v.cmd? cid = some c → c.body = .query q → c.admitted = true →
          exec (.coreMemoryUncorrectable cluster core address (some (cid, member))) s = .next (s.settled (v.endMember cid member 8))))
    ∧ (∀ (cluster core spare : Nat) (u : State), s.comp.repairing.find? (fun r => r.1 == cluster && r.2.2 == 1) = some (cluster, core, 1) →
      (s.comp.runs.any fun x => x.teams.any fun t => t.2 == cluster) = false → spare < 68 → (s.enabledOf cluster).contains spare = false →
      s.comp.defective.contains (cluster, spare) = false →
      exec (.spareTestEnd cluster spare true) s = .next { s with
        comp.defective := s.comp.defective ++ [(cluster, core)]
        comp.enabled := s.comp.enabled.modify cluster fun l => sortNats (spare :: l.filter fun k => k != core)
        comp.repairing := updWhere (fun x => x == (cluster, core, 1)) (fun x => (x.1, x.2.1, 3)) s.comp.repairing }
      ∧ (u = { s with comp.defective := s.comp.defective ++ [(cluster, spare)] } →
        exec (.spareTestEnd cluster spare false) s = .next (if u.goodCores cluster < 64 then u.retireCluster cluster else u)))

/-- Reads that fail: each queues its record, a poisoned word is noted, a failing sector is marked for relocation, and the commands,
queries, runs and pages that were read are dealt with. A corrected word counts against its page, and at the 16th within 24 hours is
recorded. -/
def Obligations.ReadFailuresAreRecorded : Prop :=
  ∀ s : State,
    (∀ (channel page address : Nat), channel < 512 → s.liesOn channel page address = true →
      ((s.correctedTimes channel page).length < 16 → exec (.hbmCorrected channel page address) s = .next { s with
        errors.pages := (channel, page, s.correctedTimes channel page) :: s.errors.pages.filter fun p => !(p.1 == channel && p.2.1 == page) })
      ∧ (16 ≤ (s.correctedTimes channel page).length → exec (.hbmCorrected channel page address) s = .next (s.settled ({ s with
          errors.pages := s.errors.pages.filter fun p => !(p.1 == channel && p.2.1 == page) }.record
            { code := 0x0010, severity := 0, unitKind := 7, unit := channel, address })))
      ∧ exec (.hbmUncorrectable channel page address) s = .next (s.settled ((s.poison [address / 32 * 32]).record
          { code := 0x0011, severity := 1, unitKind := 7, unit := channel, address, page := some page }))
      ∧ (s.poison [address / 32 * 32]).mem.poison.contains (address / 32 * 32) = true)
    ∧ (∀ (lane address : Nat) (p : LanePass) (u : State), (s.comp.passes.find? fun p => p.lane == lane && p.started) = some p →
      u = { s with comp.passes := s.comp.passes.filter fun x => !(x.lane == lane && x.started) }.record
        { code := 0x0011, severity := 1, unitKind := 7, unit := lane, address } →
      (p.program = none → exec (.laneEccError lane address) s = .next (s.settled (p.entries.foldl (fun s e => s.endMember e.cmd e.member 8) u)))
      ∧ (∀ run transfer : Nat, p.program = some (run, transfer) → exec (.laneEccError lane address) s = .next (s.settled
        ((u.updRun run fun r => { r with medium := true, moves := r.moves.filter fun x => x.tid != transfer }).settleRun run))))
    ∧ (∀ (cid : Nat) (c : Cmd) (q : QueryWork) (k : Collection) (late : List Member) (u : State), s.cmd? cid = some c → c.body = .query q →
      s.coll? c.hdr.collection = some k → q.phase = .refine → late = q.active.filter (fun m => !m.refLeft.isEmpty) → late ≠ [] →
      q.refineEnd (s.imageFor q.admitRound).1 ≤ s.clock.round →
      u = (distinct (late.flatMap fun m => m.unread k q.snapshot s.group.index)).foldl (fun s x => s.refineLost c x) s →
      exec (.refineReadTimeout cid) s = .next (s.settled ((late.foldl (fun s m => s.endMember cid m.idx 8) u).progress cid)))
    ∧ (s.storesUp = true →
      (∀ sector < s.store.hostSectors, exec (.flashReadFailed sector .host) s = .next (s.settled (s.hostReadFailed sector))
        ∧ (s.readersOf sector = [] → s.movesRead = false → s.store.failing.contains sector = false → s.hostReadFailed sector =
          ({ s with store.failing := s.store.failing ++ [sector] }.relocateAt 0 sector).noteFailure sector))
      ∧ ∀ sector < s.store.indexSectors, exec (.flashReadFailed sector .index) s =
        .next (s.settled ((s.relocateAt 1 sector).noteFailure sector)))
    ∧ (s.pcie.busMaster = true → s.pcie.d3hot = false → ∀ address : Nat,
      (∀ (num : Nat) (r : SubRing), s.sq? num = some r → r.base ≤ address → address < r.base + 128 * r.size →
        exec (.hostReadFailed (.ring num) address) s = .next (s.pageReadFailed address))
      ∧ (s.regs.doorbell ≠ 0 → s.regs.doorbell.toNat ≤ address → address < s.regs.doorbell.toNat + 4096 →
        exec (.hostReadFailed .doorbellPage address) s = .next (s.pageReadFailed address))
      ∧ (∀ (cid : Nat) (c : Cmd), s.cmd? cid = some c → s.readsHost c = true →
        exec (.hostReadFailed (.command cid) address) s = .next (s.commandReadFailed c address))
      ∧ (s.mail.readFailed.contains address = true → s.pageReadFailed address = s.errorLog 3 0)
      ∧ (s.mail.readFailed.contains address = false → s.pageReadFailed address = ({ s.errorLog 3 0 with
          mail.readFailed := address :: s.mail.readFailed }).raise { code := 0x0002, severity := 1, address }))
    ∧ exec .hostPortInternalError s = .next ({ s with pcie.aerInternal := true }.raise { code := 0x0002, severity := 1, unitKind := 12 })

/-! ### Registers, doorbells, SMBus, the host port -/

/-- Writes of the setup registers and what follows them: a narrow or misaligned write is logged and ignored, a page
register takes its bits [46:12] while the host path does not run, a write that would change a locked field is ignored with a record, an
aligned word of scratch is stored, admin_enable starts or stops the admin
pair, a nudge wakes the watcher, a detach untethers with cause 2, staged fields take their shadows, a pending MSI-X message goes, a PTM
capture publishes its pair under a sequence two higher, an overdue completion ring signals, and PME_Status clears with WAKE#. -/
def Obligations.RegisterCommandsAct : Prop :=
  ∀ s : State,
    (s.decodesBar0 = true →
      (∀ off width v : Nat, (width ≠ 4 ∧ width ≠ 8) ∨ off % width ≠ 0 → exec (.registerWrite off width v) s = .next (s.errorLog 1 off))
      ∧ (∀ off ∈ pageOffsets, ∀ v : Nat, s.hostPathRuns = false → exec (.registerWrite off 8 v) s = .next { s with
          regs := { s.regs.setPage off (pageMask v) with held := s.regs.held.filter fun h => h.1 != off } })
      ∧ (∀ (off v : Nat) (t : State), off % 8 = 0 → s.locksOut off 8 v = true →
        t = (s.errorLog 0 off).raise { code := 0x0001, severity := 0, address := off } →
        exec (.registerWrite off 8 v) s = .next t ∧ (∀ k : Nat, t.regs.page k = s.regs.page k) ∧ t.regs.adminRing = s.regs.adminRing
          ∧ t.rings = s.rings ∧ (s.errors.queue.length < 64 → t.errors.seq = s.errors.seq + 1))
      ∧ (∀ v : Nat, exec (.registerWrite 0x050 4 v) s = .next { s with regs.scratch := BitVec.ofNat 32 (v % 2 ^ 32) })
      ∧ exec (.adminEnable 0) s = .next { s with
          regs.sleepShadow := some false, regs.adminEnable := false, regs.adminReady := false
          rings.sqs := s.rings.sqs.map fun r => if r.num = 0 then { r with stopped := true } else r }
      ∧ (s.regs.untethered = true → exec (.adminEnable 1) s = .next { s with regs.sleepShadow := some false, regs.adminEnable := true })
      ∧ (s.regs.untethered = false → s.regs.adminReady = false → s.regs.doorbell ≠ 0 → s.regs.adminSq ≠ 0 → s.regs.adminCq ≠ 0 →
        s.regs.adminRing.toNat % 16 ≤ 10 → s.regs.adminRing.toNat / 256 % 16 ≤ 10 →
        ∃ t r, exec (.adminEnable 1) s = .next t ∧ t.regs.adminEnable = true ∧ t.regs.adminReady = true
          ∧ (t.rings.sqs.filter fun x => x.num == 0) = [r] ∧ r.size = 2 ^ (6 + s.regs.adminRing.toNat % 16) ∧ r.base = s.regs.adminSq.toNat
          ∧ r.head = 0 ∧ r.stopped = false)
      ∧ (∀ v : BitVec 32, exec (.nudge v) s = .next { s with regs.asleep := false })
      ∧ exec .detach s = .next (s.untether 2)
      ∧ (s.regs.untethered = false → (s.untether 2).regs.untethered = true ∧ (s.untether 2).tether.cause = 2 ∧ (s.untether 2).rings.sqs = []))
    ∧ (∀ b : Bool, s.regs.sleepShadow = some b →
      exec (.stagedFieldBoundary .sleepEnable) s = .next { s with regs.sleepEnable := b, regs.sleepShadow := none })
    ∧ (∀ n : Nat, s.regs.watchShadow = some n →
      exec (.stagedFieldBoundary .watchInterval) s = .next { s with regs.watch := n, regs.watchShadow := none })
    ∧ (∀ n : Nat, s.regs.ptmShadow = some n →
      exec (.stagedFieldBoundary .ptmPeriod) s = .next { s with regs.ptmPeriod := n, regs.ptmShadow := none })
    ∧ (∀ v : Nat, s.msix.pend.getD v false = true → s.msixReady v = true →
      exec (.msixPendingSend v) s = .next { s with msix.pend := s.msix.pend.set v false, msix.sent := v :: s.msix.sent })
    ∧ (∀ time : BitVec 64, s.regs.ptmCapture = true → s.pcie.ptmEnable = true → s.pcie.linkUp = true → s.pcie.d3hot = false →
      ∃ t, exec (.ptmCapture time) s = .next t ∧ t.regs.ptmSeq = s.regs.ptmSeq + 2 ∧ t.regs.ptmHost = time
        ∧ t.regs.ptmGroup.toNat / 16 = s.clock.groupTime % 2 ^ 60 ∧ t.regs.ptmPeriod = s.regs.ptmShadow.getD s.regs.ptmPeriod
        ∧ t = { s with regs := t.regs, free := s.free + 1 })
    ∧ (∀ (cq : Nat) (q : CmpRing), s.cq? cq = some q → 0 < q.unsignalled → s.compUp Component.ringService = true →
      ∃ t, exec (.completionCoalesceTimeout cq) s = .next t ∧ q.since + 500 * q.time ≤ t.clock.groupTime
        ∧ (s.msixReady q.vector = true → t.msix.sent = q.vector :: s.msix.sent)
        ∧ (s.msixReady q.vector = false → q.vector < s.msix.pend.length → t.msix.pend.getD q.vector false = true)
        ∧ ∀ x ∈ t.rings.cqs, x.num = cq → x.unsignalled = 0)
    ∧ (s.pcie.pmeStatus = true → exec .pmeStatusClear s = .next { s with pcie.pmeStatus := false, pcie.wake := false })

/-- The watcher reads each word once at the end of an interval, takes those in range, and counts the intervals without a change; while
untethered it reads the mailbox's tail word alone. It falls asleep after 1,000 such intervals and stays awake where its last read finds a
change. A write of SMB_CAP in range and a multiple of 25 sets the cap of the next ledger loop and any other sets cap_refused, which a
write of SMB_STATUS clears; a write whose PEC fails is ignored. -/
def Obligations.WatcherAndSmbusAct : Prop :=
  ∀ (s : State) (host : HostImage),
    (s.mayWatch = true → s.regs.asleep = false → s.regs.untethered = true →
      exec (.doorbellWatch host) s = .next { s.readOk s.regs.doorbell.toNat 4096 with
        mail.toTail := s.doorbellWord host 0x800
        mail.refused := s.mail.refused && s.doorbellWord host 0x800 != 0
        regs := s.regs.applyWatch
        rings.idle := if s.doorbellWord host 0x800 = s.mail.toTail then min 1000 (s.rings.idle + 1) else 0 })
    ∧ (s.mayWatch = true → s.regs.asleep = false → s.regs.untethered = false → (∀ r ∈ s.rings.sqs, s.doorbellWord host (4 * r.num) < r.size) →
      s.rings.cqs = [] → s.doorbellWord host 0x800 = s.mail.toTail → s.doorbellWord host 0x804 = s.mail.fromHead → s.mail.toTail < 4032 →
      s.mail.fromHead < 4032 → cellsUsed s.mail.toTail s.mail.toHead ≤ 63 →
      ∃ t, exec (.doorbellWatch host) s = .next t ∧ t.rings.sqs.map (·.tail) =
        s.rings.sqs.map fun r => if (s.rings.sqs.any fun x => x.num == r.num && !x.stopped) = true
          then s.doorbellWord host (4 * r.num) else r.tail)
    ∧ (s.mayWatch = true → s.regs.asleep = false → s.regs.untethered = true → s.regs.sleepEnable = true → s.rings.cmds = [] →
      s.mail.awaiting = [] → 1000 ≤ s.rings.idle →
      ∃ t, exec (.watcherSleep host) s = .next t ∧ (t.regs.asleep = true ↔ s.doorbellWord host 0x800 = s.mail.toTail))
    ∧ (∀ v : BitVec 16, s.power.v33 = true →
      exec (.smbCapWrite v true) s = .next (if 250 ≤ v.toNat ∧ v.toNat ≤ 600 ∧ v.toNat % 25 = 0 then { s with power.capNext := some v.toNat }
        else { s with power.capRefused := true })
      ∧ exec (.smbCapWrite v false) s = .next s
      ∧ ∀ code : Nat, code ≠ 0x09 → exec (.smbusWriteWord code v true) s = .next (if code = 0x02 ∧ v.getLsbD 8 = true then
          { s with power.capRefused := false } else s)
        ∧ exec (.smbusWriteWord code v false) s = .next s)

/-- FLR and hot reset leave the device untethered with the setup registers and configuration space at their reset values and everything
past the host port as it was; D3hot entry and the clearing of Bus Master Enable untether; D0 return keeps the registers; the end of an
FLR and a link that comes up are noted. -/
def Obligations.HostPortCommandsAct : Prop :=
  ∀ s : State,
    (s.pcie.linkUp = true → s.pcie.flrBusy = false →
      ∃ t, exec .flr s = .next t ∧ t.regs.untethered = true ∧ t.regs.doorbell = 0 ∧ t.regs.mboxTo = 0 ∧ t.regs.adminEnable = false
        ∧ t.regs.cause = 3 ∧ t.regs.ready = s.regs.ready ∧ t.pcie.busMaster = false ∧ t.pcie.memSpace = false ∧ t.pcie.flrBusy = true
        ∧ t.pcie.linkUp = true ∧ t.msix.masked = Msix.initial.masked ∧ t.power = { s.power with capMsgs := t.power.capMsgs } ∧ t.clock = s.clock
        ∧ (s.comp.runs = [] → t.store.host = s.store.host ∧ t.errors.queue = s.errors.queue ∧ t.mem.hbm = s.mem.hbm))
    ∧ (s.pcie.linkUp = true →
      ∃ t, exec .hotReset s = .next t ∧ t.regs.untethered = true ∧ t.regs.doorbell = 0 ∧ t.regs.cause = 4 ∧ t.pcie.linkUp = false
        ∧ t.pcie.busMaster = false ∧ t.power = { s.power with capMsgs := t.power.capMsgs } ∧ (s.comp.runs = [] → t.store.host = s.store.host))
    ∧ (s.pcie.flrBusy = true → exec .flrCompletion s = .next { s with pcie.flrBusy := false })
    ∧ (s.pcie.linkUp = true → s.pcie.d3hot = false →
      ∃ t, exec .d3hotEntry s = .next t ∧ t.pcie.d3hot = true ∧ t.regs.untethered = true ∧ t.regs.doorbell = s.regs.doorbell)
    ∧ (s.pcie.d3hot = true → exec .d0Return s = .next { s with pcie.d3hot := false, pcie.wake := false })
    ∧ (s.pcie.busMaster = true → ∃ t, exec .busMasterEnableClear s = .next t ∧ t.pcie.busMaster = false ∧ t.regs.untethered = true)
    ∧ (∀ (rate width : Nat) (cfg : BitVec 16), s.power.v12 = true → s.power.v33 = true → s.power.perst = false → s.power.hold = false →
      1 ≤ rate → rate ≤ 5 → (width = 1 ∨ width = 2 ∨ width = 4 ∨ width = 8) → s.pcie.busMaster = false → s.pcie.flrBusy = false →
      exec (.linkUp rate width cfg) s = .next { s with
        pcie.linkUp := true, pcie.rate := rate, pcie.width := width, pcie.memSpace := cfg.getLsbD 0, pcie.busMaster := cfg.getLsbD 1
        pcie.msixEnable := cfg.getLsbD 2, pcie.funcMask := cfg.getLsbD 3, pcie.relaxed := cfg.getLsbD 4, pcie.ptmEnable := cfg.getLsbD 5
        pcie.maxPayload := cfg.toNat / 64 % 8, pcie.maxRead := cfg.toNat / 512 % 8, pcie.tenBit := cfg.getLsbD 12 })

/-- Whatever ends a run (PERST#, the loss of input power, the thermal cut-off) leaves no ring, command, program or tether and the setup
registers at reset, keeps the collections' identities, and counts nothing as READY; start-up's steps follow one another to READY, a step
that fails or passes its maximum raises a Fatal record and shelter mode, and an input that is too low holds start-up. -/
def Obligations.ResetsAndStartupAct : Prop :=
  ∀ s : State,
    (s.power.perst = false → s.power.v12 = true → s.power.v33 = true →
      ∃ t, exec .perstAssert s = .next t ∧ t.power.perst = true ∧ t.regs.ready = false ∧ t.regs.untethered = true ∧ t.regs.step = 1
        ∧ t.rings.sqs = [] ∧ t.rings.cmds = [] ∧ t.comp.runs = [] ∧ t.errors.queue = [] ∧ t.mem.hbm = []
        ∧ t.colls.map (·.cid) = s.colls.map (·.cid) ∧ t.keys.imports = [] ∧ t.keys.session = none ∧ t.regs.shelter = false)
    ∧ (s.power.perst = true → exec .perstDeassert s = .next { s with power.perst := false })
    ∧ (s.power.v12 = true →
      (∃ t, exec .powerLoss s = .next t ∧ t.power.v12 = false ∧ t.regs.ready = false ∧ t.rings.cmds = [] ∧ t.comp.programs = []
        ∧ t.errors.queue = [] ∧ t.mem.hbm = [] ∧ t.colls.map (·.cid) = s.colls.map (·.cid))
      ∧ ∀ die < 2, ∃ t, exec (.thermalCutOff die) s = .next t ∧ t.power.v12 = false ∧ t.power.cutOff = true ∧ t.regs.ready = false
        ∧ t.rings.cmds = [])
    ∧ (s.power.v12 = false → ∃ t, exec .powerGood s = .next t ∧ t.power.v12 = true ∧ t.power.v33 = true ∧ t.regs = { Regs.initial with cause := 1 }
        ∧ t.power.perst = s.power.perst ∧ t.power.capRefused = false ∧ t.power.cutOff = false ∧ t.keys.bootCount = (s.keys.bootCount + 1) % 2 ^ 32)
    ∧ (s.starting = true →
      (∀ report : StartReport, s.regs.step = 1 → exec (.startupStepEnd report) s = .next { s with
        power.sense := senseCeiling report.sense0Open report.sense1Open, power.senseLow := none, regs.step := 2 })
      ∧ (∀ report : StartReport, s.regs.step = 2 → report.passed = true → exec (.startupStepEnd report) s = .next (s.bootStep report))
      ∧ (∀ report : StartReport, s.regs.step = 3 → report.passed = true → s.recordsFail = false →
        exec (.startupStepEnd report) s = .next s.recordStep)
      ∧ (∀ report : StartReport, s.regs.step = 4 → report.passed = true → (s.testStep report.badCores).comp.out.length ≤ 32 →
        exec (.startupStepEnd report) s = .next (s.testStep report.badCores))
      ∧ (∀ report : StartReport, s.regs.step = 5 → report.passed = true → exec (.startupStepEnd report) s = .next { s with regs.step := 6 })
      ∧ (∀ report : StartReport, s.regs.step = 6 → report.passed = true → s.store.sanitise = none →
        brokenJournal (s.badParts report.badParts).store.journal = false →
        ∃ t, exec (.startupStepEnd report) s = .next t ∧ t = (s.badParts report.badParts).replay.becomeReady ∧ t.regs.ready = true
          ∧ t.active = Timetable.builtin ∧ t.clock.round = 0)
      ∧ (∀ report : StartReport, 4 ≤ s.regs.step → report.passed = false → exec (.startupStepEnd report) s = .next s.failStep)
      ∧ exec .startupStepTimeout s = .next s.failStep
      ∧ (s.errors.queue.length < 64 → s.errors.depths = [] → s.failStep.regs.shelter = true ∧ s.failStep.errors.shelterCause = 0x0043
        ∧ s.failStep.regs.ready = false)
      ∧ (∃ t, exec .startupHold s = .next t ∧ t.power.hold = true ∧ t.regs.cause = 6 ∧ t.regs.step = 1))
    ∧ (s.power.hold = true → exec .holdInputRecovered s = .next { s with power.hold := false })

/-! ### Power, temperature and sleep -/

/-- Power events: a ledger loop before start-up's step 2 puts the next cap in force and updates the readings; a clamp limits the window
clusters; a voltage stage, PWRBRK# and the stage of a sensor come into force or end with the stage in force following them; an input
outside its specification and a sensor at its shelter limit enter shelter mode with a Fatal record. -/
def Obligations.PowerEventsAct : Prop :=
  ∀ s : State,
    (∀ r : LoopReading, s.power.v33 = true → s.power.v12 = true → s.fw.lodge = .up → s.regs.step = 1 → s.regs.ready = false → s.power.capMsgs = [] →
      ∃ t, exec (.ledgerLoop r) s = .next t ∧ t.power.cap = s.power.capNext.getD s.power.cap ∧ t.power.capNext = none
        ∧ t.power.capReg = s.power.capNext.getD s.power.cap ∧ t.power.input = r.millivolts ∧ t.power.watts = r.power
        ∧ t.power.temps = [r.dieTemp, r.hbmTemp, r.flashTemp, r.cageTemp])
    ∧ (∀ mean : Nat, s.power.v12 = true → s.fw.lodge = .up →
      exec (.powerClamp mean) s = .next { s with power.clampLimit := s.power.clampLimit || 10 * mean > 11 * s.ceiling })
    ∧ (∀ mv : Nat, s.regs.ready = true → s.fw.lodge = .up →
      (s.power.voltage < voltageStage mv 0 → ∃ t, exec (.voltageStageRise mv) s = .next t ∧ t.power.voltage = voltageStage mv 0
        ∧ s.shed ≤ t.shed)
      ∧ (voltageStage mv 100 < s.power.voltage → ∃ t, exec (.voltageStageFall mv) s = .next t ∧ t.power.voltage = voltageStage mv 100
        ∧ t.shed ≤ s.shed))
    ∧ (s.power.v33 = true →
      (s.power.pwrbrk = false → ∃ t, exec .pwrbrkAssert s = .next t ∧ t.power.pwrbrk = true ∧ t.pwrbrkStage = 3 ∧ 3 ≤ t.shed)
      ∧ (s.power.pwrbrk = true → ∃ t, exec .pwrbrkDeassert s = .next t ∧ t.power.pwrbrk = false ∧ t.pwrbrkStage = 0))
    ∧ (s.alwaysOn = true → s.regs.shelter = false → ∀ mv : Nat, 12960 < mv →
      ∃ t, exec (.supplyOutOfSpec mv) s = .next t ∧ t.regs.shelter = true ∧ t.errors.shelterCause = 0x0040)
    ∧ (s.alwaysOn = true → s.fw.lodge = .up → ∀ (n : Nat) (temp : Int), 85 * 8 < temp →
      ∃ t, exec (.thermalThreshold (.hbm n) temp) s = .next t ∧ assoc t.power.thermalStages (32 + n) = 4 ∧ 4 ≤ t.shed)
    ∧ (s.fw.lodge = .up → ∀ n : Nat, (s.power.thermalStages.any fun x => x.1 == 32 + n) = true →
      ∃ t, exec (.thermalStageEnd (.hbm n)) s = .next t
        ∧ t.power.thermalStages = s.power.thermalStages.filter fun x => x.1 != 32 + n)
    ∧ (s.alwaysOn = true → s.regs.shelter = false → ∀ (n : Nat) (temp : Int), 110 * 8 ≤ temp →
      ∃ t, exec (.thermalLimit (.die n) temp) s = .next t ∧ t.regs.shelter = true ∧ t.errors.shelterCause = 0x0041)

/-- Clusters and dies: an idle cluster sleeps, a cluster for which work waits or whose window is near wakes, an idle die's memory goes
into self-refresh, and a die that wakes owes a housekeeping burst. -/
def Obligations.SleepEventsAct : Prop :=
  ∀ s : State,
    (∀ cluster < 64, s.fw.lodge = .up →
      (s.comp.asleep.contains cluster = false → (∀ r ∈ s.comp.runs, ∀ t ∈ r.teams, t.2 ≠ cluster) →
        exec (.clusterSleep cluster) s = .next { s with comp.asleep := s.comp.asleep ++ [cluster] })
      ∧ (s.comp.asleep.contains cluster = true → s.comp.out.contains cluster = false → s.regs.shelter = false →
        s.dieAsleep (cluster / 32) = false →
        (s.clusterWanted cluster = true → exec (.clusterWake cluster) s = .next { s with comp.asleep := s.comp.asleep.filter fun c => c != cluster })
        ∧ (∀ (r : Run) (p : Program), r ∈ s.comp.runs → s.inCluster r cluster = true → s.program? r.handle = some p → r.waitingTeams p ≠ [] →
          s.clusterWanted cluster = true)
        ∧ (s.prewakeWithin (·.prewake) (fun w => w.clusters.contains cluster) = true →
          exec (.prewake cluster) s = .next { s with comp.asleep := s.comp.asleep.filter fun c => c != cluster })))
    ∧ (∀ die < 2, s.regs.ready = true → s.dieAsleep die = false → s.fw.lodge = .up → s.comp.runs = [] → s.comp.passes = [] →
      (∀ k < 32, s.comp.asleep.contains (32 * die + k) = true ∨ s.comp.out.contains (32 * die + k) = true) →
      (∀ c ∈ s.rings.cmds, c.admitted = false ∨ c.finished = true) → die = 1 ∨ s.regs.asleep = true →
      s.prewakeWithin (fun _ => ticksPerMs) (fun w => w.clusters.any fun c => dieOf c == die) = false →
      exec (.dieDeepSleep die) s = .next { s with
        comp.dieSleep := s.comp.dieSleep.set die true, mem.selfRefresh := sortNats (s.mem.selfRefresh ++ stacksOf die) })
    ∧ (∀ die < 2, s.dieAsleep die = true →
      ∃ t, exec (.dieWake die) s = .next t ∧ t.dieAsleep die = false ∧ die ∈ t.comp.housekeeping
        ∧ (s.regs.shelter = false → t.mem.selfRefresh = s.mem.selfRefresh.filter fun k => !(stacksOf die).contains k)
        ∧ (s.regs.shelter = true → t.mem = s.mem))

/-! ### Firmware processors -/

/-- Failures and restarts: a component that fails stops and restarts with a record, a kiosk that halts restarts whole, an expired watchdog
restarts the lodge or the gatehouse, a restart that ends brings what restarted up again, and a unit whose recovery period passes is at
depth 0. -/
def Obligations.FirmwareEventsAct : Prop :=
  ∀ s t : State,
    (∀ comp < 9, s.firmwareRuns = true → s.compUp comp = true →
      exec (.compartmentFault comp) s = .next (s.failComponent comp)
      ∧ (s.fw.lodge = .up → exec (.componentHeartbeatTimeout comp) s = .next (s.failComponent comp))
      ∧ (t = s.failComponent comp → s.fw.comps.length = 9 → s.rings.cmds = [] → s.errors.depths = [] → s.errors.queue.length < 64 →
        s.fw.lodge = .up → s.failsAgain comp = false →
        t.compUp comp = false ∧ t.errors.seq = s.errors.seq + 1 ∧ ∀ k < 9, k ≠ comp → t.compUp k = s.compUp k))
    ∧ (∀ kiosk < 8, s.firmwareRuns = true → s.fw.lodge = .up →
      (∃ k ∈ s.kioskComps kiosk, (s.fw.comps.map (·.state)).getD k .up ≠ .kioskRestarting) →
      t = (s.stopAll (s.kioskComps kiosk) .kioskRestarting).raise { code := 0x0029, severity := 2, unitKind := 2, unit := kiosk } →
      exec (.kioskHalt kiosk) s = .next t
        ∧ (s.fw.comps.length = 9 → s.rings.cmds = [] → s.errors.depths = [] → s.errors.queue.length < 64 → (∀ k < 9, s.compUp k = true) →
          ∀ k < 9, t.compUp k = !(s.kioskComps kiosk).contains k))
    ∧ (s.alwaysOn = true → t = s.raise { code := 0x002A, severity := 2, unitKind := 4 } → s.fw.lodge = .up →
      (s.fw.lodgeAt.any (fun at0 => s.clock.groupTime - at0 < ticksPerSecond) = false →
        exec .lodgeWatchdogExpiry s = .next { t with fw.lodge := .restarting, fw.lodgeAt := some s.clock.groupTime })
      ∧ (s.fw.lodgeAt.any (fun at0 => s.clock.groupTime - at0 < ticksPerSecond) = true → exec .lodgeWatchdogExpiry s = .next t.internalRestart))
    ∧ (s.alwaysOn = true → 3 ≤ s.regs.step → s.fw.gatehouse = .up →
      (s.fw.lodge = .up → exec .gatehouseWatchdogExpiry s = .next ({ s with fw.gatehouse := .restarting }.raise
        { code := 0x002A, severity := 2, unitKind := 3 }))
      ∧ (s.fw.lodge ≠ .up → exec .gatehouseWatchdogExpiry s = .next ({ s with fw.gatehouse := .heldForLodge }.raise
        { code := 0x002A, severity := 2, unitKind := 3 })))
    ∧ (∀ comp < 9, (s.fw.comps.map (·.state)).getD comp .up = .restarting →
      t = (s.returnComps [comp]).endRecovery (2, (s.fw.comps.map (·.kiosk)).getD comp 0) →
      exec (.componentRestartEnd comp) s = .next (s.settled t)
        ∧ (s.fw.comps.length = 9 → s.rings.cmds = [] → s.rings.waiting = [] → s.mail.awaiting = [] → s.group.heldMsgs = [] → s.fw.activating = none →
          t.compUp comp = true))
    ∧ (∀ kiosk < 8, (∃ k ∈ s.kioskComps kiosk, (s.fw.comps.map (·.state)).getD k .up = .kioskRestarting) →
      t = (s.returnComps (s.kioskComps kiosk)).endRecovery (2, kiosk) →
      exec (.kioskRestartEnd kiosk) s = .next (s.settled t)
        ∧ (s.fw.comps.length = 9 → s.rings.cmds = [] → s.rings.waiting = [] → s.mail.awaiting = [] → s.group.heldMsgs = [] → s.fw.activating = none →
          ∀ k ∈ s.kioskComps kiosk, t.compUp k = true))
    ∧ (s.fw.lodge = .restarting → ∃ t, exec .lodgeReturn s = .next t ∧ t.fw.lodge = .up ∧ t.power.clampHold = false
        ∧ t.tether.since = s.clock.groupTime)
    ∧ (s.fw.gatehouse = .restarting →
      exec .gatehouseReturn s = .next ((({ s with fw.gatehouse := .up }).endRecovery (3, 0)).answerRestarted [Component.gatehouse])
      ∧ (s.fw.lodge = .up → ∃ t, exec .gatehouseReturnTimeout s = .next t ∧ t.regs.ready = false ∧ t.regs.step = 2 ∧ t.pcie = s.pcie
        ∧ t.msix = s.msix ∧ t.regs.shelter = s.regs.shelter ∧ t.errors.queue = s.errors.queue))
    ∧ (∀ (kind unit : Nat), (s.errors.depths.any fun d => d.kind == kind && d.unit == unit && d.ended) = true →
      ∃ t, exec (.recoveryPeriodEnd kind unit) s = .next t ∧ t.depthOf (kind, unit) = 0
        ∧ ∀ u : Nat × Nat, u ≠ (kind, unit) → t.depthOf u = s.depthOf u)

/-! ### Programs -/

/-- SETS writes imm to s[d], ADDS s[a] + imm, and MULS the low 32 bits of s[a] × s[b]; the program counter advances, and no other scalar
register, buffer register, tile or byte of local memory changes. -/
def Obligations.ScalarInstructionsWriteTheirRegister : Prop :=
  ∀ (s : State) (run core : Nat) (r : Run) (p : Program) (c : VCore) (w : BitVec 64), s.issuer run core = some (r, p, c, w) → c.s.length = 16 →
    ∀ (i : Instr) (v : Nat),
      (i = .sets run core ∧ wf w 63 56 = 0x01 ∧ v = wf w 31 0)
        ∨ (i = .adds run core ∧ wf w 63 56 = 0x02 ∧ v = c.s! (wf w 51 48) + wf w 31 0)
        ∨ (i = .muls run core ∧ wf w 63 56 = 0x03 ∧ v = c.s! (wf w 51 48) * c.s! (wf w 47 44)) →
      ∃ t r' c', exec i s = .next t ∧ t.run? run = some r' ∧ r'.core? core = some c' ∧ c'.s! (wf w 55 52) = v % 2 ^ 32
        ∧ (∀ k : Nat, k ≠ wf w 55 52 → c'.s! k = c.s! k) ∧ c'.bufs = c.bufs ∧ c'.tiles = c.tiles ∧ c'.mem = c.mem ∧ r'.shared = r.shared
        ∧ r'.moves = r.moves ∧ c'.sel = c.sel ∧ t.mem = s.mem ∧ t.rings = s.rings ∧ (c.loops = [] → c'.pc = c.pc + 1)

/-- Control and waiting, with `go` for a scalar instruction of one cycle that takes effect: NOP passes, SETB copies its pool entry, LOOP
opens a level or skips its body, BAR and the waits leave the core waiting, END ends the core, or waits for the core's transfers in flight,
and a BAR or an END that is the run's last arrival at its next group barrier announces that (R275 to R282). -/
def Obligations.ControlInstructionsAct : Prop :=
  ∀ (s : State) (run core : Nat) (r : Run) (p : Program) (c : VCore) (w : BitVec 64), s.issuer run core = some (r, p, c, w) →
    let go (e : Run → Run) : State := s.updRun run fun x => (e x).updCore core fun c => c.advance 0 1 (s.pace r)
    let stay (f : VCore → VCore) : State := (s.updRun run fun x => x.updCore core fun c => f (c.advance 0 0 (s.pace r))).announceBar run
    (wf w 63 56 = 0x00 → exec (.nopInstruction run core) s = .next (go id))
    ∧ (wf w 63 56 = 0x04 → wf w 47 47 = 0 → exec (.setb run core) s = .next (go fun x => x.updCore c.idx fun c =>
        { c with bufs := c.bufs.set (wf w 55 52) (bufOfEntry (p.entry (wf w 11 0))) }))
    ∧ (wf w 63 56 = 0x05 → wf w 51 51 = 0 →
      (0 < wf w 31 16 → c.loops.length < 4 → exec (.loop run core) s = .next (go fun x => x.updCore c.idx fun x =>
        { x with loops := ⟨wf w 31 16, x.pc + 1, c.pc + 1 + wf w 15 0⟩ :: x.loops }))
      ∧ (wf w 31 16 = 0 → exec (.loop run core) s = .next (go fun x => x.updCore c.idx fun x => { x with pc := c.pc + wf w 15 0 })))
    ∧ (wf w 63 56 = 0x06 → exec (.bar run core) s = .next (stay fun c =>
        { c with bars := c.bars.modify (wf w 55 54) (· + 1), wait := some (.bar (wf w 55 54)) }))
    ∧ (wf w 63 56 = 0x07 → exec (.waitr run core) s = .next (stay fun c =>
        { c with wait := some (if wf w 55 54 = 0 then .round else .bulk) }))
    ∧ (wf w 63 56 = 0x09 → exec (.waitm run core) s = .next (stay fun c => { c with wait := some (.tag (wf w 55 52)) }))
    ∧ (wf w 63 56 = 0x08 →
      (r.movesOf c.idx = [] → exec (.endCore run core) s = .next ((s.updRun run fun x =>
        (x.updCore c.idx fun c => { c with ended := true, wait := none }).closeTeams p).announceBar run))
      ∧ (r.movesOf c.idx ≠ [] → exec (.endCore run core) s = .next ((s.updRun run fun x =>
        (x.updCore c.idx fun c => { c with wait := some .ending }).closeTeams p).announceBar run)))

/-- Tiles and selection, with no transfer of the run in flight and `go` for an instruction that takes effect and keeps its unit busy (1 matrix,
4 select): TCLR clears its tile and the recorded scales, TADD adds, TSAVE and TLOAD move a tile at an aligned address in range, MMA
accumulates, SEL INIT empties the unit at its capacity, FEED feeds it and READ writes it out. -/
def Obligations.TileAndSelectInstructionsAct : Prop :=
  ∀ (s : State) (run core : Nat) (r : Run) (p : Program) (c : VCore) (w : BitVec 64), s.issuer run core = some (r, p, c, w) → r.moves = [] →
    let go (u busy : Nat) (e : Run → Run) : State := s.updRun run fun x => (e x).updCore core fun c => c.advance u busy (s.pace r)
    (wf w 63 56 = 0x20 → exec (.tclr run core) s = .next (go 1 16 fun x => x.updCore c.idx fun c => c.setTile (wf w 55 51) Tile.cleared))
    ∧ (wf w 63 56 = 0x21 → scalesConflict (c.tile (wf w 55 51)).scales (c.tile (wf w 50 46)).scales = false →
      exec (.tadd run core) s = .next (go 1 32 fun x =>
        (x.updCore c.idx fun x => x.setTile (wf w 55 51) ((c.tile (wf w 55 51)).add (c.tile (wf w 50 46))).1).noteFlags c.idx c.pc
          ((c.tile (wf w 55 51)).add (c.tile (wf w 50 46))).2))
    ∧ (tileAddr w c % 64 = 0 → localGood (tileAddr w c) 4160 = true →
      (wf w 63 56 = 0x22 → exec (.tsave run core) s = .next (go 1 (tileBusy (tileAddr w c)) fun x =>
        x.localWrite c.idx (tileAddr w c) (c.tile (wf w 55 51)).bytes))
      ∧ (wf w 63 56 = 0x23 → exec (.tload run core) s = .next (go 1 (tileBusy (tileAddr w c)) fun x =>
        x.updCore c.idx fun y => y.setTile (wf w 55 51) (Tile.ofBytes (x.localRead c.idx (tileAddr w c) 4160)))))
    ∧ (wf w 63 56 = 0x28 → (mmaIssue w c).faults = none →
      ∃ t r' c', exec (.mma run core) s = .next t ∧ t.run? run = some r' ∧ r'.core? core = some c' ∧ c'.s = c.s ∧ c'.bufs = c.bufs ∧ c'.mem = c.mem
        ∧ (∀ k : Nat, k ≠ wf w 55 51 → c'.tile k = c.tile k) ∧ t.mem = s.mem)
    ∧ (wf w 63 56 = 0x40 →
      (wf w 55 54 = 0 → wf w 37 37 = 1 → exec (.selInit run core) s = .next (go 4 4 fun x => x.updCore c.idx fun x =>
        { x with sel := SelUnit.setUp (wf w 53 42) true 0 0 }))
      ∧ (wf w 55 54 = 1 → wf w 53 42 ≠ 0 → localGood (selAddr w c) (16 * wf w 53 42) = true →
        exec (.selFeed run core) s = .next (go 4 (wf w 53 42) fun x => x.updCore c.idx fun y =>
          { y with
            sel := List.foldl SelUnit.feedAux y.sel ((List.range (wf w 53 42)).map fun i => selEntryOf (x.localRead c.idx (selAddr w c + 16 * i) 16)) }))
      ∧ (wf w 55 54 = 2 → localGood (selAddr w c) (16 + 16 * c.sel.held.length) = true →
        exec (.selRead run core) s = .next (go 4 (c.sel.held.length + 1) fun x => x.localWrite c.idx (selAddr w c) c.sel.summary)))

/-- MOVE, VOP, OUT, ACCM and SCAN that raise no runtime fault, with no transfer of the run in flight: MOVE, where no module whose T2 it
names sheds, puts a transfer of its tag in flight, SCAN one with a pass of its lane, and VOP, OUT and ACCM leave the scalar and buffer
registers, every transfer and the rest of the machine as they were. -/
def Obligations.DataInstructionsAct : Prop :=
  ∀ (s : State) (run core : Nat) (r : Run) (p : Program) (c : VCore) (w : BitVec 64), s.issuer run core = some (r, p, c, w) → r.moves = [] →
    (wf w 63 56 = 0x10 → (moveIssue p r w c).faults = none → s.t2Shed ([(p.block (wf w 11 0)).src, (p.block (wf w 11 0)).dst].filterMap
        fun i => (r.tensor p i).bind fun t => if t.2 then none else some t.1) = false →
      ∃ t r' m, exec (.moveInstruction run core) s = .next t ∧ t.run? run = some r' ∧ r'.moves = [m] ∧ m.tid = r.nextTid ∧ m.tag = wf w 55 52
        ∧ m.vcore = c.idx ∧ m.scan = false ∧ t.mem = s.mem ∧ t.comp.passes = s.comp.passes)
    ∧ (wf w 63 56 = 0x18 → (scanIssue r w c).faults = none →
      s.jobPoisoned (r.localRead core (wf w 23 0 + c.s! (wf w 51 48)) 576) = false →
      ∃ t r' m x, exec (.scan run core) s = .next t ∧ t.run? run = some r' ∧ r'.moves = [m] ∧ m.tid = r.nextTid ∧ m.tag = wf w 55 52
        ∧ m.scan = true ∧ t.comp.passes = s.comp.passes ++ [x] ∧ x.program = some (run, r.nextTid) ∧ x.started = false ∧ x.filled = false
        ∧ x.segs = s.jobSegs (r.localRead core (wf w 23 0 + c.s! (wf w 51 48)) 576))
    ∧ (∀ i : Instr,
      (i = .vop run core ∧ wf w 63 56 = 0x30 ∧ (vopIssue w c).faults = none)
        ∨ (i = .outInstruction run core ∧ wf w 63 56 = 0x38 ∧ (outIssue p w c).faults = none)
        ∨ (i = .accm run core ∧ wf w 63 56 = 0x3C ∧ (accmIssue p w c).faults = none) →
      ∃ t r' c', exec i s = .next t ∧ t.run? run = some r' ∧ r'.core? core = some c' ∧ c'.s = c.s ∧ c'.bufs = c.bufs ∧ c'.sel = c.sel
        ∧ r'.moves = [] ∧ r'.nextTid = r.nextTid ∧ t.mem = s.mem ∧ t.rings = s.rings ∧ t.comp.passes = s.comp.passes)

/-- Runs: a team starts on a free cluster of an open window, a transfer that names no T2 and reads and writes nothing that fails ends, a
team past max_cycles and a LOOP at a fifth level stop the run with their fault code, a run whose cores have ended completes its command with
the status block's address, and an embedding batch begins a run under the program's seed. -/
def Obligations.ProgramEventsAct : Prop :=
  ∀ (s : State) (run : Nat) (r : Run) (p : Program), s.run? run = some r → s.program? r.handle = some p →
    (∀ (cluster cid : Nat) (c : Cmd), r.why = .command cid → s.cmd? cid = some c → c.held = none → c.admitted = true → s.runTurn r = true →
      r.fault = none → r.medium = false → s.power.applied = 0 → s.regs.shelter = false → r.waitingTeams p = [0] →
      s.clusterFree r cluster = true → r.cleared = true → r.teams = [] → s.saveBad r p 0 = none →
      ∃ t r', exec (.teamStart run [(0, cluster)]) s = .next t ∧ t.run? run = some r' ∧ r'.teams = [(0, cluster)])
    ∧ (∀ (transfer : Nat) (host : HostImage) (m : Transfer) (f g : Fmt), (r.moves.find? fun t => t.tid == transfer && !t.scan) = some m →
      m.src.fmt? = some f → m.dst.fmt? = some g → s.transferFails r m f g = false → r.fault = none → r.medium = false → m.src.tier ≠ 2 →
      m.dst.tier ≠ 2 →
      ∃ t r', exec (.transferComplete run transfer host) s = .next t ∧ t.run? run = some r' ∧ (r'.moves.any fun t => t.tid == transfer) = false
        ∧ r'.wrote = r.wrote + m.outBytes p r g)
    ∧ (∀ (team : Nat) (c : VCore), (r.cores.find? fun c => (teamOf c.idx == team && !c.ended) && c.cycles > p.maxCycles) = some c → r.fault = none →
      r.medium = false → (r.teams.any fun t => t.1 == team) = true → r.moves ≠ [] →
      ∃ t r', exec (.cycleLimit run team) s = .next t ∧ t.run? run = some r' ∧ r'.fault = some (8, c.pc, c.idx))
    ∧ (∀ (core : Nat) (c : VCore) (w : BitVec 64), s.issuer run core = some (r, p, c, w) → wf w 63 56 = 0x05 → wf w 51 51 = 0 → 0 < wf w 31 16 →
      4 ≤ c.loops.length → r.moves ≠ [] →
      ∃ t r', exec (.loop run core) s = .next t ∧ t.run? run = some r' ∧ r'.fault = some (5, c.pc, core))
    ∧ (∀ (cid : Nat) (c : Cmd), r.why = .command cid → s.cmd? cid = some c → c.held = none → r.fault = none → r.medium = false → r.moves = [] →
      r.cores.length = p.vcores → (r.cores.all (·.ended)) = true →
      exec (.programEnd run) s = .next (((s.removeRun run).writeT1 p.status r.statusBytes).complete cid { Result.of 0 with c := p.status }))
    ∧ (∀ (cid first count : Nat) (c : Cmd) (m : Mutation) (k : Collection) (q : Program) (a : State × List (Nat × TensorDesc)) (bucket : Nat),
      s.cmd? cid = some c → c.mutation? = some m →
      s.coll? c.hdr.collection = some k → s.program? k.embed = some q → m.kind = .embed → c.admitted = false → c.held = none →
      s.compUp Component.ingest = true → 0 < count → count ≤ q.maxBatch → first + count ≤ m.chunks.length →
      bucket = q.bucket ((((m.chunks.drop first).take count).map fun x => x.tokens.length).foldl max 0) → 0 < bucket →
      s.argTensors [(0, denseTensor .u32 [bucket, count]), (1, denseTensor .u32 [count]), (2, denseTensor .k16 [q.outputDim, count])] = some a →
      (s.comp.runs.all fun x => match x.why with
        | .embed _ _ _ => false
        | _ => true) = true →
      (((m.entries.drop first).take count).all fun e => e.vec.isNone) = true →
      ∃ t x, exec (.embedBatch cid first count) s = .next t ∧ t.comp.runs = s.comp.runs ++ [x] ∧ x.why = .embed cid first count ∧ x.seed = q.seed
        ∧ x.handle = q.handle)

/-! ### Hawser ports and the group -/

/-- Ports and cages: a trained port is LOCKED, a training that fails puts it DOWN until its retry, a lost lock takes the port DOWN, a lost
block is reported four times and its flits wait for replay, LINK_HELLO from the module of the map is noted and another one recorded,
TIME_SYNC notes its times and, at the sixty-fourth exchange within 1 µs, measures the port, an inserted module of a low power class has its
map read and its two ports train, one of a high class stays in low power, and a removed or alarming module takes its ports DOWN. -/
def Obligations.PortEventsAct : Prop :=
  ∀ (s : State) (port : Nat), port < 8 → s.ports.length = 8 →
    (s.portState port = 1 →
      (∃ t, exec (.blockLock port) s = .next t ∧ t.portState port = 2 ∧ (∀ k : Nat, k ≠ port → t.portState k = s.portState k)
        ∧ t.group.sent.length = s.group.sent.length + 1)
      ∧ exec (.trainingTimeout port) s = .next (s.updPort port fun x => { x with state := 0, retry := true }))
    ∧ (s.portState port = 0 → (s.port port).retry = true → exec (.trainingRetry port) s = .next (s.train port))
    ∧ (s.portState port = 4 →
      ∃ t, exec (.blockLockLoss port) s = .next t ∧ t.portState port ≤ 1 ∧ ∀ k : Nat, k ≠ port → t.portState k = s.portState k)
    ∧ (∀ (blockSeq : Nat) (block : Option Bytes) (flits : List Flit), 2 ≤ s.portState port → blockLost block = true →
      exec (.lostBlock port blockSeq block flits) s = .next { s.updPort port fun x =>
          { x with lost := x.lost + 1, nacks := x.nacks ++ [blockSeq, blockSeq, blockSeq, blockSeq] } with
        group.lostFlits := s.group.lostFlits ++ flits.map fun f => ⟨port, blockSeq, f⟩ })
    ∧ (∀ (m f : Nat), s.portState port = 2 → (s.port port).used = true → (s.port port).farModule = m → (s.port port).farPort = f →
      (s.port port).trips.length < 64 → exec (.linkHello port s.group.ident m f) s = .next (s.updPort port fun x => { x with hello := true }))
    ∧ (∀ (g m f : Nat), s.portState port = 2 ∨ s.portState port = 3 → g ≠ s.group.ident → s.errors.depths = [] → s.errors.queue.length < 64 →
      ∃ t, exec (.linkHello port g m f) s = .next t
      ∧ t.portState port = 2 ∧ (t.ports.map (·.hello)).getD port true = false ∧ t.errors.seq = s.errors.seq + 1)
    ∧ (∀ (tx rx arrival : Nat) (l : List Nat), s.group.parent ≠ some port →
      l = ((s.port port).trips ++ ((s.port port).roundTrip tx rx arrival).toList).drop ((s.port port).trips.length + 1 - 64) →
      (s.portState port = 4 → exec (.timeSync port tx rx arrival) s = .next (s.updPort port fun x => { x with lastTx := tx, lastRx := arrival, trips := l }))
      ∧ (s.portState port = 2 → (s.port port).hello = true → l.length = 64 → l.sum ≤ 128 * 8000 → s.group.joining = none → s.groupMember = false →
        exec (.timeSync port tx rx arrival) s = .next (s.updPort port fun x =>
          { x with lastTx := tx, lastRx := arrival, trips := l, state := 3, delay := l.sum / 128 })))
    ∧ (∀ cage < 4, s.cages.length = 4 →
      (∀ info : CageInfo, (s.cages.map (·.module)).getD cage true = false → ∃ t, exec (.cageModuleInserted cage info) s = .next t
        ∧ (t.cages.map (·.module)).getD cage false = true ∧ (t.cages.map (·.ident)).getD cage 0 = info.ident
        ∧ (t.cages.map (·.powerClass)).getD cage 0 = info.powerClass
        ∧ (t.cages.map (·.lowPower)).getD cage false = (decide (info.powerClass > 4) || s.regs.shelter)
        ∧ (info.powerClass ≤ 4 → t.errors = s.errors)
        ∧ (info.powerClass > 4 → s.errors.depths = [] → s.errors.queue.length < 64 → t.errors.seq = s.errors.seq + 1 ∧ t.ports = s.ports))
      ∧ ((s.cages.map (·.module)).getD cage false = true →
        (∃ t, exec (.cageModuleRemoved cage) s = .next t ∧ (t.cages.map (·.module)).getD cage true = false ∧ t.portState (2 * cage) = 0
          ∧ t.portState (2 * cage + 1) = 0)
        ∧ (s.errors.depths = [] → s.errors.queue.length < 64 → ∃ t, exec (.cmisHighAlarm cage) s = .next t
          ∧ (t.cages.map (·.lowPower)).getD cage false = true ∧ t.portState (2 * cage) = 0 ∧ t.portState (2 * cage + 1) = 0
          ∧ t.errors.seq = s.errors.seq + 1)))

/-- A control message that is new is passed on to the other ports and acted on: HEARTBEAT, SHED_STAGE, BARRIER, COMMIT, PORT_DOWN, PORT_UP
and LEADER are noted, the SWITCH messages move the proposal, the EPOCH messages the placement move, LEND the loan, and LEAVE loses the
module. -/
def Obligations.ControlMessagesAct : Prop :=
  ∀ (s : State) (port : Nat) (msg : Bytes),
    (s.hears? 0x03 port msg = true → exec (.heartbeat port msg) s = .next { s.noted port msg with
      group.heard := setAssoc s.group.heard (field msg 2 2) s.clock.round
      group.stages := setAssoc s.group.stages (field msg 2 2) (byteAt msg 0x10) })
    ∧ (s.hears? 0x04 port msg = true → s.acceptable (field msg 0x10 8) (byteAt msg 0x1C % 2 == 1) = true →
      ∃ t, exec (.switchPropose port msg) s = .next t ∧ t.sw.state = 2 ∧ t.sw.ident = field msg 0x10 8 ∧ t.sw.leading = false
        ∧ (s.group.joining = none → t.sw.atRound = field msg 8 8 + field msg 0x18 4))
    ∧ (s.sw.leading = true → s.switching = true → field msg 0x10 8 = s.sw.ident →
      (s.hears? 0x05 port msg = true → exec (.switchAccept port msg) s = .next { s.noted port msg with sw.accepts := s.sw.accepts ++ [field msg 2 2] })
      ∧ (s.hears? 0x06 port msg = true →
        exec (.switchRefuse port msg) s = .next { s.noted port msg with sw.refusals := s.sw.refusals ++ [field msg 2 2] }))
    ∧ (s.hears? 0x07 port msg = true → s.switching = true → field msg 0x10 8 = s.sw.ident → s.sw.msg = none → s.sw.refused = none →
      exec (.switchAbort port msg) s = .next { s.noted port msg with sw.state := 1, sw.leading := false })
    ∧ (s.hears? 0x08 port msg = true → exec (.shedStage port msg) s = .next { s.noted port msg with
      group.stages := setAssoc s.group.stages (field msg 2 2) (byteAt msg 0x10) })
    ∧ (s.hears? 0x09 port msg = true → s.group.barriers = [] → s.group.barred = [] → exec (.barrier port msg) s = .next { s.noted port msg with
      group.barriers := [(field msg 0x10 4, field msg 0x14 4, 1)] })
    ∧ (s.hears? 0x0A port msg = true → exec (.commit port msg) s = .next ((s.noted port msg).onCommit (field msg 0x10 2) (field msg 0x18 8)))
    ∧ (∀ c : Collection, s.hears? 0x0A port msg = true → s.coll? (field msg 0x10 2) = some c → c.home = s.group.index →
      exec (.commit port msg) s = .next { s.noted port msg with
        group.commits := s.group.commits ++ [(field msg 0x10 2, field msg 0x18 8, s.clock.groupTime)] })
    ∧ (s.hears? 0x0B port msg = true → s.group.moves = [] → ∃ t x, exec (.epochOpen port msg) s = .next t ∧ t.group.moves = [x]
      ∧ x.coll = field msg 0x10 2 ∧ x.part = field msg 0x12 4 ∧ x.epoch = field msg 0x16 4 ∧ x.src = field msg 2 2 ∧ x.dst = field msg 0x1A 2
      ∧ x.opens = field msg 8 8 + field msg 0x1C 2 ∧ x.sent = false ∧ x.came = false ∧ x.drain = 0)
    ∧ (∀ x : MoveOp, s.group.moves = [x] → x.coll = field msg 0x10 2 → x.part = field msg 0x12 4 →
      (s.hears? 0x0C port msg = true → exec (.epochReady port msg) s = .next { s.noted port msg with
        group.moves := [{ x with bothAt := some (field msg 8 8 + field msg 0x1C 2), copied := true }] })
      ∧ (s.hears? 0x0D port msg = true → exec (.epochClose port msg) s = .next { s.noted port msg with
        group.moves := [{ x with closes := some (field msg 8 8 + field msg 0x1C 2) }] }))
    ∧ (∀ l : Loan, s.hears? 0x0E port msg = true → byteAt msg 0x10 = 2 → field msg 0x14 2 = s.group.index → s.mem.loans = [l] → l.peer = field msg 2 2 →
      l.window = byteAt msg 0x11 → exec (.lend port msg) s = .next { s.noted port msg with
        mem.loans := [{ l with stop := some (field msg 8 8 + field msg 0x16 4) }] })
    ∧ (s.hears? 0x0F port msg = true → exec (.portDown port msg) s = .next { s.noted port msg with group.brokenFrom := s.group.brokenFrom
      ++ [(s.clock.round + 1, field msg 0x10 2, byteAt msg 0x12), (s.clock.round + 1, field msg 0x13 2, byteAt msg 0x15)] })
    ∧ (s.hears? 0x10 port msg = true → ∃ t, exec (.portUp port msg) s = .next t ∧ t.group.upFrom = s.group.upFrom
      ++ [(field msg 8 8 + field msg 0x1C 4, field msg 0x10 2, byteAt msg 0x12), (field msg 8 8 + field msg 0x1C 4, field msg 0x13 2, byteAt msg 0x15)]
      ∧ t.ports.map (·.state) = s.ports.map (·.state))
    ∧ (s.hears? 0x11 port msg = true → field msg 0x10 2 ≠ s.group.index → s.group.lost.contains (field msg 0x10 2) = false → s.rings.cmds = [] →
      s.colls = [] → ∃ t, exec (.leave port msg) s = .next t ∧ t.group.lost = field msg 0x10 2 :: s.group.lost)
    ∧ (s.hears? 0x12 port msg = true → exec (.leader port msg) s = .next { s.noted port msg with
      group.leaderFrom := some (field msg 8 8 + field msg 0x12 4, field msg 0x10 2) })

/-- The group's own events: a silent module is lost, a copied placement is announced with its round, a module without a time parent or a
leader leaves the group; transfers received wait for the next round, a bulk write of a borrower reaches its window, and the slots send
what is due. A round start of a block with nothing under way begins the next round at its tick. -/
def Obligations.GroupEventsAndSlotsAct : Prop :=
  ∀ s : State,
    (∀ m < s.group.size, s.groupMember = true → m ≠ s.group.index → s.group.lost.contains m = false →
      assoc s.group.heard m + 24 + s.active.hops < s.clock.round → s.rings.cmds = [] → s.colls = [] →
      ∃ t, exec (.moduleLost m) s = .next t ∧ t.group.lost = m :: s.group.lost)
    ∧ (∀ (coll part : Nat) (x : MoveOp), s.group.moves = [x] → x.coll = coll → x.part = part → x.dst = s.group.index → x.opens ≤ s.clock.round →
      x.came = true → x.copied = false → s.power.applied < 2 → assoc s.group.stages x.src < 2 → s.compUp Component.fabric = true →
      exec (.placementCopyDone coll part) s = .next (({ s with
        group.moves := [{ x with copied := true, bothAt := some (s.clock.round + 1 + (s.active.hops + 1)) }] }).layout.announce 0x0C
          (toLe 2 coll ++ toLe 4 part ++ toLe 4 x.epoch ++ toLe 2 x.dst ++ toLe 2 (s.active.hops + 1))))
    ∧ (s.groupMember = true → s.rings.cmds = [] →
      (s.group.parent = none → s.group.leader ≠ s.group.index → 64 ≤ s.group.orphan →
        ∃ t, exec .timeParentTimeout s = .next t ∧ t.group.size = 1 ∧ t.group.leader = s.group.index ∧ t.mem.loans = [])
      ∧ (64 ≤ s.group.noLeader → ∃ t, exec .leaderSearchTimeout s = .next t ∧ t.group.size = 1 ∧ t.mem.loans = []))
    ∧ (∀ (port : Nat) (flow : Flow), port < 8 → s.portState port = 4 →
      (flow.load.slot = 1 → exec (.fanOutTransferReceived port flow) s = .next { s with
        group.hops := s.group.hops ++ [{ slot := 1, inPort := port, round := s.clock.round, flow := flow, gone := 0 }]
        regs.asleep := s.regs.asleep && flow.dst != s.group.index })
      ∧ (flow.load.slot = 2 → exec (.returnTransferReceived port flow) s = .next { s with
        group.hops := s.group.hops ++ [{ slot := 2, inPort := port, round := s.clock.round, flow := flow, gone := 0 }] })
      ∧ (flow.load.slot = 3 → flow.dst ≠ s.group.index → exec (.bulkTransferReceived port flow) s = .next { s with
        group.hops := s.group.hops ++ [{ slot := 3, inPort := port, round := s.clock.round, flow := flow, gone := 0 }] })
      ∧ (∀ (l : Loan) (r offset : Nat) (rest : List Nat) (data : Bytes), l.regions = r :: rest → flow.load = .bulk 0 l.window offset data →
        flow.dst = s.group.index → s.mem.loans = [l] → l.borrow = false → l.opened = true → l.peer = flow.src → offset + data.length ≤ l.gib * 2 ^ 30 →
        exec (.bulkTransferReceived port flow) s = .next (s.writeT1 (r * 2 ^ 30 + offset) data)))
    ∧ (s.regs.ready = true →
      (s.group.hops = [] → ∀ sent : Nat → State, (∀ k, sent k = s.active.slots.foldl (fun (t : State) (x : TtSlot) =>
          if x.kind == k then t.slotReports x else t) s) →
        exec .fanOutSlot s = .next (sent 1) ∧ exec .returnSlot s = .next (sent 2)
        ∧ (2 ≤ s.power.applied ∨ (s.rings.cmds = [] ∧ s.comp.runs = [] ∧ ∀ p ∈ s.ports, p.again = []) →
          exec .bulkSlot s = .next ((sent 3).releaseWait .bulk)))
      ∧ (∀ (h : Hop) (slot : TtSlot) (e : List Nat) (p : Nat), s.group.hops = [h] → h.flow.load.slot = h.slot → h.slot = 1 ∨ h.slot = 2 →
        h.flow.dst ≠ s.group.index → (h.inPort = 255 ∨ h.round < s.clock.round) →
        s.active.slotEntry h.slot h.flow.src h.flow.dst h.inPort = some (slot, e) → e.getD 4 0 = p → s.portState p = 4 → (s.port p).kept = [] →
        0 < e.getD 3 0 →
        ∃ t, exec (if h.slot = 1 then .fanOutSlot else .returnSlot) s = .next t ∧ t.group.hops = [] ∧ t.group.sentHops = s.group.sentHops ++ [(p, h)])
      ∧ (∀ (m : Ctrl) (rest : List Ctrl) (p : Nat), s.group.toSend = m :: rest → (m.inPort ≠ 255 ∨ m.sent ≤ s.clock.round) → p < 8 →
        s.portState p = 4 → p ≠ m.inPort → 0 < s.active.controlRoom → ∃ t, exec .controlSlot s = .next t ∧ (p, m) ∈ t.group.sent)
      ∧ (s.group.lostFlits = [] → s.ports.length = 8 →
        ∃ t, exec .replaySlot s = .next t ∧ t.group = s.group ∧ t.ports.length = 8 ∧ (∀ p ∈ t.ports, p.nacks = [] ∧ p.kept = [])
          ∧ ∀ p < 8, (t.port p).resent.length ≤ s.active.replayRoom p)
      ∧ (s.quiet → ∃ t, exec .roundStart s = .next t ∧ t.clock.round = s.clock.round + 1
        ∧ t.clock.groupTime = max s.clock.groupTime (s.roundTick (s.clock.round + 1)) ∧ t.host = s.host ∧ t.mem.hbm = s.mem.hbm))

/-! ### Numbers, records and order -/

/-- No conversion to a K format gives negative zero or a subnormal pattern: a code whose exponent field is 0 is the all-zeros code or
NaR, which has the sign and every fraction bit set; zero converts to the all-zeros code. -/
def Obligations.KCodesAreCanonical : Prop :=
  ∀ (f : Fmt) (p : KParams) (v : Val) (mode r ovf : Nat), f.k? = some p →
    (encode f v mode r ovf).1 < 2 ^ (p.ew + p.fw + 1)
      ∧ ((encode f v mode r ovf).1 / 2 ^ p.fw % 2 ^ p.ew = 0 →
        (encode f v mode r ovf).1 = 0 ∨ (encode f v mode r ovf).1 = 2 ^ (p.ew + p.fw) + (2 ^ p.fw - 1))
      ∧ ∀ e : Int, encode f (.fin 0 e) mode r ovf = (0, {})

/-- Decoding and encoding agree on every canonical code of every K format, in every rounding mode: the value of a code converts back to
that code, with no flag. -/
def Obligations.KCodesRoundTrip : Prop :=
  ∀ (f : Fmt) (p : KParams) (c mode r ovf : Nat), f.k? = some p → c < 2 ^ (p.ew + p.fw + 1) →
    (c / 2 ^ p.fw % 2 ^ p.ew ≠ 0 → encode f (decode f c) mode r ovf = (c, {}))
      ∧ encode f (decode f 0) mode r ovf = (0, {})
      ∧ (encode f (decode f (2 ^ (p.ew + p.fw) + (2 ^ p.fw - 1))) mode r ovf).1 = 2 ^ (p.ew + p.fw) + (2 ^ p.fw - 1)

/-- rank_key is the function of R110's pseudocode; it orders finite binary32 distances as their values, never gives all ones for one of
them, and gives all ones for NaR. -/
def Obligations.RankKeyOrdersDistances : Prop :=
  (∀ (nar : Bool) (b : BitVec 32), rankKey nar b.toNat = (if nar then 0xFFFFFFFF#32 else
      let f := if b = 0x80000000#32 then 0#32 else b
      if f &&& 0x80000000#32 ≠ 0#32 then ~~~f else f ||| 0x80000000#32).toNat)
    ∧ ∀ (f g : Nat) (m n e x : Int), f < 2 ^ 32 → g < 2 ^ 32 → decodeF32 f = .fin m e → decodeF32 g = .fin n x →
      ((m : ℚ) * 2 ^ e < (n : ℚ) * 2 ^ x ↔ rankKey false f < rankKey false g)
        ∧ ((m : ℚ) * 2 ^ e = (n : ℚ) * 2 ^ x ↔ rankKey false f = rankKey false g)
        ∧ rankKey false f ≠ 0xFFFFFFFF

/-- A record that arrives at a full queue displaces the oldest queued record of lower severity whose flags[2] is clear, and is dropped
where there is none; either way one more is counted, up to 0xFFFFFFFF. A record that arrives at a queue with room is put last. The queue
never holds more than 64, and no other part of the state changes. -/
def Obligations.FullErrorQueueDisplaces : Prop :=
  ∀ (s : State) (r : ErrRec), s.errors.queue.length ≤ 64 →
    ∃ e : Errors, s.enqueueRecord r = { s with errors := e } ∧ e.queue.length ≤ 64
      ∧ (s.errors.queue.length < 64 → ∃ y : ErrRec, e.queue = s.errors.queue ++ [y] ∧ y.code = r.code ∧ y.severity = r.severity
        ∧ y.seq = s.errors.seq + 1 ∧ e.overflow = s.errors.overflow)
      ∧ (s.errors.queue.length = 64 → e.overflow = min 0xFFFFFFFF (s.errors.overflow + 1)
        ∧ ((∀ x ∈ s.errors.queue, r.severity ≤ x.severity ∨ x.flags / 4 % 2 = 1) → e.queue = s.errors.queue)
        ∧ (∀ (before after : List ErrRec) (v : ErrRec), s.errors.queue = before ++ v :: after →
          (∀ x ∈ before, r.severity ≤ x.severity ∨ x.flags / 4 % 2 = 1) → v.severity < r.severity → v.flags / 4 % 2 = 0 →
          (∀ x ∈ before ++ after, x.seq ≠ v.seq) → ∃ y : ErrRec, e.queue = before ++ after ++ [y] ∧ y.code = r.code ∧ y.severity = r.severity))
end

