-- ==== Sys2Proof/Laws/Frames.lean ====
section
/-!
SUPPORT. What the shared operations may touch: messages from the device, error records and completions; and what the outcome forms
answer.
-/

namespace Sys2Proof.Machine

/-! ### The relations -/

theorem State.mailOnly.rfl' (s : State) : s.mailOnly s := rfl
theorem State.mailOnly.trans {s t u : State} (h : s.mailOnly t) (k : t.mailOnly u) : s.mailOnly u := by
  unfold State.mailOnly at *
  rw [k, h]

theorem State.endOnly.rfl' (s : State) : s.endOnly s := rfl
theorem State.endOnly.trans {s t u : State} (h : s.endOnly t) (k : t.endOnly u) : s.endOnly u := by
  unfold State.endOnly at *
  rw [k, h]

/-! ### Messages from the device -/

theorem State.hostWrite_mailOnly (s : State) (a : Nat) (b : Bytes) : s.mailOnly (s.hostWrite a b) := rfl

theorem State.signal_eq (s : State) (v : Nat) : s.signal v = { s with msix := (s.signal v).msix } := by
  unfold State.signal
  split <;> rfl

theorem State.signal_mailOnly (s : State) (v : Nat) : s.mailOnly (s.signal v) := by
  rw [State.signal_eq]
  rfl

theorem State.writeCells_mailOnly (s : State) (b : Bytes) (n : Nat) : s.mailOnly (s.writeCells b n) := rfl

theorem State.padCells_mailOnly (s : State) (n : Nat) : s.mailOnly (s.padCells n) := by
  unfold State.padCells
  dsimp only
  split
  · exact State.writeCells_mailOnly _ _ _
  · rfl

theorem State.mailOnly_seqOut {s t : State} (h : s.mailOnly t) (n : Nat) : s.mailOnly { t with mail.seqOut := n } := by
  unfold State.mailOnly at *
  rw [h]

theorem State.wakeWatcher_mailOnly (s : State) : s.mailOnly s.wakeWatcher := rfl

theorem State.putMessage_mailOnly (s : State) (m : OutMsg) : s.mailOnly (s.putMessage m) := by
  unfold State.putMessage
  exact (State.mailOnly_seqOut ((((State.padCells_mailOnly _ _).trans (State.writeCells_mailOnly _ _ _)).trans
    (State.hostWrite_mailOnly _ _ _)).trans (State.signal_mailOnly _ _)) _).trans (State.wakeWatcher_mailOnly _)

theorem State.mailOnly_queue {s t : State} (h : s.mailOnly t) (q : List OutMsg) : s.mailOnly { t with mail.queue := q } := by
  unfold State.mailOnly at *
  rw [h]

theorem State.drainQueue_mailOnly (n : Nat) (s : State) : s.mailOnly (State.drainQueue n s) := by
  induction n generalizing s with
  | zero => rfl
  | succ n ih =>
    unfold State.drainQueue
    split
    · rfl
    · split
      · exact (State.mailOnly_queue (State.putMessage_mailOnly _ _) _).trans (ih _)
      · rfl

theorem State.mailOnly_errors {s t : State} (h : s.mailOnly t) (q : List ErrRec) : s.mailOnly { t with errors.queue := q } := by
  unfold State.mailOnly at *
  rw [h]

theorem State.sendReports_mailOnly (l : List ErrRec) (s : State) : s.mailOnly (State.sendReports l s) := by
  induction l generalizing s with
  | nil => rfl
  | cons r l ih =>
    unfold State.sendReports
    split
    · exact ih s
    · split
      · exact (State.mailOnly_errors (State.putMessage_mailOnly _ _) _).trans (ih _)
      · rfl

theorem State.flushMail_mailOnly (s : State) : s.mailOnly s.flushMail := by
  unfold State.flushMail
  split
  · rfl
  · dsimp only
    split
    · exact (State.drainQueue_mailOnly _ _).trans (State.sendReports_mailOnly _ _)
    · exact State.drainQueue_mailOnly _ _

theorem State.send_mailOnly (s : State) (m : OutMsg) : s.mailOnly (s.send m) := by
  unfold State.send
  split
  · rfl
  · have h := State.flushMail_mailOnly { s with mail.queue := s.mail.queue ++ [m] }
    unfold State.mailOnly at *
    exact h

/-- A message that the device sends touches only the mailbox, host memory, MSI-X and the reported marks. -/
theorem State.reply_mailOnly (s : State) (type seq : Nat) (b : Bytes) : s.mailOnly (s.reply type seq b) := by
  unfold State.reply
  have h := State.send_mailOnly { s with mail.awaiting := s.mail.awaiting.filter fun a => a.seq != seq } ⟨type, seq, 0, 1, b⟩
  unfold State.mailOnly at *
  exact h

theorem State.refuse_mailOnly (s : State) (type seq code off reason : Nat) : s.mailOnly (s.refuse type seq code off reason) := by
  unfold State.refuse
  have h := State.send_mailOnly { s with mail.awaiting := s.mail.awaiting.filter fun a => a.seq != seq }
    ⟨type, seq, code, 1, toLe 4 off ++ toLe 4 reason ++ zeros 8⟩
  unfold State.mailOnly at *
  exact h

theorem State.replyLater_mailOnly (s : State) (type : Nat) (seq : Option Nat) (b : Bytes) : s.mailOnly (s.replyLater type seq b) := by
  unfold State.replyLater
  split
  · rfl
  · split
    · exact State.reply_mailOnly _ _ _ _
    · rfl

theorem State.refuseLater_mailOnly (s : State) (type : Nat) (seq : Option Nat) (code off reason : Nat) :
    s.mailOnly (s.refuseLater type seq code off reason) := by
  unfold State.refuseLater
  split
  · rfl
  · split
    · exact State.refuse_mailOnly _ _ _ _ _ _
    · rfl

theorem State.takeMessage_mailOnly (s : State) (f : MsgForm) (cells : Bytes) : s.mailOnly (s.takeMessage f cells) := rfl

/-! ### Completions -/

theorem State.mailOnly.endOnly_signal (s : State) (v : Nat) : s.endOnly (s.signal v) := by
  rw [State.signal_eq]
  rfl

theorem State.hostWrite_endOnly (s : State) (a : Nat) (b : Bytes) : s.endOnly (s.hostWrite a b) := rfl
theorem State.updCq_endOnly (s : State) (n : Nat) (f : CmpRing → CmpRing) : s.endOnly (s.updCq n f) := rfl
theorem State.updSq_endOnly (s : State) (n : Nat) (f : SubRing → SubRing) : s.endOnly (s.updSq n f) := rfl
theorem State.updCmd_endOnly (s : State) (n : Nat) (f : Cmd → Cmd) : s.endOnly (s.updCmd n f) := rfl
theorem State.dropCmd_endOnly (s : State) (n : Nat) : s.endOnly (s.dropCmd n) := rfl

theorem State.coalesce_endOnly (s : State) (n : Nat) : s.endOnly (s.coalesce n) := by
  unfold State.coalesce
  split
  · rfl
  · split
    · rw [State.signal_eq]
      rfl
    · rfl

theorem State.writeEntry_endOnly (s : State) (q : CmpRing) (r : Result) (tag sq : Nat) : s.endOnly (s.writeEntry q r tag sq) := by
  unfold State.writeEntry
  exact ((State.hostWrite_endOnly _ _ _).trans (State.updCq_endOnly _ _ _)).trans (State.coalesce_endOnly _ _)

theorem State.stage_endOnly (s : State) (c : Cmd) (r : Result) : s.endOnly (s.stage c r) := by
  unfold State.stage
  dsimp only
  split <;> (try split) <;> (repeat' split) <;> rfl

theorem State.journalDone_endOnly (s : State) (c : Cmd) : s.endOnly (s.journalDone c) := by
  unfold State.journalDone
  split <;> rfl

/-- A command off the list, its journal parts marked. -/
theorem State.release_endOnly (s : State) (c : Cmd) : s.endOnly ((s.dropCmd c.cid).journalDone c) :=
  (State.dropCmd_endOnly _ _).trans (State.journalDone_endOnly _ _)

theorem State.post_endOnly (s : State) (c : Cmd) (r : Result) : s.endOnly (s.post c r) := by
  unfold State.post
  dsimp only
  split
  · exact (State.release_endOnly _ _).trans (State.stage_endOnly _ _ _)
  · split
    · exact (State.release_endOnly _ _).trans (State.stage_endOnly _ _ _)
    · exact ((State.release_endOnly _ _).trans (State.updSq_endOnly _ _ _)).trans (State.writeEntry_endOnly _ _ _ _ _)

theorem State.foldl_endOnly {α : Type} (f : State → α → State) (h : ∀ s a, State.endOnly s (f s a)) (l : List α) (s : State) :
    s.endOnly (l.foldl f s) := by
  induction l generalizing s with
  | nil => rfl
  | cons a l ih => exact (h s a).trans (ih _)

theorem State.memberHeaders_endOnly (s : State) (q : QueryWork) (n : Nat) : s.endOnly (s.memberHeaders q n) := by
  unfold State.memberHeaders
  refine State.foldl_endOnly _ (fun s m => ?_) _ _
  dsimp only
  split
  · rfl
  · exact State.hostWrite_endOnly _ _ _

theorem State.endQuery_endOnly (s : State) (c : Cmd) (r : Result) : s.endOnly (s.endQuery c r).1 := by
  unfold State.endQuery
  split
  · dsimp only
    split
    · exact State.memberHeaders_endOnly _ _ _
    · rfl
  · rfl

/-- A completion touches only rings, host memory, MSI-X and staging. -/
theorem State.complete_endOnly (s : State) (cid : Nat) (r : Result) : s.endOnly (s.complete cid r) := by
  unfold State.complete
  split
  · rfl
  · dsimp only
    split
    · exact (State.endQuery_endOnly _ _ _).trans (State.post_endOnly _ _ _)
    · exact (State.endQuery_endOnly _ _ _).trans rfl

/-! ### Outcomes -/

@[simp] theorem event_true (s t : State) : event s true t = .next t := rfl

/-- An event either happens or is passed over. -/
theorem event_cases {s t u : State} {ok : Bool} (h : event s ok t = .next u) : (ok = true ∧ u = t) ∨ (ok = false ∧ u = s) := by
  cases ok <;> simp_all [event]

/-- What a supported driver asks either happens or is passed over. -/
theorem asked_cases {s t u : State} {ok : Bool} (h : asked s ok t = .next u) :
    s.supported = true ∧ ((ok = true ∧ u = t) ∨ (ok = false ∧ u = s)) := by
  unfold asked at h
  split at h
  · rename_i hs
    exact ⟨hs, event_cases h⟩
  · cases h

/-- Where the shelter flag does not rise, a settled step is the step itself. -/
theorem State.settled_same {s t : State} (h : t.regs.shelter = s.regs.shelter) : s.settled t = t := by
  unfold State.settled
  rw [h]
  cases s.regs.shelter <;> rfl

/-- A message row whose message the device takes and accepts. -/
theorem messageEvent_takes {s : State} {f : MsgForm} {cells : Bytes} {reserved : List (Nat × Nat × Nat)} {bad : Option Nat}
    {run : State → Nat → State} (h : s.takes f cells reserved = true) (hb : bad = none) :
    messageEvent s f cells reserved true bad run = .next (s.settled (run (s.takeMessage f cells) (seqOf cells))) := by
  subst hb
  simp only [State.takes, Bool.and_eq_true, Bool.not_eq_true', Bool.or_eq_true, decide_eq_true_eq] at h
  obtain ⟨⟨⟨⟨⟨⟨⟨⟨⟨h1, h2⟩, h3⟩, h4⟩, h5⟩, h6⟩, h7⟩, h8⟩, h9⟩, h10⟩ := h
  have h8 : msgFault f.bodyEnd reserved (msgBytes cells) = none := by simpa using h8
  have h9 : (s.regs.shelter && !f.shelterOk) = false := by rcases h9 with h | h <;> simp [h]
  simp [messageEvent, asked, event, h1, h2, h3, h4, h5, h6, h7, State.message, h8, h9, h10, seqOf]

end Sys2Proof.Machine
end

