-- ==== Sys2Proof/Laws/Memory.lean ====
section
/-!
SUPPORT. The memories: what a read after a write gives, and that every memory operation keeps the canonical form.
-/

namespace Sys2Proof.Machine

/-! ### Reads after writes -/

/-- Every listed address lies at or above a bound. -/
def Mem.above (m : List Host.Cell) (k : Nat) : Prop := ∀ c ∈ m, k ≤ c.1

theorem Mem.get_above (m : List Host.Cell) (k : Nat) (h : Mem.above m (k + 1)) : Mem.get m k = 0 := by
  induction m with
  | nil => rfl
  | cons c r ih =>
    have h1 : k + 1 ≤ c.1 := h c (by simp)
    have h2 : (c.1 == k) = false := by simp; omega
    have h3 : Mem.above r (k + 1) := fun x hx => h x (by simp [hx])
    simp [Mem.get, h2, ih h3]

/-- The canonical form of a list with a first cell. -/
theorem Mem.wf_cons (a : Nat) (v : Byte) (r : List Host.Cell) :
    Mem.wf ((a, v) :: r) = true ↔ v ≠ 0 ∧ Mem.above r (a + 1) ∧ Mem.wf r = true := by
  simp only [Mem.wf, Mem.above, List.pairwise_cons, List.all_cons, Bool.and_eq_true, decide_eq_true_eq, bne_iff_ne, Nat.succ_le_iff]
  tauto

/-- A byte written reads back, and every other byte reads as before. -/
theorem Mem.get_put (m : List Host.Cell) (k j : Nat) (v : Byte) (h : Mem.wf m = true) :
    Mem.get (Mem.put m k v) j = if j = k then v else Mem.get m j := by
  induction m with
  | nil =>
    by_cases hv : v = 0#8
    · subst hv; simp [Mem.put, Mem.get]
    · by_cases hj : j = k
      · subst hj; simp [Mem.put, Mem.get, hv]
      · simp [Mem.put, Mem.get, hv, hj, Ne.symm hj]
  | cons c r ih =>
    obtain ⟨a, w⟩ := c
    obtain ⟨-, hr, hwf⟩ := (Mem.wf_cons a w r).1 h
    have hg : ∀ n, n ≤ a → Mem.get r n = 0 := fun n hn => Mem.get_above r n fun x hx => by have := hr x hx; omega
    rcases Nat.lt_trichotomy k a with hk | rfl | hk
    · have hka : (k == a) = false := by simp; omega
      by_cases hv : v = 0#8
      · subst hv
        by_cases hj : j = k
        · subst hj
          have : (a == j) = false := by simp; omega
          simp [Mem.put, Mem.get, hk, this, hg j (by omega)]
        · simp [Mem.put, hk, hj]
      · by_cases hj : j = k
        · subst hj; simp [Mem.put, Mem.get, hk, hv]
        · have : (k == j) = false := by simp; omega
          simp [Mem.put, Mem.get, hk, hv, hj, this]
    · by_cases hv : v = 0#8
      · subst hv
        by_cases hj : j = k
        · subst hj; simp [Mem.put, hg j (by omega)]
        · have : (k == j) = false := by simp; omega
          simp [Mem.put, Mem.get, hj, this]
      · by_cases hj : j = k
        · subst hj; simp [Mem.put, Mem.get, hv]
        · have : (k == j) = false := by simp; omega
          simp [Mem.put, Mem.get, hv, hj, this]
    · have h1 : ¬ k < a := by omega
      have h2 : (k == a) = false := by simp; omega
      by_cases hj : j = a
      · subst hj
        have : j ≠ k := by omega
        simp [Mem.put, Mem.get, h1, h2, this]
      · have : (a == j) = false := by simp; omega
        simp [Mem.put, Mem.get, h1, h2, this, ih hwf]

theorem Mem.above_put (m : List Host.Cell) (k b : Nat) (v : Byte) (h : Mem.above m b) (hb : b ≤ k) : Mem.above (Mem.put m k v) b := by
  induction m with
  | nil => by_cases hv : v = 0#8 <;> simp [Mem.put, Mem.above, hv, hb]
  | cons c r ih =>
    obtain ⟨a, w⟩ := c
    have h1 : b ≤ a := h (a, w) (by simp)
    have h2 : Mem.above r b := fun x hx => h x (by simp [hx])
    have h3 := ih h2
    unfold Mem.put
    split
    · split
      · exact h
      · intro x hx
        rcases List.mem_cons.1 hx with rfl | hx
        · exact hb
        · exact h x hx
    · split
      · split
        · exact h2
        · intro x hx
          rcases List.mem_cons.1 hx with rfl | hx
          · exact hb
          · exact h2 x hx
      · intro x hx
        rcases List.mem_cons.1 hx with rfl | hx
        · exact h1
        · exact h3 x hx

/-- A write of one byte keeps the canonical form. -/
@[simp] theorem Mem.wf_put (m : List Host.Cell) (k : Nat) (v : Byte) (h : Mem.wf m = true) : Mem.wf (Mem.put m k v) = true := by
  induction m with
  | nil => by_cases hv : v = 0#8 <;> simp [Mem.put, Mem.wf, hv]
  | cons c r ih =>
    obtain ⟨a, w⟩ := c
    obtain ⟨h0, h1, h2⟩ := (Mem.wf_cons a w r).1 h
    unfold Mem.put
    split
    · split
      · exact h
      · rename_i hk hv
        refine (Mem.wf_cons _ _ _).2 ⟨by simpa using hv, ?_, h⟩
        intro x hx
        rcases List.mem_cons.1 hx with rfl | hx
        · simpa using hk
        · have := h1 x hx; omega
    · split
      · rename_i hk he
        have he : k = a := by simpa using he
        subst he
        split
        · exact h2
        · rename_i hv
          exact (Mem.wf_cons _ _ _).2 ⟨by simpa using hv, h1, h2⟩
      · rename_i hk he
        have he : k ≠ a := by simpa using he
        exact (Mem.wf_cons _ _ _).2 ⟨h0, Mem.above_put r k (a + 1) v h1 (by omega), ih h2⟩

/-- A write of a byte string keeps the canonical form. -/
@[simp] theorem Mem.wf_write (m : List Host.Cell) (a : Nat) (b : Bytes) (h : Mem.wf m = true) : Mem.wf (Mem.write m a b) = true := by
  induction b generalizing m a with
  | nil => exact h
  | cons x r ih => exact ih _ _ (Mem.wf_put m a x h)

/-- What a read gives after a byte string is written: its bytes within it, and what stood there outside it. -/
theorem Mem.get_write (m : List Host.Cell) (a : Nat) (b : Bytes) (j : Nat) (h : Mem.wf m = true) :
    Mem.get (Mem.write m a b) j = if a ≤ j ∧ j < a + b.length then b.getD (j - a) 0 else Mem.get m j := by
  induction b generalizing m a with
  | nil => simp [Mem.write]
  | cons x r ih =>
    rw [Mem.write, ih _ _ (Mem.wf_put m a x h), Mem.get_put m a j x h]
    by_cases h1 : j = a
    · subst h1; simp
    · by_cases h2 : a + 1 ≤ j ∧ j < a + 1 + r.length
      · have h3 : a ≤ j ∧ j < a + (x :: r).length := by simp; omega
        have h4 : j - a = (j - (a + 1)) + 1 := by omega
        rw [if_pos h2, if_pos h3, h4]
        rfl
      · have h3 : ¬ (a ≤ j ∧ j < a + (x :: r).length) := by simp; omega
        rw [if_neg h2, if_neg h1, if_neg h3]

/-- Any part of a canonical list is canonical. -/
@[simp] theorem Mem.wf_filter (m : List Host.Cell) (p : Host.Cell → Bool) (h : Mem.wf m = true) : Mem.wf (m.filter p) = true := by
  simp only [Mem.wf, Bool.and_eq_true, decide_eq_true_eq, List.all_eq_true] at h ⊢
  exact ⟨h.1.sublist List.filter_sublist, fun x hx => h.2 x (List.mem_filter.1 hx).1⟩

/-- A range set to zero keeps the canonical form. -/
@[simp] theorem Mem.wf_clear (m : List Host.Cell) (a n : Nat) (h : Mem.wf m = true) : Mem.wf (Mem.clear m a n) = true :=
  Mem.wf_filter m _ h

/-- What a read gives after a range is set to zero. -/
theorem Mem.get_clear (m : List Host.Cell) (a n j : Nat) :
    Mem.get (Mem.clear m a n) j = if a ≤ j ∧ j < a + n then 0 else Mem.get m j := by
  induction m with
  | nil => simp [Mem.clear, Mem.get]
  | cons c r ih =>
    obtain ⟨k, v⟩ := c
    by_cases hk : k < a ∨ a + n ≤ k
    · have : Mem.clear ((k, v) :: r) a n = (k, v) :: Mem.clear r a n := by simp [Mem.clear, hk]
      rw [this]
      by_cases hj : k = j
      · subst hj
        have : ¬ (a ≤ k ∧ k < a + n) := by omega
        simp [Mem.get, this]
      · simp [Mem.get, hj, ih]
    · have : Mem.clear ((k, v) :: r) a n = Mem.clear r a n := by simp [Mem.clear, not_or.1 hk]
      rw [this, ih]
      by_cases hj : k = j
      · subst hj
        have : a ≤ k ∧ k < a + n := by omega
        simp [this]
      · simp [Mem.get, hj]

/-- Equal reads of canonical lists are equal lists: the form is canonical. -/
theorem Mem.ext_wf (m n : List Host.Cell) (hm : Mem.wf m = true) (hn : Mem.wf n = true) (h : ∀ a, Mem.get m a = Mem.get n a) : m = n := by
  induction m generalizing n with
  | nil =>
    cases n with
    | nil => rfl
    | cons c r =>
      obtain ⟨a, v⟩ := c
      have := h a
      have h0 := ((Mem.wf_cons a v r).1 hn).1
      simp [Mem.get] at this
      exact absurd this.symm h0
  | cons c r ih =>
    obtain ⟨a, v⟩ := c
    obtain ⟨h0, h1, h2⟩ := (Mem.wf_cons a v r).1 hm
    cases n with
    | nil =>
      have := h a
      simp [Mem.get] at this
      exact absurd this h0
    | cons d q =>
      obtain ⟨b, w⟩ := d
      obtain ⟨k0, k1, k2⟩ := (Mem.wf_cons b w q).1 hn
      have hab : a = b := by
        rcases Nat.lt_trichotomy a b with hlt | he | hlt
        · have := h a
          have e : (b == a) = false := by simp; omega
          rw [Mem.get, Mem.get, e] at this
          simp at this
          rw [Mem.get_above q a fun x hx => by have := k1 x hx; omega] at this
          exact absurd this h0
        · exact he
        · have := h b
          have e : (a == b) = false := by simp; omega
          rw [Mem.get, Mem.get, e] at this
          simp at this
          rw [Mem.get_above r b fun x hx => by have := h1 x hx; omega] at this
          exact absurd this.symm k0
      subst hab
      have hvw : v = w := by simpa [Mem.get] using h a
      subst hvw
      have : r = q := by
        refine ih q h2 k2 fun x => ?_
        by_cases hx : a = x
        · subst hx
          rw [Mem.get_above r a h1, Mem.get_above q a k1]
        · simpa [Mem.get, hx] using h x
      rw [this]

end Sys2Proof.Machine
end

