-- ==== Sys2Proof/Laws/Shared.lean ====
section
/-!
SUPPORT. What the shared operations do beyond their frames: they keep the memories canonical, an error record touches what a record may,
and a record looked up after it was changed is the changed one.
-/

namespace Sys2Proof.Machine

/-! ### Lookups after an update -/

/-- The first record that a key finds, after the records of that key are changed by a function that keeps the key. -/
theorem find?_updWhere {α : Type} (p : α → Bool) (f : α → α) (hf : ∀ x, p x = true → p (f x) = true) (l : List α) :
    (updWhere p f l).find? p = (l.find? p).map f := by
  induction l with
  | nil => rfl
  | cons x r ih =>
    unfold updWhere at ih ⊢
    by_cases h : p x = true
    · simp [h, hf x h]
    · simp only [List.map_cons, if_neg h, List.find?_cons_of_neg h]
      exact ih

/-- The first record that another key finds is the one it found before, where no record has both keys. -/
theorem find?_updWhere_other {α : Type} (p q : α → Bool) (f : α → α) (hf : ∀ x, q (f x) = q x) (hq : ∀ x, p x = true → q x = false) (l : List α) :
    (updWhere p f l).find? q = l.find? q := by
  induction l with
  | nil => rfl
  | cons x r ih =>
    unfold updWhere at ih ⊢
    by_cases hp : p x = true
    · simp [hp, hf, hq x hp, ih]
    · by_cases hx : q x = true
      · simp [hp, hx]
      · simp only [List.map_cons, if_neg hp, List.find?_cons_of_neg hx]
        exact ih

theorem State.run?_updRun (s : State) (rid : Nat) (f : Run → Run) (hf : ∀ r, (f r).rid = r.rid) :
    (s.updRun rid f).run? rid = (s.run? rid).map f :=
  find?_updWhere _ _ (fun x h => by simpa [hf x] using h) _

theorem Run.core?_updCore (r : Run) (v : Nat) (f : VCore → VCore) (hf : ∀ c, (f c).idx = c.idx) : (r.updCore v f).core? v = (r.core? v).map f :=
  find?_updWhere _ _ (fun x h => by simpa [hf x] using h) _

theorem State.coll?_updColl (s : State) (id : Nat) (f : Collection → Collection) (hf : ∀ c, (f c).cid = c.cid) :
    (s.updColl id f).coll? id = (s.coll? id).map f :=
  find?_updWhere _ _ (fun x h => by simpa [hf x] using h) _

theorem State.cmd?_updCmd (s : State) (cid : Nat) (f : Cmd → Cmd) (hf : ∀ c, (f c).cid = c.cid ∧ (f c).finished = c.finished) :
    (s.updCmd cid f).cmd? cid = (s.cmd? cid).map f := by
  show (updWhere (fun c => c.cid == cid) f s.rings.cmds).find? (fun c => c.cid == cid && !c.finished) = _
  unfold State.cmd?
  generalize s.rings.cmds = l
  induction l with
  | nil => rfl
  | cons x r ih =>
    unfold updWhere at ih ⊢
    obtain ⟨h1, h2⟩ := hf x
    by_cases hc : (x.cid == cid) = true <;> by_cases hx : x.finished = true <;> simp_all

/-- A command that completes is under way no more. -/
theorem State.cmd?_dropCmd (s : State) (cid : Nat) : (s.dropCmd cid).cmd? cid = none := by
  unfold State.cmd? State.dropCmd
  rw [List.find?_eq_none]
  intro c hc
  obtain ⟨d, hd, rfl⟩ := List.mem_map.1 hc
  have := (List.mem_filter.1 hd).2
  split <;> simp_all

/-- The issuing core is a core of its run, whose program holds the instruction. -/
theorem State.issuer_some {s : State} {run core : Nat} {r : Run} {p : Program} {c : VCore} {w : BitVec 64}
    (h : s.issuer run core = some (r, p, c, w)) :
    s.run? run = some r ∧ s.program? r.handle = some p ∧ r.core? core = some c ∧ p.code[c.pc]? = some w ∧ c.ended = false ∧ r.fault = none := by
  unfold State.issuer at h
  simp only [Option.bind_eq_some_iff] at h
  obtain ⟨r', h1, p', h2, c', h3, w', h4, h5⟩ := h
  split at h5
  · rename_i hok
    simp only [Option.some.injEq, Prod.mk.injEq] at h5
    obtain ⟨rfl, rfl, rfl, rfl⟩ := h5
    simp only [Bool.and_eq_true, Bool.not_eq_true', Option.isNone_iff_eq_none] at hok
    exact ⟨h1, h2, h3, h4, hok.1.1.2, hok.1.1.1.1.1⟩
  · cases h5

/-! ### Canonical host memory -/

@[simp] theorem State.hostWrite_hostWf (s : State) (a : Nat) (b : Bytes) (h : Mem.wf s.host = true) : Mem.wf (s.hostWrite a b).host = true :=
  Mem.wf_write _ _ _ h

@[simp] theorem State.signal_host (s : State) (v : Nat) : (s.signal v).host = s.host := by
  rw [State.signal_eq]

theorem State.writeCells_hostWf (s : State) (b : Bytes) (n : Nat) (h : Mem.wf s.host = true) : Mem.wf (s.writeCells b n).host = true :=
  Mem.wf_write _ _ _ h

theorem State.padCells_hostWf (s : State) (n : Nat) (h : Mem.wf s.host = true) : Mem.wf (s.padCells n).host = true := by
  unfold State.padCells
  dsimp only
  split
  · exact State.writeCells_hostWf _ _ _ h
  · exact h

@[simp] theorem State.wakeWatcher_host (s : State) : s.wakeWatcher.host = s.host := rfl

theorem State.putMessage_hostWf (s : State) (m : OutMsg) (h : Mem.wf s.host = true) : Mem.wf (s.putMessage m).host = true := by
  unfold State.putMessage
  dsimp only
  rw [State.wakeWatcher_host, State.signal_host]
  exact State.hostWrite_hostWf _ _ _ (State.writeCells_hostWf _ _ _ (State.padCells_hostWf _ _ h))

theorem State.drainQueue_hostWf (n : Nat) (s : State) (h : Mem.wf s.host = true) : Mem.wf (State.drainQueue n s).host = true := by
  induction n generalizing s with
  | zero => exact h
  | succ n ih =>
    unfold State.drainQueue
    split
    · exact h
    · split
      · exact ih _ (State.putMessage_hostWf _ _ h)
      · exact h

theorem State.sendReports_hostWf (l : List ErrRec) (s : State) (h : Mem.wf s.host = true) : Mem.wf (State.sendReports l s).host = true := by
  induction l generalizing s with
  | nil => exact h
  | cons r rest ih =>
    unfold State.sendReports
    split
    · exact ih _ h
    · split
      · exact ih _ (State.putMessage_hostWf _ _ h)
      · exact h

theorem State.flushMail_hostWf (s : State) (h : Mem.wf s.host = true) : Mem.wf s.flushMail.host = true := by
  unfold State.flushMail
  split
  · exact h
  · have k := State.drainQueue_hostWf s.mail.queue.length s h
    dsimp only
    split
    · exact State.sendReports_hostWf _ _ k
    · exact k

theorem State.send_hostWf (s : State) (m : OutMsg) (h : Mem.wf s.host = true) : Mem.wf (s.send m).host = true := by
  unfold State.send
  split
  · exact h
  · exact State.flushMail_hostWf _ h

theorem State.coalesce_hostWf (s : State) (n : Nat) (h : Mem.wf s.host = true) : Mem.wf (s.coalesce n).host = true := by
  unfold State.coalesce
  split
  · exact h
  · split
    · rw [State.signal_host]
      exact h
    · exact h

theorem State.writeEntry_hostWf (s : State) (q : CmpRing) (r : Result) (tag sq : Nat) (h : Mem.wf s.host = true) :
    Mem.wf (s.writeEntry q r tag sq).host = true := by
  unfold State.writeEntry
  dsimp only
  refine State.coalesce_hostWf _ _ ?_
  simp only [State.updCq]
  exact State.hostWrite_hostWf _ _ _ h

@[simp] theorem State.stage_host (s : State) (c : Cmd) (r : Result) : (s.stage c r).host = s.host := by
  unfold State.stage
  cases c.body <;> simp only [apply_ite State.host, ite_self]

@[simp] theorem State.journalDone_host (s : State) (c : Cmd) : (s.journalDone c).host = s.host := by
  unfold State.journalDone
  split <;> rfl

theorem State.post_hostWf (s : State) (c : Cmd) (r : Result) (h : Mem.wf s.host = true) : Mem.wf (s.post c r).host = true := by
  have k : Mem.wf ((s.dropCmd c.cid).journalDone c).host = true := by rw [State.journalDone_host]; exact h
  unfold State.post
  dsimp only
  split
  · rw [State.stage_host]
    exact k
  · split
    · rw [State.stage_host]
      exact k
    · exact State.writeEntry_hostWf _ _ _ _ _ k

theorem State.foldl_hostWf {α : Type} (f : State → α → State) (hf : ∀ s a, Mem.wf s.host = true → Mem.wf (f s a).host = true) (l : List α) (s : State)
    (h : Mem.wf s.host = true) : Mem.wf (l.foldl f s).host = true := by
  induction l generalizing s with
  | nil => exact h
  | cons x r ih => exact ih _ (hf _ _ h)

theorem State.memberHeaders_hostWf (s : State) (q : QueryWork) (n : Nat) (h : Mem.wf s.host = true) : Mem.wf (s.memberHeaders q n).host = true := by
  unfold State.memberHeaders
  refine State.foldl_hostWf _ (fun s m hs => ?_) _ _ h
  dsimp only
  split
  · exact hs
  · exact State.hostWrite_hostWf _ _ _ hs

theorem State.endQuery_hostWf (s : State) (c : Cmd) (r : Result) (h : Mem.wf s.host = true) : Mem.wf (s.endQuery c r).1.host = true := by
  unfold State.endQuery
  split
  · rename_i q _
    have k := State.memberHeaders_hostWf s q r.status h
    revert k
    generalize s.memberHeaders q r.status = t
    intro k
    dsimp only
    split
    · exact k
    · exact h
  · exact h

theorem State.complete_hostWf (s : State) (cid : Nat) (r : Result) (h : Mem.wf s.host = true) : Mem.wf (s.complete cid r).host = true := by
  unfold State.complete
  split
  · exact h
  · dsimp only
    split
    · exact State.post_hostWf _ _ _ (State.endQuery_hostWf _ _ _ h)
    · exact State.endQuery_hostWf _ _ _ h

/-! ### Canonical memories -/

theorem State.memoriesWf_iff (s : State) :
    s.memoriesWf = true ↔ Mem.wf s.host = true ∧ Mem.wf s.mem.hbm = true ∧ Mem.wf s.mem.t2 = true ∧ Mem.wf s.store.host = true := by
  simp [State.memoriesWf, and_assoc]

/-- A state whose tiers are another's keeps the memories canonical where its host memory is. -/
theorem State.memoriesWf_of {s t : State} (h : s.memoriesWf = true) (hm : t.mem = s.mem) (hs : t.store.host = s.store.host)
    (hh : Mem.wf t.host = true) : t.memoriesWf = true := by
  rw [State.memoriesWf_iff] at h ⊢
  rw [hm, hs]
  exact ⟨hh, h.2⟩

theorem State.hostWf_of {s : State} (h : s.memoriesWf = true) : Mem.wf s.host = true := ((State.memoriesWf_iff s).1 h).1

/-- A message from the device keeps the memories canonical, and so does a reply or a refusal. -/
theorem State.send_memoriesWf (s : State) (m : OutMsg) (h : s.memoriesWf = true) : (s.send m).memoriesWf = true :=
  State.memoriesWf_of h (by rw [State.send_mailOnly s m]) (by rw [State.send_mailOnly s m]) (State.send_hostWf _ _ (State.hostWf_of h))

theorem State.reply_memoriesWf (s : State) (type seq : Nat) (b : Bytes) (h : s.memoriesWf = true) : (s.reply type seq b).memoriesWf = true :=
  State.send_memoriesWf _ _ h

theorem State.refuse_memoriesWf (s : State) (type seq code off reason : Nat) (h : s.memoriesWf = true) :
    (s.refuse type seq code off reason).memoriesWf = true :=
  State.send_memoriesWf _ _ h

/-- A completion keeps the memories canonical. -/
theorem State.complete_memoriesWf (s : State) (cid : Nat) (r : Result) (h : s.memoriesWf = true) : (s.complete cid r).memoriesWf = true :=
  State.memoriesWf_of h (by rw [State.complete_endOnly s cid r]) (by rw [State.complete_endOnly s cid r])
    (State.complete_hostWf _ _ _ (State.hostWf_of h))

/-- A write to T1 keeps the memories canonical. -/
theorem State.writeT1_memoriesWf (s : State) (a : Nat) (b : Bytes) (h : s.memoriesWf = true) : (s.writeT1 a b).memoriesWf = true := by
  rw [State.memoriesWf_iff] at h ⊢
  exact ⟨h.1, Mem.wf_write _ _ _ h.2.1, h.2.2⟩

/-- What the flash medium keeps of a sector's place leaves the memories as they are. -/
theorem State.flashProgram_memoriesWf (s : State) (area first n : Nat) : (s.flashProgram area first n).memoriesWf = s.memoriesWf := by
  unfold State.flashProgram
  split <;> rfl

theorem State.flashDrop_memoriesWf (s : State) (area first n : Nat) : (s.flashDrop area first n).memoriesWf = s.memoriesWf := rfl

theorem State.markSector_memoriesWf (s : State) (area sector : Nat) : (s.markSector area sector).memoriesWf = s.memoriesWf := by
  unfold State.markSector
  split <;> rfl

theorem State.flashRead_memoriesWf (s : State) (area first n : Nat) : (s.flashRead area first n).memoriesWf = s.memoriesWf := by
  unfold State.flashRead
  dsimp only
  generalize List.filter _ s.store.placed = l
  generalize hs : ({ s.draw 1 with store.blocks := _ } : State) = t
  have ht : t.memoriesWf = s.memoriesWf := by rw [← hs]; rfl
  clear hs
  induction l generalizing t with
  | nil => exact ht
  | cons x r ih => exact ih _ ((State.markSector_memoriesWf t _ _).trans ht)

/-- A write to any tier keeps the memories canonical. -/
theorem State.tierWrite_memoriesWf (s : State) (tier a : Nat) (b : Bytes) (h : s.memoriesWf = true) : (s.tierWrite tier a b).memoriesWf = true := by
  have k := (State.memoriesWf_iff s).1 h
  unfold State.tierWrite
  split
  · exact State.writeT1_memoriesWf _ _ _ h
  · exact (State.memoriesWf_iff _).2 ⟨k.1, k.2.1, Mem.wf_write _ _ _ k.2.2.1, k.2.2.2⟩
  · exact (State.memoriesWf_iff _).2 ⟨k.1, k.2.1, k.2.2.1, Mem.wf_write _ _ _ k.2.2.2⟩
  · exact (State.memoriesWf_iff _).2 ⟨Mem.wf_write _ _ _ k.1, k.2⟩

/-- The effect of a store command's sectors keeps the memories canonical. -/
theorem State.storeApply_memoriesWf (s : State) (w : StoreWork) (n : Nat) (reach : Bool) (h : s.memoriesWf = true) :
    (s.storeApply w n reach).memoriesWf = true := by
  have k := (State.memoriesWf_iff s).1 h
  unfold State.storeApply
  dsimp only
  split
  · rw [State.flashProgram_memoriesWf, State.memoriesWf_iff]
    exact ⟨k.1, k.2.1, k.2.2.1, Mem.wf_write _ _ _ k.2.2.2⟩
  · rw [State.flashDrop_memoriesWf, State.memoriesWf_iff]
    exact ⟨k.1, k.2.1, k.2.2.1, Mem.wf_clear _ _ _ k.2.2.2⟩
  · have r : (s.flashRead 0 w.first n).memoriesWf = true := by rw [State.flashRead_memoriesWf]; exact h
    have k' := (State.memoriesWf_iff _).1 r
    split
    · exact (State.memoriesWf_iff _).2 ⟨Mem.wf_write _ _ _ k'.1, k'.2⟩
    · exact r

/-! ### Error records -/

theorem State.recordOnly.rfl' (s : State) : s.recordOnly s := rfl
theorem State.recordOnly.trans {s t u : State} (h : s.recordOnly t) (k : t.recordOnly u) : s.recordOnly u := by
  unfold State.recordOnly at *
  rw [k, h]

theorem State.mailOnly.recordOnly {s t : State} (h : s.mailOnly t) : s.recordOnly t := by
  unfold State.mailOnly at h
  unfold State.recordOnly
  rw [h]

theorem State.deepen_recordOnly (s : State) (u : Nat × Nat) : s.recordOnly (s.deepen u) := rfl

theorem State.enqueueRecord_eq (s : State) (r : ErrRec) : s.enqueueRecord r = { s with errors := (s.enqueueRecord r).errors } := by
  unfold State.enqueueRecord
  split
  · rfl
  · dsimp only
    split <;> rfl

theorem State.enqueueRecord_recordOnly (s : State) (r : ErrRec) : s.recordOnly (s.enqueueRecord r) := by
  rw [State.enqueueRecord_eq]
  rfl

theorem State.shelterFlag_recordOnly (s : State) (code : Nat) : s.recordOnly (s.shelterFlag code) := by
  unfold State.shelterFlag
  split
  · rfl
  · split <;> rfl

theorem State.foldl_recordOnly {α : Type} (f : State → α → State) (h : ∀ s a, State.recordOnly s (f s a)) (l : List α) (s : State) :
    s.recordOnly (l.foldl f s) := by
  induction l generalizing s with
  | nil => rfl
  | cons x r ih => exact (h s x).trans (ih _)

theorem State.recordOnly_free {s t : State} (h : s.recordOnly t) (n : Nat) : s.recordOnly { t with free := n } := by
  unfold State.recordOnly at *
  rw [h]

/-- An error record touches the error queue, the mailbox that reports it, the shelter flag and the free values drawn. -/
theorem State.record_recordOnly (s : State) (a : RecArgs) : s.recordOnly (s.record a) := by
  unfold State.record
  extract_lets units recovering s1 sev nested flags src s2 s3
  have h1 : s.recordOnly s1 := State.foldl_recordOnly State.deepen State.deepen_recordOnly _ s
  have h2 : s.recordOnly s2 := State.recordOnly_free (h1.trans (State.enqueueRecord_recordOnly _ _)) _
  have h3 : s.recordOnly s3 := by
    clear_value s2 nested
    subst s3
    cases nested with
    | some u => exact (State.recordOnly_free (h2.trans (State.enqueueRecord_recordOnly _ _)) _).trans (State.shelterFlag_recordOnly _ _)
    | none =>
      dsimp only
      split
      · exact h2.trans (State.shelterFlag_recordOnly _ _)
      · exact h2
  exact h3.trans (State.mailOnly.recordOnly (State.flushMail_mailOnly _))

@[simp] theorem State.enqueueRecord_host (s : State) (r : ErrRec) : (s.enqueueRecord r).host = s.host := by
  rw [State.enqueueRecord_eq]

@[simp] theorem State.shelterFlag_host (s : State) (n : Nat) : (s.shelterFlag n).host = s.host := by
  unfold State.shelterFlag
  split
  · rfl
  · split <;> rfl

@[simp] theorem State.foldl_deepen_host (l : List (Nat × Nat)) (s : State) : (l.foldl State.deepen s).host = s.host := by
  induction l generalizing s with
  | nil => rfl
  | cons x r ih => exact ih _

/-- A record keeps the memories canonical. -/
theorem State.record_memoriesWf (s : State) (a : RecArgs) (h : s.memoriesWf = true) : (s.record a).memoriesWf = true := by
  have k := State.record_recordOnly s a
  refine State.memoriesWf_of h (by rw [k]) (by rw [k]) ?_
  unfold State.record
  extract_lets units recovering s1 sev nested flags src s2 s3
  have h1 : s1.host = s.host := State.foldl_deepen_host _ s
  have h2 : s2.host = s.host := (State.enqueueRecord_host _ _).trans h1
  have h3 : s3.host = s.host := by
    clear_value s2 nested
    subst s3
    cases nested with
    | some u => exact (State.shelterFlag_host _ _).trans ((State.enqueueRecord_host _ _).trans h2)
    | none =>
      dsimp only
      split
      · exact (State.shelterFlag_host _ _).trans h2
      · exact h2
  exact State.flushMail_hostWf _ (h3 ▸ State.hostWf_of h)

end Sys2Proof.Machine
end

