-- ==== Sys2Proof/Laws/Issue.lean ====
section
/-!
SUPPORT. What the forms of outcome answer: the fetch of a descriptor, the issue of an instruction, and a control message received.
-/

namespace Sys2Proof.Machine

/-! ### The fetch of a descriptor -/

/-- A descriptor that the arbiter grants is fetched. -/
theorem fetchEvent_grants {s : State} {ring op : Nat} {desc : Bytes} {r : SubRing} {effect : SubRing → State} (hr : s.sq? ring = some r)
    (hg : s.grants ring op desc = true) : fetchEvent s ring op desc effect = .next (effect r) := by
  simp only [State.grants, Bool.and_eq_true] at hg
  simp [fetchEvent, hr, asked, event, hg.1.1, hg.1.2, hg.2]

/-- A fetch answers the effect on the granted ring, or the row is passed over. -/
theorem fetchEvent_next {s t : State} {ring op : Nat} {desc : Bytes} {effect : SubRing → State} (h : fetchEvent s ring op desc effect = .next t) :
    (∃ r, s.sq? ring = some r ∧ s.grants ring op desc = true ∧ t = effect r) ∨ t = s := by
  unfold fetchEvent at h
  split at h
  · exact .inr (by injection h with h; exact h.symm)
  · rename_i r hr
    obtain ⟨h1, ⟨h2, h3⟩ | ⟨-, h3⟩⟩ := asked_cases h
    · simp only [Bool.and_eq_true] at h2
      exact .inl ⟨r, hr, by simp [State.grants, h1, h2.1, h2.2], h3⟩
    · exact .inr h3

/-- A descriptor without a fault becomes an outstanding command. -/
theorem State.fetchWith_ok {s : State} {r : SubRing} {op : Nat} {d : Bytes} {body : CmdBody} {admitted : Bool} (h : s.commonFault r op d = none) :
    s.fetchWith r op d none body admitted = s.take r (headerOf op d) body admitted := by
  simp [State.fetchWith, h]

/-- A descriptor that fails a common check completes at once. -/
theorem State.fetchWith_common {s : State} {r : SubRing} {op : Nat} {d : Bytes} {fault : Option Result} {body : CmdBody} {admitted : Bool}
    {e : Result} (h : s.commonFault r op d = some e) : s.fetchWith r op d fault body admitted = s.fetchDone r op d e := by
  simp [State.fetchWith, h]

/-- The arbiter's step and the fetch touch only the rings and the failed reads. -/
theorem State.arbStep_eq (s : State) (ring op : Nat) : s.arbStep ring op = { s with rings := (s.arbStep ring op).rings } := by
  unfold State.arbStep
  split <;> rfl

theorem State.take_eq (s : State) (r : SubRing) (hdr : Header) (body : CmdBody) (admitted : Bool) :
    s.take r hdr body admitted = { s with rings := (s.take r hdr body admitted).rings, mail := (s.take r hdr body admitted).mail } := by
  unfold State.take
  dsimp only [State.updSq, State.readOk]
  rw [State.arbStep_eq]

/-! ### The issue of an instruction -/

/-- An instruction without a fault, which no transfer holds back, takes its effect and keeps its unit busy. -/
theorem isaEvent_run {s : State} {run v op : Nat} {sub : Option Nat} {issue : Run → Program → VCore → BitVec 64 → Issue} {r : Run} {p : Program}
    {c : VCore} {w : BitVec 64} (h : s.issuer run v = some (r, p, c, w)) (hop : wf w 63 56 = op) (hsub : (sub.all fun k => wf w 55 54 == k) = true)
    (hm : (r.moves.any fun t => t.blocks v (issue r p c w)) = false) (hf : (issue r p c w).faults = none) :
    isaEvent s run v op sub issue
      = .next (s.updRun run fun x => ((issue r p c w).effect x).updCore v fun c' => c'.advance (unitOf op) (issue r p c w).busy (s.pace r)) := by
  subst hop
  simp only [isaEvent, h, hsub, hm, hf, event, beq_self_eq_true, Bool.and_true, Bool.not_false, if_true]

/-- An instruction that faults stops its run. -/
theorem isaEvent_fault {s : State} {run v op : Nat} {sub : Option Nat} {issue : Run → Program → VCore → BitVec 64 → Issue} {r : Run} {p : Program}
    {c : VCore} {w : BitVec 64} {f : Nat} (h : s.issuer run v = some (r, p, c, w)) (hop : wf w 63 56 = op)
    (hsub : (sub.all fun k => wf w 55 54 == k) = true) (hm : (r.moves.any fun t => t.blocks v (issue r p c w)) = false)
    (hf : (issue r p c w).faults = some f) : isaEvent s run v op sub issue = .next (s.settled (s.faultRun run f c.pc v)) := by
  subst hop
  simp only [isaEvent, h, hsub, hm, hf, event, beq_self_eq_true, Bool.and_true, Bool.not_false, if_true]

/-- An instruction that leaves its core waiting, and the group barrier that its arrival announces. -/
theorem waitEvent_run {s : State} {run v op : Nat} {mark : BitVec 64 → VCore → VCore} {r : Run} {p : Program} {c : VCore} {w : BitVec 64}
    (h : s.issuer run v = some (r, p, c, w)) (hop : wf w 63 56 = op) :
    waitEvent s run v op mark
      = .next ((s.updRun run fun x => x.updCore v fun c => mark w (c.advance (unitOf op) 0 (s.pace r))).announceBar run) := by
  simp [waitEvent, h, hop, event]

/-- A core's advance changes its place, its loops, its cycles and its units, and it waits no longer. -/
theorem VCore.advance_eq (c : VCore) (u n k : Nat) :
    c.advance u n k = { c with pc := (c.advance u n k).pc, loops := (c.advance u n k).loops, wait := none, cycles := (c.advance u n k).cycles
                               units := (c.advance u n k).units } := rfl

/-! ### A control message received -/

/-- A new control message is noted and acted on. -/
theorem ctrlEvent_hears {s : State} {type port : Nat} {msg : Bytes} (h : s.hears? type port msg = true) :
    ctrlEvent s type port msg = .next (s.settled ((s.noted port msg).act msg)) := by
  simp only [State.hears?, Bool.and_eq_true, Bool.not_eq_true', decide_eq_true_eq, beq_iff_eq] at h
  obtain ⟨⟨⟨⟨⟨⟨h1, h2⟩, h3⟩, h4⟩, h5⟩, h6⟩, h7⟩ := h
  have h8 : (s.noted port msg).compUp Component.fabric = true := h7
  have h9 : s.receive port msg = (s.noted port msg).act msg := by
    unfold State.receive
    simp only [h5, h6, beq_self_eq_true, Bool.true_and, Bool.false_eq_true, if_false, if_true]
    exact if_pos (by rw [Bool.or_eq_true]; exact .inl h8)
  simp [ctrlEvent, event, h1, h2, h3, h4, h9]

end Sys2Proof.Machine
end

