-- ==== Sys2Proof/Laws/State.lean ====
section
/-!
SUPPORT. One lemma per field per update of State, true by rfl.
-/

namespace Sys2Proof.Machine

@[simp] theorem State.pending_with_pending (s : State) (x) : (State.pending { s with pending := x }) = x := rfl
@[simp] theorem State.clock_with_clock (s : State) (x) : (State.clock { s with clock := x }) = x := rfl
@[simp] theorem State.pcie_with_pcie (s : State) (x) : (State.pcie { s with pcie := x }) = x := rfl
@[simp] theorem State.regs_with_regs (s : State) (x) : (State.regs { s with regs := x }) = x := rfl
@[simp] theorem State.msix_with_msix (s : State) (x) : (State.msix { s with msix := x }) = x := rfl
@[simp] theorem State.rings_with_rings (s : State) (x) : (State.rings { s with rings := x }) = x := rfl
@[simp] theorem State.tether_with_tether (s : State) (x) : (State.tether { s with tether := x }) = x := rfl
@[simp] theorem State.mail_with_mail (s : State) (x) : (State.mail { s with mail := x }) = x := rfl
@[simp] theorem State.host_with_host (s : State) (x) : (State.host { s with host := x }) = x := rfl
@[simp] theorem State.errors_with_errors (s : State) (x) : (State.errors { s with errors := x }) = x := rfl
@[simp] theorem State.mem_with_mem (s : State) (x) : (State.mem { s with mem := x }) = x := rfl
@[simp] theorem State.store_with_store (s : State) (x) : (State.store { s with store := x }) = x := rfl
@[simp] theorem State.colls_with_colls (s : State) (x) : (State.colls { s with colls := x }) = x := rfl
@[simp] theorem State.active_with_active (s : State) (x) : (State.active { s with active := x }) = x := rfl
@[simp] theorem State.staged_with_staged (s : State) (x) : (State.staged { s with staged := x }) = x := rfl
@[simp] theorem State.former_with_former (s : State) (x) : (State.former { s with former := x }) = x := rfl
@[simp] theorem State.sw_with_sw (s : State) (x) : (State.sw { s with sw := x }) = x := rfl
@[simp] theorem State.group_with_group (s : State) (x) : (State.group { s with group := x }) = x := rfl
@[simp] theorem State.ports_with_ports (s : State) (x) : (State.ports { s with ports := x }) = x := rfl
@[simp] theorem State.cages_with_cages (s : State) (x) : (State.cages { s with cages := x }) = x := rfl
@[simp] theorem State.keys_with_keys (s : State) (x) : (State.keys { s with keys := x }) = x := rfl
@[simp] theorem State.fw_with_fw (s : State) (x) : (State.fw { s with fw := x }) = x := rfl
@[simp] theorem State.power_with_power (s : State) (x) : (State.power { s with power := x }) = x := rfl
@[simp] theorem State.comp_with_comp (s : State) (x) : (State.comp { s with comp := x }) = x := rfl
@[simp] theorem State.free_with_free (s : State) (x) : (State.free { s with free := x }) = x := rfl
end Sys2Proof.Machine
end

