-- ==== Sys2Proof/WellFormed.lean ====
section
/-!
DEFINITION. The well-formedness of commands: every operand lies in the range that the spec gives its unit.
-/

namespace Sys2Proof

/-- Mailbox bytes offered to a message: whole 64-byte cells, at least one and at most the page's 63 (R575). -/
def cellsOk (cells : Bytes) : Bool := cells.length % 64 == 0 && 64 ≤ cells.length && cells.length ≤ 4032

/-- A sensor that chapter 18's table of thermal limits names: two dies, eight stacks, 32 packages, four cages. -/
def Sensor.ok : Sensor → Bool
  | .die n => n < 2
  | .hbm n => n < 8
  | .flash n => n < 32
  | .cage n => n < 4

/-- Each operand of a command in its range. -/
def Instr.WellFormed (i : Instr) : Bool :=
  match i with
  | .nop ring desc _ => ring < 256 && desc.length == 128
  | .query ring desc _ => ring < 256 && desc.length == 128
  | .queryBatch ring desc _ => ring < 256 && desc.length == 128
  | .insert ring desc _ => ring < 256 && desc.length == 128
  | .delete ring desc _ => ring < 256 && desc.length == 128
  | .setAttr ring desc _ => ring < 256 && desc.length == 128
  | .embedInsert ring desc _ => ring < 256 && desc.length == 128
  | .storeRead ring desc _ => ring < 256 && desc.length == 128
  | .storeWrite ring desc _ => ring < 256 && desc.length == 128
  | .storeTrim ring desc _ => ring < 256 && desc.length == 128
  | .runProgram ring desc _ => ring < 256 && desc.length == 128
  | .moveTensor ring desc _ => ring < 256 && desc.length == 128
  | .abort ring desc _ => ring < 256 && desc.length == 128
  | .fence ring desc _ => ring < 256 && desc.length == 128
  | .fenceComplete _ => true
  | .pad cells _ => cellsOk cells
  | .unframedCell cells _ => cellsOk cells
  | .hello cells _ => cellsOk cells
  | .caps cells _ => cellsOk cells
  | .tether cells _ => cellsOk cells
  | .tetherExpiry => true
  | .ringCreate cells _ => cellsOk cells
  | .ringDelete cells _ => cellsOk cells
  | .ringDeleteComplete ring => ring < 256
  | .arbSet cells _ => cellsOk cells
  | .collectionCreate cells _ => cellsOk cells
  | .collectionDrop cells _ => cellsOk cells
  | .collectionDropComplete coll => coll < 65536
  | .collectionState cells _ => cellsOk cells
  | .upkeepCentroidRetraining cells _ => cellsOk cells
  | .upkeepQuantiserTraining cells _ => cellsOk cells
  | .upkeepRebuild cells _ => cellsOk cells
  | .upkeepPartitionMove cells _ => cellsOk cells
  | .upkeepRebalance cells _ => cellsOk cells
  | .keyImport cells _ => cellsOk cells
  | .keyDestroy cells _ => cellsOk cells
  | .keyDestroyComplete coll => coll < 65536
  | .attestQuote cells _ => cellsOk cells
  | .attestCertificateChain cells _ => cellsOk cells
  | .fwStage cells _ => cellsOk cells
  | .fwActivateNow cells _ => cellsOk cells
  | .fwActivateAtReset cells _ => cellsOk cells
  | .componentImageSwitch comp => comp < 9
  | .programLoad cells _ => cellsOk cells
  | .programUnload cells _ => cellsOk cells
  | .timetableLoadStage cells _ => cellsOk cells
  | .timetableLoadPropose cells _ => cellsOk cells
  | .groupJoin cells _ => cellsOk cells
  | .lendMemoryOffer cells _ => cellsOk cells
  | .lendMemoryBorrow cells _ => cellsOk cells
  | .lendMemoryEnd cells _ => cellsOk cells
  | .powerCap cells _ => cellsOk cells
  | .selftestStart cells _ => cellsOk cells
  | .selftestAbort cells _ => cellsOk cells
  | .selftestStatus cells _ => cellsOk cells
  | .selftestEnd _ _ _ _ => true
  | .formatConvert cells _ => cellsOk cells
  | .formatConversionEnd => true
  | .format cells _ => cellsOk cells
  | .sanitize cells _ => cellsOk cells
  | .sanitizeEnd _ => true
  | .retirePage cells _ => cellsOk cells
  | .hbmRepairStatus cells _ => cellsOk cells
  | .hbmRepairLaneRemap cells _ => cellsOk cells
  | .hbmRepairRowReplacement cells _ => cellsOk cells
  | .hbmRepairPostPackageRepair cells _ => cellsOk cells
  | .hbmRepairRelease cells _ => cellsOk cells
  | .configRecordRead cells _ => cellsOk cells
  | .configRecordWrite cells _ => cellsOk cells
  | .serviceSessionOpen cells _ => cellsOk cells
  | .serviceSessionClose cells _ => cellsOk cells
  | .serviceSessionExpiry => true
  | .logRead cells _ => cellsOk cells
  | .nopInstruction _ core => core < 65536
  | .sets _ core => core < 65536
  | .adds _ core => core < 65536
  | .muls _ core => core < 65536
  | .setb _ core => core < 65536
  | .loop _ core => core < 65536
  | .bar _ core => core < 65536
  | .waitr _ core => core < 65536
  | .endCore _ core => core < 65536
  | .waitm _ core => core < 65536
  | .moveInstruction _ core => core < 65536
  | .scan _ core => core < 65536
  | .tclr _ core => core < 65536
  | .tadd _ core => core < 65536
  | .tsave _ core => core < 65536
  | .tload _ core => core < 65536
  | .mma _ core => core < 65536
  | .vop _ core => core < 65536
  | .outInstruction _ core => core < 65536
  | .accm _ core => core < 65536
  | .selInit _ core => core < 65536
  | .selFeed _ core => core < 65536
  | .selRead _ core => core < 65536
  | .cycleLimit _ _ => true
  | .teamStart _ _ => true
  | .programEnd _ => true
  | .transferComplete _ _ _ => true
  | .moveTensorDone _ _ => true
  | .detach => true
  | .adminEnable _ => true
  | .nudge _ => true
  | .registerWrite offset width value => offset < 0x20000 && (width == 1 || width == 2 || width == 4 || width == 8) && value < 2 ^ (8 * width)
  | .stagedFieldBoundary _ => true
  | .smbCapWrite _ _ => true
  | .smbusWriteWord code _ _ => code < 256
  | .flr => true
  | .hotReset => true
  | .d3hotEntry => true
  | .d0Return => true
  | .busMasterEnableClear => true
  | .msixPendingSend vector => vector < 64
  | .hostReadFailed _ _ => true
  | .ptmCapture _ => true
  | .doorbellWatch _ => true
  | .watcherSleep _ => true
  | .completionCoalesceTimeout cq => cq < 256
  | .roundStart => true
  | .waitLimitExpiry _ => true
  | .spliceOldRunRelease stack entry => stack < 8 && entry < 1024
  | .switchAbortDeadline => true
  | .controlSlot => true
  | .fanOutSlot => true
  | .returnSlot => true
  | .bulkSlot => true
  | .replaySlot => true
  | .maintenanceSlot held => held.all (· < 512)
  | .pseudoChannelRefresh channel _ => channel < 512
  | .walkEnd _ member => member < 1024
  | .lanePassStart lane => lane < 512
  | .lanePassEnd lane => lane < 512
  | .laneEccError lane _ => lane < 512
  | .refineReadDone _ member id => member < 1024 && id < 0x10000000000000000
  | .refineReadTimeout _ => true
  | .rerankInvocation _ member => member < 1024
  | .queryFinal _ => true
  | .queryBoundExpiry _ => true
  | .mutationAdmission _ => true
  | .embedBatch _ _ _ => true
  | .lastPartIssue _ => true
  | .journalPartOnMedium _ _ => true
  | .holderWriteDone _ _ => true
  | .groupCommitCompletion _ => true
  | .storeCompletion _ => true
  | .flashReadFailed _ _ => true
  | .compaction coll part => coll < 65536 && part < 0x100000
  | .rebalanceStart coll part => coll < 65536 && part < 0x100000
  | .clusteringIteration coll _ => coll < 65536
  | .generationPublish coll _ => coll < 65536
  | .routeGraphCopyBackDone coll => coll < 65536
  | .collectionLoadEnd coll => coll < 65536
  | .hbmCorrected channel page _ => channel < 512 && page < 32768
  | .hbmUncorrectable channel page _ => channel < 512 && page < 32768
  | .lendWindowClose window => window < 16
  | .coreMemoryUncorrectable cluster core _ _ => cluster < 64 && core < 68
  | .coreDatapathParity cluster core => cluster < 64 && core < 68
  | .spareTestEnd cluster spare _ => cluster < 64 && spare < 68
  | .compartmentFault comp => comp < 9
  | .componentHeartbeatTimeout comp => comp < 9
  | .kioskHalt kiosk => kiosk < 8
  | .componentRestartEnd comp => comp < 9
  | .kioskRestartEnd kiosk => kiosk < 8
  | .lodgeWatchdogExpiry => true
  | .lodgeReturn => true
  | .gatehouseWatchdogExpiry => true
  | .gatehouseReturn => true
  | .gatehouseReturnTimeout => true
  | .recoveryPeriodEnd kind _ => 1 ≤ kind && kind ≤ 10
  | .componentMoveTimeout comp => comp < 9
  | .ledgerLoop _ => true
  | .powerClamp _ => true
  | .voltageStageRise _ => true
  | .voltageStageFall _ => true
  | .pwrbrkAssert => true
  | .pwrbrkDeassert => true
  | .supplyOutOfSpec _ => true
  | .powerLoss => true
  | .thermalThreshold sensor _ => sensor.ok
  | .thermalStageEnd sensor => sensor.ok
  | .thermalLimit sensor _ => sensor.ok
  | .thermalCutOff die => die < 2
  | .cmisHighAlarm cage => cage < 4
  | .perstAssert => true
  | .perstDeassert => true
  | .startupStepEnd _ => true
  | .startupStepTimeout => true
  | .startupHold => true
  | .linkUp rate width _ => rate < 16 && width < 64
  | .dieDeepSleep die => die < 2
  | .dieWake die => die < 2
  | .clusterWake cluster => cluster < 64
  | .prewake cluster => cluster < 64
  | .cageModuleInserted cage info => cage < 4 && info.powerClass < 16
  | .cageModuleRemoved cage => cage < 4
  | .trainingTimeout port => port < 8
  | .trainingRetry port => port < 8
  | .blockLock port => port < 8
  | .blockLockLoss port => port < 8
  | .lostBlock port blockSeq block flits => port < 8 && blockSeq < 65536 && block.all (·.length == 1285) && flits.length ≤ 5
  | .linkHello port group farModule farPort => port < 8 && group < 2 ^ 64 && farModule < 65536 && farPort < 8
  | .timeSync port _ _ _ => port < 8
  | .heartbeat port msg => port < 8 && msg.length == 32
  | .moduleLost module => module < 65536
  | .switchPropose port msg => port < 8 && msg.length == 32
  | .switchAccept port msg => port < 8 && msg.length == 32
  | .switchRefuse port msg => port < 8 && msg.length == 32
  | .switchAbort port msg => port < 8 && msg.length == 32
  | .shedStage port msg => port < 8 && msg.length == 32
  | .barrier port msg => port < 8 && msg.length == 32
  | .commit port msg => port < 8 && msg.length == 32
  | .epochOpen port msg => port < 8 && msg.length == 32
  | .epochReady port msg => port < 8 && msg.length == 32
  | .epochClose port msg => port < 8 && msg.length == 32
  | .placementCopyDone coll part => coll < 65536 && part < 0x100000
  | .lend port msg => port < 8 && msg.length == 32
  | .portDown port msg => port < 8 && msg.length == 32
  | .portUp port msg => port < 8 && msg.length == 32
  | .leave port msg => port < 8 && msg.length == 32
  | .leader port msg => port < 8 && msg.length == 32
  | .timeParentTimeout => true
  | .leaderSearchTimeout => true
  | .groupFormationTimeout => true
  | .fanOutTransferReceived port _ => port < 8
  | .returnTransferReceived port _ => port < 8
  | .bulkTransferReceived port _ => port < 8
  | .powerGood => true
  | .holdInputRecovered => true
  | .flrCompletion => true
  | .pmeStatusClear => true
  | .clusterSleep cluster => cluster < 64
  | .portsMeasuredReport port msg => port < 8 && msg.length == 32
  | .invalidOpcodeDescriptor ring desc _ => ring < 256 && desc.length == 128
  | .unknownMessageType cells _ => cellsOk cells
  | .hostPortInternalError => true

end Sys2Proof
end

