-- ==== Sys2Proof/Tests/Slice0.lean ====
section
/-!
SUPPORT. The model's own tests: for each statement a concrete state and operands that meet its hypotheses, with what the command then
does, and ill-formed commands that WellFormed refuses. Every test is one step on a small state.
-/

namespace Sys2Proof.Tests

open Sys2Proof.Machine

set_option Elab.async false
set_option maxRecDepth 100000

/-! ### States -/

/-- A next state with a property. -/
def gives (o : Host.Outcome State Fault Refusal) (p : State → Bool) : Bool :=
  match o with
  | .next t => p t
  | _ => false

/-- READY and tethered, with power good, a store in format 1 and both mailbox pages in place. -/
def live : State :=
  { State.reset with
    regs := { Regs.initial with ready := true, untethered := false, step := 7, doorbell := 0x10000#64, mboxTo := 0x20000#64, mboxFrom := 0x21000#64 }
    power := { Power.initial with v12 := true, v33 := true, perst := false }
    pcie := { Pcie.initial with linkUp := true, rate := 5, width := 8, memSpace := true, busMaster := true, msixEnable := true }
    store := { Store.initial with format := 1, indexSectors := 100000000, hostSectors := 1000000 } }

/-- A submission ring with one descriptor waiting, and its completion ring. -/
def ring1 : SubRing :=
  { num := 1, base := 0x100000, size := 64, cls := 1, cq := 1, head := 0, tail := 1, badWord := false, stopped := false, deleteMsg := none
    doomed := [], recent := [], fetches := 0 }
def done1 : CmpRing :=
  { num := 1, base := 0x200000, size := 64, vector := 1, count := 1, time := 0, wpos := 0, phase := true, head := 0, used := 0, unsignalled := 0
    since := 0, badWord := false }
def ringed : State := { live with rings := { Rings.initial with sqs := [ring1], cqs := [done1] } }

/-- A collection of two-element PQ8 vectors with one partition and no vectors. -/
def part0 : Partition :=
  { num := 0, centroid := [0, 0], neighbours := [], stack := 0, slotTotal := 0, holder := 0, epoch := 0, move := none, lost := false, owner := 0
    home := 0, addr := 0 }
def gen1 : Generation := ⟨1, 0, [part0], [], [], 0⟩
def coll1 : Collection :=
  { cid := 1, dim := 2, metric := 1, form := 2, m := 2, full := .k8, payloads := false, fields := [⟨15, 0, false⟩], horizon := 0, embed := 0
    tokenizer := none, gens := [gen1], segs := [], tombs := [], chunks := [], latest := 0, superseded := [], mountSeq := 0, load := .loaded
    permille := 1000, copyBack := false, home := 0, keys := [], sealRequired := false, everKey := false, salt := [], payloadCtr := 0
    payloadBlock := 0, upkeep := [], eligible := [], dropMsg := none, destroying := [], homeFloor := 0 }
def stored : State := { ringed with colls := [coll1] }

/-- A descriptor: opcode, flags, collection, and its body from byte 16. -/
def desc (op flags coll : Nat) (body : Bytes) : Bytes :=
  padTo 128 (toLe 1 op ++ [1] ++ toLe 1 flags ++ [0] ++ toLe 4 7 ++ toLe 2 coll ++ zeros 6 ++ body)

/-- A command under way. -/
def cmd (cid : Nat) (body : CmdBody) (admitted : Bool) : Cmd :=
  { cid, ring := 1, cq := 1, hdr := ⟨0, 7, 1, false⟩, body, admitted, fetchTime := 0, held := none, unreachable := false, finished := false }
def busy (s : State) (body : CmdBody) (admitted : Bool) : State := { s with rings.cmds := [cmd 5 body admitted], rings.nextCid := 6 }

/-- A message of the driver, in whole cells. -/
def msg (type : Nat) (body : Bytes) : Bytes :=
  padTo (64 * ceilDiv (32 + body.length) 64) (withCrc (mailHeader type 3 (32 + body.length) 0 0 0 ++ body))

/-- A state whose mailbox holds n cells from the driver. -/
def holding (s : State) (n : Nat) : State := { s with mail.toTail := n }

/-! ### The step, reset and the memories -/

theorem test_step_front : ({ live with pending := [.nudge 0, .flr] } : State).pending = .nudge 0 :: [.flr] := by decide +kernel
theorem test_step_runs :
    gives (step { live with pending := [.nudge 0], regs.asleep := true }) (fun t => !t.regs.asleep && t.pending.isEmpty) = true := by decide +kernel
theorem test_idle : live.pending = [] ∧ gives (step live) (fun t => t.clock.groupTime == 1) = true
    ∧ gives (step State.reset) (fun t => t.clock.groupTime == 0) = true := by decide +kernel
theorem test_canonical : stored.memoriesWf = true ∧ gives (step { stored with pending := [.nop 1 (desc 0 0 0 []) []] })
    (fun t => t.memoriesWf && t.host.length > 0) = true := by decide +kernel

/-! ### The fetch of descriptors -/

/-- A descriptor that passes the common checks on ring 1. -/
def passes (s : State) (op : Nat) (d : Bytes) : Prop := s.sq? 1 = some ring1 ∧ s.grants 1 op d = true ∧ s.commonFault ring1 op d = none

/-- A search for the nearest vector, with its vector at 0x40000 and its result at 0x50000. -/
def query1 (op n len : Nat) : Bytes :=
  desc op 0 1 (toLe 8 0x40000 ++ toLe 8 0x50000 ++ zeros 8 ++ zeros 8 ++ zeros 8 ++ toLe 4 0 ++ toLe 4 1 ++ toLe 4 0 ++ toLe 4 len ++ toLe 2 1
    ++ toLe 2 0 ++ toLe 2 2 ++ toLe 2 n ++ [0, 2, 0, 0])

theorem test_query : passes stored 0x10 (query1 0x10 0 80) ∧ stored.queryFault false (query1 0x10 0 80) [] = none
    ∧ gives (exec (.query 1 (query1 0x10 0 80) []) stored) (fun t => t.rings.cmds.length == 1 && (t.rings.sqs.map (·.head)) == [1]) = true := by
  refine ⟨⟨?_, ?_, ?_⟩, ?_, ?_⟩ <;> decide +kernel
theorem test_query_batch : passes stored 0x11 (query1 0x11 2 128) ∧ stored.queryFault true (query1 0x11 2 128) [] = none
    ∧ gives (exec (.queryBatch 1 (query1 0x11 2 128) []) stored) (fun t => t.rings.cmds.length == 1) = true := by
  refine ⟨⟨?_, ?_, ?_⟩, ?_, ?_⟩ <;> decide +kernel

def sectors (op addr first count : Nat) : Bytes := desc op 0 0 (toLe 8 addr ++ toLe 8 first ++ toLe 4 count)

theorem test_store_read : passes ringed 0x30 (sectors 0x30 0x40000 999999 1) ∧ ringed.storeFault .read (sectors 0x30 0x40000 999999 1) = none
    ∧ ringed.storeFault .read (sectors 0x30 0x40000 1000000 1) ≠ none := by
  refine ⟨⟨?_, ?_, ?_⟩, ?_, ?_⟩ <;> decide +kernel
theorem test_store_write : passes ringed 0x31 (sectors 0x31 0x40000 0 1) ∧ ringed.storeFault .write (sectors 0x31 0x40000 0 1) = none := by
  refine ⟨⟨?_, ?_, ?_⟩, ?_⟩ <;> decide +kernel
theorem test_store_trim : passes ringed 0x32 (sectors 0x32 0 0 1000000) ∧ ringed.storeFault .trim (sectors 0x32 0 0 1000000) = none := by
  refine ⟨⟨?_, ?_, ?_⟩, ?_⟩ <;> decide +kernel
theorem test_fence : passes ringed 0x51 (desc 0x51 0 0 [])
    ∧ gives (exec (.fence 1 (desc 0x51 0 0 []) []) ringed) (fun t => t.rings.cmds.length == 1) = true := by
  refine ⟨⟨?_, ?_, ?_⟩, ?_⟩ <;> decide +kernel

def batch (op addr count : Nat) (rest : Bytes) : Bytes := desc op 0 1 (toLe 8 addr ++ toLe 4 count ++ rest)

theorem test_usable : stored.usable 1 = some coll1 ∧ stored.store.sanitise = none ∧ stored.power.applied < 3 := by decide +kernel
theorem test_insert : passes stored 0x20 (batch 0x20 0x40000 1 (toLe 2 2 ++ [2, 0] ++ toLe 4 64))
    ∧ (stored.insertFault coll1 (batch 0x20 0x40000 1 (toLe 2 2 ++ [2, 0] ++ toLe 4 64)) []).1 = none
    ∧ gives (exec (.insert 1 (batch 0x20 0x40000 1 (toLe 2 2 ++ [2, 0] ++ toLe 4 64)) []) stored) (fun t => t.store.nextMutation == 2) = true := by
  refine ⟨⟨?_, ?_, ?_⟩, ?_, ?_⟩ <;> decide +kernel
theorem test_delete : passes stored 0x21 (batch 0x21 0x40000 1 []) ∧ (stored.idsFault coll1 .delete (batch 0x21 0x40000 1 []) []).1 = none
    ∧ (stored.idsFault coll1 .delete (batch 0x21 0x40000 1 []) [(0x40000, [255, 255, 255, 255, 255, 255, 255, 255])]).1 = some (.invalid 7 0) := by
  refine ⟨⟨?_, ?_, ?_⟩, ?_, ?_⟩ <;> decide +kernel
theorem test_set_attr : passes stored 0x22 (batch 0x22 0x40000 1 []) ∧ (stored.idsFault coll1 .setAttr (batch 0x22 0x40000 1 []) []).1 = none := by
  refine ⟨⟨?_, ?_, ?_⟩, ?_⟩ <;> decide +kernel
theorem test_embed_insert : passes stored 0x23 (batch 0x23 0x40000 1 [])
    ∧ (stored.embedFault coll1 (batch 0x23 0x40000 1 []) []).1 = some (.invalid 6 noItem)
    ∧ gives (exec (.embedInsert 1 (batch 0x23 0x40000 1 []) []) stored) (fun t => t.rings.cmds.isEmpty && t.store.nextMutation == 1) = true := by
  refine ⟨⟨?_, ?_, ?_⟩, ?_, ?_⟩ <;> decide +kernel

/-- A tensor descriptor of one dimension. -/
def tensor (tier fmt addr n : Nat) : Bytes :=
  [BitVec.ofNat 8 tier, BitVec.ofNat 8 fmt, 1, 0] ++ toLe 4 0x3F800000 ++ toLe 8 addr ++ toLe 4 n ++ toLe 4 1 ++ toLe 4 1 ++ toLe 4 1 ++ zeros 32
def pair : HostImage := [(0x40000, tensor 1 2 (live.mem.regionBase + 64) 8 ++ tensor 1 2 live.mem.regionBase 8)]
def move1 : Bytes := desc 0x41 0 0 (toLe 8 0x40000)
def src1 : TensorDesc := parseTensor (hostRead pair 0x40000 64)
def dst1 : TensorDesc := parseTensor (hostRead pair 0x40040 64)

theorem test_move_tensor : passes ringed 0x41 move1 ∧ ringed.moveCheck move1 src1 dst1 = none
    ∧ gives (exec (.moveTensor 1 move1 pair) ringed) (fun t => t.rings.cmds.map (·.body) == [.move ⟨src1, dst1, true, none⟩]) = true := by
  refine ⟨⟨?_, ?_, ?_⟩, ?_, ?_⟩ <;> decide +kernel

/-- A program of one core. -/
def prog (code : List (BitVec 64)) : Program :=
  { handle := 1, kind := 0, chunkIndep := false, resident := false, vcores := 1, code, tensors := [], pool := [zeros 32, zeros 32], seed := 9
    status := 0x1100000000, outputDim := 2, maxBatch := 4, buckets := [16], maxCycles := 1000, bound := none, bindPayloads := false
    base := 0x1100000000, bytes := 4096 }
def loaded : State := { ringed with comp.programs := [prog [0x0800000000000000#64]], comp.nextHandle := 2 }
def run1 (seed : Nat) : Bytes := desc 0x40 0 0 (toLe 4 1 ++ zeros 4 ++ toLe 8 seed)

theorem test_run_program : passes loaded 0x40 (run1 0) ∧ loaded.runFault (run1 0) [] = none
    ∧ (loaded.comp.programs.find? fun p => p.handle == field (run1 0) 0x10 4) = some (prog [0x0800000000000000#64])
    ∧ gives (exec (.runProgram 1 (run1 0) []) loaded) (fun t => t.comp.runs.map (·.seed) == [9]) = true
    ∧ gives (exec (.runProgram 1 (run1 5) []) loaded) (fun t => t.comp.runs.map (·.seed) == [5]) = true := by
  refine ⟨⟨?_, ?_, ?_⟩, ?_, ?_, ?_, ?_⟩ <;> decide +kernel
theorem test_nop : passes ringed 0 (desc 0 0 0 [])
    ∧ gives (exec (.nop 1 (desc 0 0 0 []) []) ringed) (fun t => t.rings.cmds.isEmpty && Mem.get t.host 0x20001F == 1 && t.msix.pend.getD 1 false) = true := by
  refine ⟨⟨?_, ?_, ?_⟩, ?_⟩ <;> decide +kernel
theorem test_unlisted : ringed.supported = true ∧ ringed.mayFetch 1 0x7F = true ∧ opcodes.contains 0x7F = false ∧ byteAt (desc 0x7F 0 0 []) 0 = 0x7F
    ∧ byteAt (desc 0x7F 0 0 []) 1 % 16 = 1 ∧ ring1.doomed.contains ring1.fetches = false
    ∧ gives (exec (.invalidOpcodeDescriptor 1 (desc 0x7F 0 0 []) []) ringed) (fun t => Mem.get t.host 0x200000 == 3 && Mem.get t.host 0x200001 == 1) = true := by
  decide +kernel
theorem test_version : ringed.sq? 1 = some ring1 ∧ ringed.grants 1 0 [0, 2] = true ∧ byteAt [0, 2] 1 % 16 ≠ 1
    ∧ (0x00, Instr.nop 1 [0, 2] []) ∈ descriptorRows 1 [0, 2] []
    ∧ gives (exec (.nop 1 [0, 2] []) ringed) (fun t => Mem.get t.host 0x200000 == 4) = true
    ∧ gives (exec (.invalidOpcodeDescriptor 1 [0, 2] []) ringed) (fun t => Mem.get t.host 0x200000 == 4) = true := by
  decide +kernel
theorem test_abort : passes (busy ringed (.fence ⟨[], [], 0⟩) true) 0x50 (desc 0x50 0 0 ([1, 0, 0, 0] ++ toLe 4 7))
    ∧ gives (exec (.abort 1 (desc 0x50 0 0 ([1, 0, 0, 0] ++ toLe 4 7)) []) (busy ringed (.fence ⟨[], [], 0⟩) true))
      (fun t => t.rings.cmds.isEmpty && Mem.get t.host 0x200000 == 1) = true := by
  refine ⟨⟨?_, ?_, ?_⟩, ?_⟩ <;> decide +kernel
/-- What an ABORT finds: a mutation past its first part, a move that has not started, a waiting store command, and no command. -/
def insert1 (issued : Nat) : Mutation :=
  { kind := .delete, entries := [⟨3, 0, none, none, none⟩], chunks := [], mutationId := 1, admitted := true, gen := 1, base := 0, parts := 2, perPart := 168
    sent := true, issued, onMedium := [], lastOnMedium := false, holdersLeft := [], committed := none, commitRound := 0, counts := [0, 1], keyIds := [] }
def found (s : State) (c : Cmd) : Bool := (s.rings.cmds.find? fun c => c.ring == 1 && c.hdr.tag == 7 && !c.unreachable && !c.finished) == some c
theorem test_abort_targets : found (busy stored (.mutation (insert1 1)) true) (cmd 5 (.mutation (insert1 1)) true) = true
    ∧ found (busy ringed (.move ⟨src1, dst1, false, none⟩) false) (cmd 5 (.move ⟨src1, dst1, false, none⟩) false) = true
    ∧ found (busy ringed .plain true) (cmd 5 .plain true) = true
    ∧ ((busy stored (.mutation (insert1 1)) true).abortTarget 1 7 []).2.1 = 2
    ∧ ((busy ringed (.move ⟨src1, dst1, false, none⟩) false).abortTarget 1 7 []).2.1 = 0
    ∧ ((busy ringed .plain true).abortTarget 1 7 []).2.1 = 2 := by
  refine ⟨?_, ?_, ?_, ?_, ?_, ?_⟩ <;> decide +kernel
theorem test_abort_unknown : (ringed.rings.cmds.find? fun c => c.ring == 1 && c.hdr.tag == 9 && !c.unreachable && !c.finished) = none
    ∧ (∀ x ∈ unfetchedTags [] ring1 (ringed.readTail [] ring1), x.2 ≠ 9) ∧ (ringed.abortTarget 1 9 []).2.1 = 3
    ∧ (State.abortTarget { ringed with rings.sqs := [{ ring1 with recent := [9] }] } 1 9 []).2.1 = 2 := by
  decide +kernel
/-- The descriptor of a QUERY in shelter mode, with a collection that does not exist. -/
def sheltered : State := { ringed with regs.shelter := true }
theorem test_shelter_fetch : sheltered.sq? 1 = some ring1 ∧ sheltered.grants 1 0x10 (desc 0x10 0 9 []) = true ∧ headerFault 0x10 (desc 0x10 0 9 []) = none
    ∧ (0x10, Instr.query 1 (desc 0x10 0 9 []) []) ∈ descriptorRows 1 (desc 0x10 0 9 []) []
    ∧ gives (exec (.query 1 (desc 0x10 0 9 []) []) sheltered) (fun t => Mem.get t.host 0x200000 == 10) = true := by
  decide +kernel
theorem test_fetch_frame : (0x40, Instr.runProgram 1 (run1 0) []) ∈ descriptorRows 1 (run1 0) [] ∧ loaded.memoriesWf = true
    ∧ gives (exec (.runProgram 1 (run1 0) []) loaded) (fun t => t.regs == loaded.regs) = true := by
  decide +kernel

/-! ### The ends of commands -/

def read3 : StoreWork := { kind := .read, dataAddr := 0x40000, first := 3, count := 1, issued := 0, data := [] }

theorem test_store_completion : (busy ringed (.store read3) true).cmd? 5 = some (cmd 5 (.store read3) true) ∧ ringed.storesUp = true
    ∧ ringed.sectorFails (3 * 4096) 4096 = false ∧ ({ ringed with store.failing := [3] } : State).sectorFails (3 * 4096) 4096 = true := by
  decide +kernel
def full : State := { ringed with store.host := [(0x3000, 5), (0x4000, 6)] }
def trim3 : CmdBody := .store { kind := .trim, dataAddr := 0, first := 3, count := 1, issued := 0, data := [] }
theorem test_store_effect : (busy full trim3 true).memoriesWf = true
    ∧ gives (exec (.storeCompletion 5) (busy full trim3 true)) (fun t => Mem.get t.store.host 0x3000 == 0 && Mem.get t.store.host 0x4000 == 6
      && Mem.get t.host 0x200008 == 1) = true := by
  decide +kernel
theorem test_fence_complete : ringed.fenceOver ⟨[], [], 3⟩ = true
    ∧ gives (exec (.fenceComplete 5) (busy ringed (.fence ⟨[], [], 3⟩) true)) (fun t => Mem.get t.host 0x200004 == 3) = true := by
  decide +kernel

/-- A query of collection 1 at a stage, its one member with a candidate. -/
def cand3 : Entry := { key := 5, dist := 5#32, id := 3, part := 0 }
def member0 : Member :=
  { newMember coll1 0 ⟨.k8, [0, 0]⟩ with cand := [cand3] }
def finding (phase : QPhase) (m : Member) : QueryWork :=
  { plan := planOf false (query1 0x10 0 80), members := [m], phase, fetchRound := 0, snapshot := 0, gen := 1, admitRound := 0, bound := 10, admitNo := 0
    lean := false, bMax := 0, windowRound := 0, refineRound := 0 }
def querying (phase : QPhase) (m : Member) : State := busy stored (.query (finding phase m)) (phase != .waiting)

theorem test_wait_limit : live.waitOut (finding .waiting member0) 100000 = true
    ∧ gives (exec (.waitLimitExpiry 5) { querying .waiting member0 with clock.round := 100000 }) (fun t => Mem.get t.host 0x200000 == 5) = true := by
  decide +kernel
def lateRound : State := { querying .walk member0 with clock.round := 10, fw.lodgeAt := some 50 }
theorem test_query_bound : (finding .walk member0).bound ≤ lateRound.clock.round ∧ lateRound.roundTick 0 ≤ 50
    ∧ gives (exec (.queryBoundExpiry 5) lateRound) (fun t => Mem.get t.host 0x200000 == 2) = true := by
  decide +kernel

/-- An admitted DELETE of one ID with a single journal part. -/
def deleting (issued : Nat) (committed : Option Nat) (holders : List Nat) : Mutation :=
  { kind := .delete, entries := [⟨3, 0, none, none, none⟩], chunks := [], mutationId := 1, admitted := true, gen := 1, base := 0, parts := 1, perPart := 168, sent := false, issued
    onMedium := [], lastOnMedium := false, holdersLeft := holders, committed, commitRound := 0, counts := [0, 1], keyIds := [] }
def mutating (m : Mutation) : State := busy stored (.mutation m) m.admitted

theorem test_group_commit : gives (exec (.groupCommitCompletion 5) (mutating (deleting 1 (some 8) [])))
    (fun t => Mem.get t.host 0x200008 == 8 && Mem.get t.host 0x200010 == 1 && t.rings.cmds.isEmpty) = true := by
  decide +kernel
def moving : State := { busy ringed (.move ⟨src1, dst1, true, none⟩) true with mem.hbm := [(live.mem.regionBase + 65, 9)] }
theorem test_move_t2 : MoveWork.namesT2 ⟨src1, { dst1 with tier := 2 }, true, some []⟩ = true ∧ ringed.flownOver (some []) = true
    ∧ ringed.t2Shed [src1, { dst1 with tier := 2 }] = false ∧ MoveWork.namesT2 ⟨src1, dst1, true, none⟩ = false := by
  decide +kernel
theorem test_move_done : moving.moveFails ⟨src1, dst1, true, none⟩ = false
    ∧ gives (exec (.moveTensorDone 5 pair) moving) (fun t => Mem.get t.mem.hbm (live.mem.regionBase + 1) == 9 && Mem.get t.host 0x200008 == 8) = true := by
  decide +kernel

/-! ### Mutations -/

def waitingDelete : Mutation := { deleting 0 none [] with admitted := false, parts := 0, gen := 0, counts := [] }
theorem test_mutation_admission : (mutating waitingDelete).usable 1 = some coll1 ∧ waitingDelete.ready = true ∧ live.compUp Component.store0 = true
    ∧ live.serves Component.store0 = true ∧ live.fw.lodge = .up ∧ live.power.applied < 3 ∧ live.group.joining = none ∧ live.store.sanitise = none
    ∧ (mutating waitingDelete).journalRoom (waitingDelete.sectorsFrom ((mutating waitingDelete).partSize .delete) 0) = true
    ∧ (mutating waitingDelete).roomAwaited 5 = false
    ∧ (mutating waitingDelete).earlier (cmd 5 (.mutation waitingDelete) false) (fun x y => !x.admitted && y.ready) = false
    ∧ gives (exec (.mutationAdmission 5) (mutating waitingDelete)) (fun t => t.rings.cmds.all (·.admitted) && t.store.journal.length == 0) = true := by
  decide +kernel
/-- A DELETE before its last part, its data sent or not yet, in a collection that has committed so far. -/
def lastOf (sent : Bool) (latest : Nat) : State :=
  { mutating { deleting 0 none [] with sent, base := latest } with colls := [{ coll1 with latest }] }
theorem test_last_part_issue : (lastOf true 0).usable 1 = some coll1 ∧ coll1.lastGen = 1
    ∧ ((lastOf true 0).rings.cmds.any fun x => x.hdr.collection == 1 && (x.mutation?.any fun y => y.closing || (y.out && x.cid != 5))) = false
    ∧ (lastOf true 0).earlier (cmd 5 (.mutation { deleting 0 none [] with sent := true }) true) (fun _ y => y.committed.isNone) = false
    ∧ gives (exec (.lastPartIssue 5) (lastOf true 0)) (fun t => t.store.journal.map (·.last) == [true]) = true
    ∧ gives (exec (.lastPartIssue 5) (lastOf false 0)) (fun t => t.store.journal.map (·.last) == [true]) = true := by
  decide +kernel
theorem test_sequences_used_up : (lastOf true 0xFFFFFFFFFFFFFFFE).usable 1 = some { coll1 with latest := 0xFFFFFFFFFFFFFFFE }
    ∧ gives (exec (.lastPartIssue 5) (lastOf true 0xFFFFFFFFFFFFFFFE)) (fun t => t.rings.cmds.isEmpty && Mem.get t.host 0x200000 == 5) = true := by
  decide +kernel
theorem test_holder_write : (deleting 1 none [0]).holdersLeft.contains 0 = true
    ∧ gives (exec (.holderWriteDone 5 0) (mutating (deleting 1 none [0]))) (fun t => t.rings.cmds.length == 1 && t.colls.map (·.latest) == [0]) = true := by
  decide +kernel
theorem test_last_part : (mutating (deleting 1 none [])).rings.cmds.find? (fun c => !c.finished && (c.mutation?.any fun x => x.mutationId == 1))
      = some (cmd 5 (.mutation (deleting 1 none [])) true)
    ∧ gives (exec (.journalPartOnMedium 1 0) (mutating (deleting 1 none []))) (fun t => t.colls.map (·.latest) == [1] && t.rings.cmds.isEmpty
      && Mem.get t.host 0x200008 == 1) = true := by
  decide +kernel
theorem test_first_part : gives (exec (.journalPartOnMedium 1 0) (mutating { deleting 2 none [] with parts := 2 }))
    (fun t => t.colls.map (·.latest) == [0] && t.rings.cmds.length == 1) = true := by
  decide +kernel

/-! ### Queries -/

theorem test_walk_end : (finding .walk member0).gen? coll1 = some gen1 ∧ (finding .walk member0).member? 0 = some member0
    ∧ member0.probes = [] ∧ member0.status = none ∧ live.power.clampHold = false
    ∧ gives (exec (.walkEnd 5 0) (querying .walk member0)) (fun t => t.colls == [coll1]) = true := by
  decide +kernel
def pass0 (started : Bool) : LanePass :=
  { lane := 0, coll := 1, gen := 1, part := 0, entries := [], order := 0, started, paused := false, splices := [], program := none
    job := 0, segs := [], filled := started, lanes := [0], listAddr := 0, bulkRead := 0 }
def passing (started : Bool) : State := { stored with comp.passes := [pass0 started] }
theorem test_lane_pass_start : (passing false).nextPass 0 = some 0 ∧ (passing false).bulkRoom (pass0 false) = true
    ∧ ((passing false).comp.passes.any fun p => p.lane == 0 && p.started) = false
    ∧ gives (exec (.lanePassStart 0) (passing false)) (fun t => t.comp.passes == [pass0 true]) = true := by
  decide +kernel
theorem test_lane_pass_end : gives (exec (.lanePassEnd 0) (passing true)) (fun t => t.comp.passes.isEmpty) = true := by
  decide +kernel
/-- A program's scan of a segment of 64 bytes that a slice ends, or does not. -/
def scan0 (bulkRead : Nat) : LanePass := { pass0 true with program := some (0, 4), segs := [4096], bulkRead }
def seg64 : Segment :=
  { owner := 1, seq := some 0, part := 0, gens := [1], firstSlot := 0, kind := .insert, lane := 0, slots := [], addr := 4096, refArray := 0 }
def slicing (bulkRead : Nat) : State := { stored with colls := [{ coll1 with segs := [seg64] }], comp.passes := [scan0 bulkRead] }
theorem test_scan_slices : 0 < (slicing 0).jobBytes (scan0 0) ∧ (slicing 100000).jobBytes (scan0 100000) ≤ 100000
    ∧ gives (exec (.lanePassEnd 0) (slicing 0)) (fun t => t.comp.passes.map (·.started) == [false]) = true
    ∧ gives (exec (.lanePassEnd 0) (slicing 100000)) (fun t => t.comp.passes.isEmpty) = true := by
  decide +kernel
def reranked : State :=
  { busy stored (.query { finding .rerank member0 with plan.rerank := 1 }) true with comp.programs := [{ prog [] with kind := 2, bound := some 1 }] }
theorem test_rerank : reranked.program? 1 = some { prog [] with kind := 2, bound := some 1 } ∧ reranked.reranking 5 0 = false
    ∧ member0.reranked = none ∧ member0.rerankSkipped = false ∧ (member0.toRerank 0).isEmpty = false
    ∧ reranked.imageFor 0 = (Timetable.builtin, 0) ∧ Timetable.builtin.rerankAt (Timetable.builtin.place 0 0) = true
    ∧ reranked.power.applied = 0 ∧ (reranked.rerankRoom { finding .rerank member0 with plan.rerank := 1 }).isSome = true := by
  decide +kernel
theorem test_query_final : ((querying .final member0).moveOn 5).cmd? 5 = some (cmd 5 (.query (finding .final member0)) true)
    ∧ ((querying .final member0).moveOn 5).coll? 1 = some coll1
    ∧ gives (exec (.queryFinal 5) (querying .final member0)) (fun t => t.rings.cmds.isEmpty && Mem.get t.host 0x200000 == 0) = true := by
  decide +kernel
def slot3 : Slot := { code := [0, 0], id := 3, attr := 0, full := [0x40, 0x40], ref := 0, payload := none }
def seg3 : Segment := { owner := 1, seq := some 0, part := 0, gens := [1], firstSlot := 0, kind := .insert, lane := 0, slots := [slot3], addr := 0, refArray := 0 }
def asking : Member := { member0 with refLeft := [cand3] }
def refining : State := { querying .refine asking with colls := [{ coll1 with segs := [seg3] }] }
theorem test_refine_read : refining.work? 5 = some (1, finding .refine asking) ∧ ((refining.coll? 1).bind fun k => k.liveSlot 0 3) = some (0, 0, slot3)
    ∧ (refining.earlyRead (finding .refine asking) coll1.fullReads).isSome = true ∧ refining.group.requests = []
    ∧ asking.refLeft.find? (fun e => e.id == 3) = some cand3 ∧ asking.askedOf 0 3 = 0
    ∧ gives (exec (.refineReadDone 5 0 3) refining) (fun t => (t.rings.cmds.any fun c => (c.query?).any fun q => q.members.any fun m =>
        m.refLeft.isEmpty && m.refined.map (·.dist) == [0x40000000#32])) = true := by
  decide +kernel

/-! ### Messages -/

theorem test_caps : (holding live 1).takes .caps (msg 2 []) [] = true
    ∧ gives (exec (.caps (msg 2 []) []) (holding live 1)) (fun t => t.mail.toHead == 1 && t.mail.awaiting.isEmpty && Mem.get t.host 0x21046 == 2
      && t.mail.fromTail == 2) = true := by
  decide +kernel
theorem test_tether : (holding live 1).takes .tether (msg 3 (toLe 4 10 ++ zeros 12)) [(0x24, 12, 0xFF)] = true
    ∧ (holding live 1).takes .tether (msg 3 (zeros 16)) [(0x24, 12, 0xFF)] = true ∧ field (msg 3 (zeros 16)) 0x20 4 = 0
    ∧ field (msg 3 (toLe 4 10 ++ zeros 12)) 0x20 4 = 10
    ∧ gives (exec (.tether (msg 3 (toLe 4 10 ++ zeros 12)) []) (holding live 1)) (fun t => t.tether.period == 10) = true := by
  decide +kernel
theorem test_tether_bounds : field (msg 3 (toLe 4 10000 ++ zeros 12)) 0x20 4 = 10000
    ∧ gives (exec (.tether (msg 3 (toLe 4 10001 ++ zeros 12)) []) (holding live 1)) (fun t => t.tether.period == 1000) = true := by
  decide +kernel
def count0 : Bytes := msg 0x91 ([1] ++ zeros 31)
def logged : ErrRec :=
  { seq := 1, code := 2, severity := 1, flags := 0, time := 0, unitKind := 12, depth := 0, unit := 0, overflow := 0, address := 0, tag := 0, ring := 0
    collection := 0xFFFF, free := 0, page := none, reported := true }
def release1 : Bytes := msg 0x91 ([1, 1, 0, 0] ++ toLe 4 1 ++ toLe 8 0x40000 ++ toLe 4 64 ++ zeros 12)
def withLog : State := { holding live 1 with errors.queue := [logged] }
theorem test_log_read : (holding live 1).takes .logRead count0 [(0x21, 1, 0xFE), (0x22, 2, 0xFF), (0x34, 12, 0xFF), (0x28, 12, 0xFF)] = true
    ∧ byteAt (msgBytes count0) 0x20 = 1 ∧ field (msgBytes count0) 0x24 4 = 0 := by
  decide +kernel
theorem test_log_release : withLog.takes .logRead release1 [(0x21, 1, 0xFE), (0x22, 2, 0xFF), (0x34, 12, 0xFF)] = true
    ∧ byteAt (msgBytes release1) 0x20 = 1 ∧ byteAt (msgBytes release1) 0x21 = 1 ∧ field (msgBytes release1) 0x24 4 = 1
    ∧ field (msgBytes release1) 0x28 8 = 0x40000 ∧ field (msgBytes release1) 0x30 4 = 64
    ∧ gives (exec (.logRead release1 []) withLog) (fun t => t.errors.queue.isEmpty) = true := by
  decide +kernel
theorem test_tether_expiry : gives (exec .tetherExpiry ringed) (fun t => t.regs.untethered && t.tether.cause == 1 && t.rings.sqs.isEmpty
    && t.clock.groupTime == 1500000000) = true := by
  decide +kernel
theorem test_pad : (holding live 1).supported = true ∧ (holding live 1).mayTake = true
    ∧ framed (msg 0 (zeros 32)) 0 1 = true ∧ crcFault (msgBytes (msg 0 (zeros 32))) = none ∧ field (msg 0 (zeros 32)) 6 2 = 0
    ∧ gives (exec (.pad (msg 0 (zeros 32)) []) (holding live 1)) (fun t => t.mail.toHead == 1 && t.mail.fromTail == 0) = true := by
  decide +kernel
theorem test_unframed : framed (zeros 64) 0 1 = false
    ∧ gives (exec (.unframedCell (zeros 64) []) (holding live 1)) (fun t => t.mail.toHead == 1 && t.mail.fromTail == 1) = true := by
  decide +kernel
theorem test_unknown_type : driverTypes.contains (field (msg 0x7F []) 6 2) = false ∧ framed (msg 0x7F []) 0 1 = true ∧ crcFault (msgBytes (msg 0x7F [])) = none
    ∧ gives (exec (.unknownMessageType (msg 0x7F []) []) (holding live 1)) (fun t => t.mail.fromTail == 1 && Mem.get t.host 0x21054 == 3) = true := by
  decide +kernel

/-- A HELLO of an untethered device. -/
def hello1 : Bytes := msg 1 ([0, 0, 1, 0] ++ toLe 4 0 ++ toLe 4 0 ++ toLe 4 10 ++ zeros 16)
def alone : State := holding { live with regs.untethered := true } 1
theorem test_hello : alone.mayHear = true ∧ field hello1 6 2 = 1 ∧ framed hello1 0 alone.mail.toTail = true ∧ msgLen hello1 ≤ hello1.length
    ∧ alone.moving ≠ some Component.mailboxService ∧ helloFault (msgBytes hello1) = none ∧ alone.regs.adminEnable = false
    ∧ gives (exec (.hello hello1 []) alone) (fun t => !t.regs.untethered && t.tether.period == 10 && t.tether.attach == 1) = true := by
  decide +kernel

def subMsg (num : Nat) : Bytes := msg 0x10 ([BitVec.ofNat 8 num, 0, 3, 0] ++ toLe 4 65536 ++ toLe 8 0x300000 ++ [1] ++ zeros 15)
def cmpMsg (num : Nat) : Bytes := msg 0x10 ([BitVec.ofNat 8 num, 1, 0, 0] ++ toLe 4 64 ++ toLe 8 0x300000 ++ [0, 63] ++ toLe 2 63 ++ toLe 2 1000 ++ zeros 10)
def deleteMsg (num kind : Nat) : Bytes := msg 0x11 ([BitVec.ofNat 8 num, BitVec.ofNat 8 kind] ++ zeros 14)

theorem test_ring_create_sub : byteAt (msgBytes (subMsg 2)) 0x21 = 0
    ∧ (holding ringed 1).takes .ringCreate (subMsg 2) [(0x23, 1, 0xFF), (0x36, 10, 0xFF)] = true ∧ ringFields (msgBytes (subMsg 2)) = none
    ∧ ringed.sq? 2 = none ∧ (ringed.cq? (byteAt (msgBytes (subMsg 2)) 0x30)).isSome = true
    ∧ gives (exec (.ringCreate (subMsg 2) []) (holding ringed 1)) (fun t => t.rings.sqs.map (·.num) == [1, 2]) = true := by
  decide +kernel
theorem test_ring_create_cmp : byteAt (msgBytes (cmpMsg 2)) 0x21 = 1
    ∧ (holding ringed 1).takes .ringCreate (cmpMsg 2) [(0x23, 1, 0xFF), (0x36, 10, 0xFF), (0x22, 1, 0xFF)] = true
    ∧ ringFields (msgBytes (cmpMsg 2)) = none ∧ ringed.cq? 2 = none
    ∧ gives (exec (.ringCreate (cmpMsg 2) []) (holding ringed 1)) (fun t => t.rings.cqs.map (·.num) == [1, 2]) = true := by
  decide +kernel
theorem test_ring_delete : byteAt (deleteMsg 1 0) 0x20 = 1 ∧ byteAt (deleteMsg 1 0) 0x21 = 0
    ∧ (holding ringed 1).takes .ringDelete (deleteMsg 1 0) [(0x22, 14, 0xFF)] = true ∧ ring1.deleteMsg = none
    ∧ gives (exec (.ringDelete (deleteMsg 1 0) []) (holding ringed 1)) (fun t => t.rings.sqs.isEmpty) = true
    ∧ gives (exec (.ringDelete (deleteMsg 1 0) []) (holding (busy ringed .plain true) 1)) (fun t => t.rings.sqs.map (·.stopped) == [true]) = true := by
  decide +kernel
def cmpOnly : State := holding { ringed with rings.sqs := [] } 1
theorem test_ring_delete_cmp : byteAt (deleteMsg 1 1) 0x21 = 1 ∧ cmpOnly.takes .ringDelete (deleteMsg 1 1) [(0x22, 14, 0xFF)] = true
    ∧ (cmpOnly.cq? 1).isSome = true ∧ gives (exec (.ringDelete (deleteMsg 1 1) []) cmpOnly) (fun t => t.rings.cqs.isEmpty) = true
    ∧ gives (exec (.ringDelete (deleteMsg 1 1) []) (holding ringed 1)) (fun t => t.rings.cqs.length == 1) = true := by
  decide +kernel
def closingRing : State := { ringed with rings.sqs := [{ ring1 with stopped := true, deleteMsg := some 3 }], mail.awaiting := [⟨3, 0x11, 0⟩] }
theorem test_ring_delete_complete : closingRing.outstanding 1 = false
    ∧ gives (exec (.ringDeleteComplete 1) closingRing) (fun t => t.rings.sqs.isEmpty && t.mail.awaiting.isEmpty && t.mail.fromTail == 1) = true := by
  decide +kernel
def weights : Bytes := msg 0x12 ([255, 1, 2, 3] ++ zeros 12)
theorem test_arb_set : (holding live 1).takes .arbSet weights [(0x24, 12, 0xFF)] = true ∧ (∀ i < 4, byteAt weights (0x20 + i) ≠ 0)
    ∧ gives (exec (.arbSet weights []) (holding live 1)) (fun t => t.rings.nextWeights == [255, 1, 2, 3] && t.rings.weights != t.rings.nextWeights) = true := by
  decide +kernel
theorem test_message_frames : gives (exec (.pad (msg 0 (zeros 32)) []) (holding live 1)) (fun t => t.regs == live.regs) = true
    ∧ (Instr.caps (msg 2 []) []) ∈ messageRows (msg 2 []) [] ∧ gives (exec (.caps (msg 2 []) []) alone) (fun t => t == alone) = true := by
  decide +kernel
theorem test_shelter_refuses : (Instr.attestQuote (msg 0x32 (zeros 64)) []) ∈ shelterRefused (msg 0x32 (zeros 64)) []
    ∧ gives (exec (.attestQuote (msg 0x32 (zeros 64)) []) (holding { live with regs.shelter := true } 2)) (fun t => t.keys == live.keys
      && t.mail.fromTail == 1 && Mem.get t.host 0x21054 == 6) = true := by
  decide +kernel

/-! ### Collections and upkeep -/

/-- COLLECTION_CREATE of a RAW_K8 collection with one partition, whose centroid stands at the driver region's first byte. -/
def create7 : Bytes :=
  msg 0x20 (toLe 2 7 ++ toLe 2 32 ++ [1, 2, 0, 0, 2, 0, 0, 0] ++ toLe 4 10 ++ toLe 4 1 ++ toLe 4 0 ++ toLe 8 0 ++ zeros 64
    ++ ([1, 2, 2, 0] ++ toLe 4 0x3F800000 ++ toLe 8 live.mem.regionBase ++ toLe 4 32 ++ toLe 4 1 ++ toLe 4 1 ++ toLe 4 1 ++ toLe 8 32 ++ zeros 24)
    ++ zeros 128)
theorem test_collection_create : (holding live 5).takes .collectionCreate create7 (createReserved (msgBytes create7)) = true
    ∧ (holding live 5).createFault (msgBytes create7) = none
    ∧ gives (exec (.collectionCreate create7 []) (holding live 5)) (fun t => t.colls.map (·.cid) == [7] && t.t1Fits && t.t3Fits) = true := by
  decide +kernel
def collMsg (type id : Nat) : Bytes := msg type (toLe 2 id ++ zeros 14)
theorem test_collection_state : (holding stored 1).takes .collectionState (collMsg 0x22 1) [(0x22, 14, 0xFF)] = true
    ∧ (holding stored 1).coll? (field (msgBytes (collMsg 0x22 1)) 0x20 2) = some coll1
    ∧ field (msgBytes (collMsg 0x22 0x1000)) 0x20 2 > 0xFFF := by
  decide +kernel
theorem test_collection_drop : (holding stored 1).takes .collectionDrop (collMsg 0x21 1) [(0x22, 14, 0xFF)] = true ∧ coll1.load ≠ .dropping
    ∧ gives (exec (.collectionDrop (collMsg 0x21 1) []) (holding stored 1)) (fun t => t.colls.map (·.load) == [.dropping]) = true := by
  decide +kernel
def dropping : State := { stored with colls := [{ coll1 with load := .dropping }] }
theorem test_collection_drop_complete : dropping.coll? 1 = some { coll1 with load := .dropping } ∧ dropping.collBusy 1 = false
    ∧ gives (exec (.collectionDropComplete 1) dropping) (fun t => t.colls.isEmpty) = true := by
  decide +kernel
def loading : State := { stored with colls := [{ coll1 with load := .loading, permille := 0, copyBack := true }] }
theorem test_collection_load_end : gives (exec (.collectionLoadEnd 1) loading) (fun t => t.colls.map (·.load) == [.loaded] && t.mail.fromTail != 0) = true
    ∧ (∀ x ∈ loading.colls, x.load = .loading → 1 ≤ x.cid) := by
  decide +kernel
theorem test_copy_back : gives (exec (.routeGraphCopyBackDone 1) loading) (fun t => t.colls.map (·.copyBack) == [false]) = true := by
  decide +kernel

/-- A collection with two partitions, one of them holding the only vector. -/
def part1 : Partition := { part0 with num := 1, centroid := [0x40, 0x40] }
def coll2 : Collection := { coll1 with form := 0, gens := [⟨1, 0, [part0, part1], [], [], 0⟩], segs := [seg3] }
def kept : State := { stored with colls := [coll2] }
def upkeepMsg (kind part dst : Nat) : Bytes :=
  msg 0x23 (toLe 2 1 ++ [BitVec.ofNat 8 kind, 64] ++ toLe 4 part ++ toLe 8 9 ++ toLe 8 0 ++ toLe 2 dst ++ zeros 6)
theorem test_upkeep_centroids : (holding kept 1).takes .upkeep (upkeepMsg 0 0 0) [(0x3A, 6, 0xFF)] = true
    ∧ upkeepFields (msgBytes (upkeepMsg 0 0 0)) = none ∧ coll2.load = .loaded ∧ coll2.home = kept.group.index
    ∧ byteAt (msgBytes (upkeepMsg 0 0 0)) 0x22 = 0
    ∧ gives (exec (.upkeepCentroidRetraining (upkeepMsg 0 0 0) []) (holding kept 1)) (fun t => t.colls.map (fun c => c.upkeep.length) == [1]) = true := by
  decide +kernel
theorem test_upkeep_quantiser : (holding kept 1).takes .upkeep (upkeepMsg 1 0 0) [(0x3A, 6, 0xFF)] = true ∧ coll2.pq = true
    ∧ coll2.presentSlots * coll2.slotSize ≤ kept.freeT1 := by
  decide +kernel
theorem test_upkeep_rebuild : (holding kept 1).takes .upkeep (upkeepMsg 2 1 0) [(0x3A, 6, 0xFF)] = true ∧ (coll2.named? 1).isSome = true
    ∧ (coll2.named? 2) = none
    ∧ gives (exec (.upkeepRebuild (upkeepMsg 2 1 0) []) (holding kept 1)) (fun t => t.colls.map (fun c => c.upkeep.length) == [1]) = true := by
  decide +kernel
def grouped (s : State) : State := { s with group.size := 2, group.leader := 0 }
theorem test_upkeep_move : (holding (grouped kept) 1).takes .upkeep (upkeepMsg 3 0 1) [(0x3A, 6, 0xFF)] = true ∧ coll2.named? 0 = some part0
    ∧ gives (exec (.upkeepPartitionMove (upkeepMsg 3 0 1) []) (holding (grouped kept) 1)) (fun t => t.group.moves.map (·.dst) == [1]) = true := by
  decide +kernel
/-- The same partition held by the other module, to which an order goes. -/
def abroad1 : State := grouped { stored with colls := [{ coll2 with gens := [⟨1, 0, [{ part0 with holder := 1 }, part1], [], [], 0⟩] }] }
theorem test_upkeep_move_order : (holding abroad1 1).takes .upkeep (upkeepMsg 3 0 0) [(0x3A, 6, 0xFF)] = true
    ∧ gives (exec (.upkeepPartitionMove (upkeepMsg 3 0 0) []) (holding abroad1 1)) (fun t => t.group.moves.map (·.src) == [1]
      && t.group.hops.map (·.slot) == [3]) = true := by
  decide +kernel
theorem test_upkeep_rebalance : (holding kept 1).takes .upkeep (upkeepMsg 4 0 0) [(0x3A, 6, 0xFF)] = true ∧ coll2.rebalances 0 = some ([0], 2)
    ∧ (coll2.upkeep.any fun u => u.kind == .rebalance) = false := by
  decide +kernel
def eligible1 : State := { kept with colls := [{ coll2 with eligible := [(0, 0)] }] }
theorem test_compaction : ({ coll2 with eligible := [(0, 0)] } : Collection).nextCompaction = some 0
    ∧ eligible1.namedSegment { coll2 with eligible := [(0, 0)] } (eligible1.compacted { coll2 with eligible := [(0, 0)] } 0) = false
    ∧ gives (exec (.compaction 1 0) eligible1) (fun t => t.rings == kept.rings && t.colls.all (·.eligible.isEmpty)) = true := by
  decide +kernel
theorem test_rebalance_start : coll2.upkeep = [] ∧ coll2.rebalances 0 = some ([0], 2) ∧ coll2.home = kept.group.index
    ∧ gives (exec (.rebalanceStart 1 0) kept) (fun t => t.rings == kept.rings && t.colls.map (fun c => c.upkeep.length) == [1]) = true := by
  decide +kernel
def job (kind : UpkeepKind) (done : Nat) : Upkeep :=
  { kind, seed := 1, threshold := 0, iterations := 1, done, build := 2, part := 0, centroids := [[0, 0], [0x40, 0x40]], codebook := [], replaces := []
    msg := none, paused := false }
def training (done : Nat) : State := { stored with colls := [{ coll1 with upkeep := [job .centroids done] }] }
theorem test_iteration : ({ coll1 with upkeep := [job .centroids 0] } : Collection).job? 0 = some (job .centroids 0)
    ∧ stored.upkeepWindow = true ∧ stored.power.applied = 0
    ∧ gives (exec (.clusteringIteration 1 0) (training 0)) (fun t => t.colls.all fun c => c.upkeep.map (·.done) == [1]) = true := by
  decide +kernel
theorem test_publish : gives (exec (.generationPublish 1 0) (training 1)) (fun t => t.colls.all (fun c => c.latest == 1 && c.gens.length == 2)
    && t.store.journal.length == 1) = true := by
  decide +kernel

/-! ### Keys, sessions and records -/

def key9 (root : Bool) : CollKey := { keyId := 9, suite := 1, key := zeros 32, root, persistent := false, withdrawn := false }
def keyed : State := { stored with colls := [{ coll1 with keys := [key9 true], everKey := true, sealRequired := true }], keys := { Keys.initial with
  imports := [⟨4, 0⟩], seed := some (zeros 32), session := some 60 } }
theorem test_key_import : (holding keyed 4).takes .keyImport (msg 0x30 (toLe 2 1 ++ zeros 2 ++ toLe 4 4 ++ zeros 168)) [(0x22, 2, 0xFF), (0xC9, 7, 0xFF)] = true
    ∧ (keyed.keys.imports.any fun k => k.kid == field (msgBytes (msg 0x30 (toLe 2 1 ++ zeros 2 ++ toLe 4 4 ++ zeros 168))) 0x24 4) = true
    ∧ (keyed.coll? 1).isSome = true := by
  decide +kernel
def destroyMsg (flags key : Nat) : Bytes := msg 0x31 (toLe 2 1 ++ [BitVec.ofNat 8 flags, 0] ++ toLe 4 key ++ zeros 8)
theorem test_key_destroy : (holding keyed 1).takes .keyDestroy (destroyMsg 0 9) [(0x22, 1, 0xFE), (0x23, 1, 0xFF), (0x28, 8, 0xFF)] = true
    ∧ ((keyed.coll? 1).bind fun c => c.key? 9) = some (key9 true) ∧ keyed.colls.map (·.keys) = [[key9 true]] ∧ keyed.rings.cmds = []
    ∧ byteAt (msgBytes (destroyMsg 0 9)) 0x22 = 0
    ∧ gives (exec (.keyDestroy (destroyMsg 0 9) []) (holding keyed 1)) (fun t => t.colls.all fun c => c.keys.isEmpty) = true := by
  decide +kernel
theorem test_key_destroy_all : byteAt (msgBytes (destroyMsg 1 0)) 0x22 = 1
    ∧ (holding keyed 1).takes .keyDestroy (destroyMsg 1 0) [(0x22, 1, 0xFE), (0x23, 1, 0xFF), (0x28, 8, 0xFF), (0x24, 4, 0xFF)] = true
    ∧ gives (exec (.keyDestroy (destroyMsg 1 0) []) (holding keyed 1)) (fun t => t.colls.all fun c => c.keys.isEmpty) = true := by
  decide +kernel
/-- An INSERT under way keeps the key that its payload is sealed under. -/
def keeping : Collection := { coll1 with keys := [key9 true], everKey := true, sealRequired := true }
def inserting : State := { mutating { deleting 0 none [] with kind := .insert, keyIds := [9] } with colls := [keeping] }
theorem test_key_kept : inserting.keysInUse (keeping.withdraw [9]) [9] = true
    ∧ gives (exec (.keyDestroy (destroyMsg 0 9) []) (holding inserting 1)) (fun t => t.colls.map (fun c => c.destroying) == [[(3, [9])]]) = true := by
  decide +kernel
def withdrawing : State := { stored with colls := [{ coll1 with keys := [{ key9 true with withdrawn := true }], destroying := [(3, [9])] }] }
theorem test_key_destroy_complete : gives (exec (.keyDestroyComplete 1) withdrawing) (fun t => t.colls.all fun c => c.keys.isEmpty && c.destroying.isEmpty) = true := by
  decide +kernel
def quoteMsg : Bytes := msg 0x32 ([0, 0, 0, 0] ++ toLe 4 0xFFFFFFFF ++ zeros 56)
theorem test_attest_quote : (holding keyed 2).takes .attest quoteMsg (attestReserved (msgBytes quoteMsg)) = true
    ∧ keyed.attestFields (msgBytes quoteMsg) = none ∧ field (msgBytes quoteMsg) 0x48 8 = 0 ∧ (∀ k ∈ keyed.keys.imports, k.kid ≠ 0xFFFFFFFF) := by
  decide +kernel
theorem test_identity : ∃ ident, keyed.identity? = some ident := ⟨_, rfl⟩
/-- Quotes with a named import key, with the measurement log and with a new import key. -/
def quoteOf (flags key addr len : Nat) : Bytes :=
  msg 0x32 ([0, BitVec.ofNat 8 flags, 0, 0] ++ toLe 4 key ++ zeros 32 ++ toLe 8 addr ++ toLe 4 len ++ zeros 12)
theorem test_attest_quotes : (holding keyed 2).takes .attest (quoteOf 0 4 0 0) (attestReserved (msgBytes (quoteOf 0 4 0 0))) = true
    ∧ keyed.attestFields (msgBytes (quoteOf 0 4 0 0)) = none ∧ keyed.keys.imports.find? (fun k => k.kid == 4) = some ⟨4, 0⟩
    ∧ (holding keyed 2).takes .attest (quoteOf 0 0xFFFFFFFF 0x40000 4096) (attestReserved (msgBytes (quoteOf 0 0xFFFFFFFF 0x40000 4096))) = true
    ∧ keyed.attestFields (msgBytes (quoteOf 0 0xFFFFFFFF 0x40000 4096)) = none
    ∧ (holding keyed 2).takes .attest (quoteOf 1 0 0 0) (attestReserved (msgBytes (quoteOf 1 0 0 0))) = true
    ∧ keyed.attestFields (msgBytes (quoteOf 1 0 0 0)) = none := by
  decide +kernel
def chainMsg : Bytes := msg 0x32 ([1, 0, 0, 0] ++ zeros 36 ++ toLe 8 0x40000 ++ toLe 4 4096 ++ zeros 12)
theorem test_attest_chain : (holding keyed 2).takes .attest chainMsg (attestReserved (msgBytes chainMsg)) = true ∧ byteAt (msgBytes chainMsg) 0x20 = 1
    ∧ keyed.attestFields (msgBytes chainMsg) = none := by
  decide +kernel
def sessionMsg (action : Nat) : Bytes := msg 0x85 ([BitVec.ofNat 8 action, 0, 0, 0] ++ toLe 4 (if action = 0 then 60 else 0) ++ zeros 8 ++ toLe 4 0 ++ zeros 76)
theorem test_session_open : (holding keyed 2).takes .serviceSession (sessionMsg 0) (sessionReserved (msgBytes (sessionMsg 0))) = true
    ∧ sessionFields (msgBytes (sessionMsg 0)) = none ∧ field (msgBytes (sessionMsg 0)) 0x28 8 = keyed.keys.serial
    ∧ field (msgBytes (sessionMsg 0)) 0x30 4 = keyed.keys.bootCount ∧ keyed.logFull = false
    ∧ ∃ t, exec (.serviceSessionOpen (sessionMsg 0) []) (holding keyed 2) = .next t := by
  refine ⟨?_, ?_, ?_, ?_, ?_, ⟨_, rfl⟩⟩ <;>  decide +kernel
theorem test_session_close : (holding keyed 2).takes .serviceSession (sessionMsg 1) (sessionReserved (msgBytes (sessionMsg 1))) = true
    ∧ gives (exec (.serviceSessionClose (sessionMsg 1) []) (holding keyed 2)) (fun t => t.keys.session == none && t.mail.fromTail == 1) = true
    ∧ gives (exec .serviceSessionExpiry keyed) (fun t => t.keys.session == none) = true := by
  decide +kernel
def cfgMsg (action num len : Nat) : Bytes :=
  msg 0x84 ([BitVec.ofNat 8 action, 0] ++ toLe 2 num ++ toLe 8 0x40000 ++ toLe 4 len ++ zeros 16)
theorem test_config_read : (holding live 1).takes .configRecord (cfgMsg 0 0x20 128) [(0x21, 1, 0xFF), (0x30, 16, 0xFF)] = true
    ∧ cfgFields (msgBytes (cfgMsg 0 0x20 128)) = none ∧ field (msgBytes (cfgMsg 0 0x20 128)) 0x2C 4 = 128 := by
  decide +kernel
theorem test_config_copy : live.copyInForce 0x20 = some (1, copyHeader 0x20 1 [] (zeros 64) ++ []) ∧ (copyHeader 0x20 1 [] (zeros 64) ++ []).length = 128 := by
  refine ⟨rfl, ?_⟩
  simp [copyHeader, padTo, zeros, toLe]; omega
def copy20 : Bytes := toLe 4 0x4B435231 ++ toLe 2 0x20 ++ zeros 10 ++ toLe 4 1 ++ zeros 108 ++ [7]
theorem test_config_write : (holding live 1).takes .configRecord (cfgMsg 1 0x20 129) [(0x21, 1, 0xFF), (0x30, 16, 0xFF)] = true
    ∧ live.cfgWriteFault 0x20 (hostRead [(0x40000, copy20)] 0x40000 129) = none ∧ ((live.record? 0x20).bind CfgRecord.inForce) = some (1, [])
    ∧ gives (exec (.configRecordWrite (cfgMsg 1 0x20 129) [(0x40000, copy20)]) (holding live 1)) (fun t =>
      ((t.record? 0x20).bind CfgRecord.inForce) == some (2, [7])) = true := by
  decide +kernel
def rec1 : CfgRecord := { num := 0x20, seqA := 1, seqB := 0, validA := true, validB := true, bodyA := [1], bodyB := [2] }
theorem test_record_in_force : rec1.inForce = some (1, [1]) ∧ (rec1.write 2 [3]).inForce = some (2, [3]) ∧ rec1.seqA ≠ rec1.seqB := by decide +kernel

/-! ### Firmware, programs and timetables -/

def stageMsg : Bytes := msg 0x40 (toLe 8 0x40000 ++ toLe 8 67108864 ++ zeros 16)
def activateMsg (scope : Nat) : Bytes := msg 0x41 ([BitVec.ofNat 8 scope] ++ zeros 15)
def stagedFw : State := holding { live with fw.staged := some (5, [(0, 0, 9)], true) } 1
theorem test_fw_stage : (holding live 1).takes .fwStage stageMsg [(0x30, 16, 0xFF)] = true
    ∧ field (msgBytes stageMsg) 0x20 8 + field (msgBytes stageMsg) 0x28 8 ≤ 2 ^ 47 ∧ field (msgBytes stageMsg) 0x28 8 ≤ 67108864 := by decide +kernel
theorem test_fw_now : stagedFw.takes .fwActivate (activateMsg 0) [(0x21, 1, 0xFE), (0x22, 14, 0xFF)] = true
    ∧ stagedFw.activateFault (msgBytes (activateMsg 0)) = none
    ∧ gives (exec (.fwActivateNow (activateMsg 0) []) stagedFw) (fun t => t.fw.activating == some 3) = true := by
  decide +kernel
theorem test_fw_reset : stagedFw.takes .fwActivate (activateMsg 1) [(0x21, 1, 0xFE), (0x22, 14, 0xFF)] = true ∧ byteAt (msgBytes (activateMsg 1)) 0x20 = 1
    ∧ stagedFw.activateFault (msgBytes (activateMsg 1)) = none
    ∧ gives (exec (.fwActivateAtReset (activateMsg 1) []) stagedFw) (fun t => t.fw.atReset && t.mail.fromTail == 1) = true := by
  decide +kernel
def activating (s : State) : State := { s with fw.activating := some 3 }
theorem test_image_switch : (activating live).moving = some 0 ∧ (activating live).compUp 0 = true ∧ (activating live).busy 0 = false
    ∧ gives (exec (.componentImageSwitch 0) (activating live)) (fun t => !t.compUp 0) = true := by decide +kernel
def owning : State := activating { busy ringed .plain true with fw.comps := live.fw.comps.modify 0 fun c => { c with moved := true } }
theorem test_move_timeout : owning.moving = some 1 ∧ (activating (busy ringed .plain true)).moving = some 0
    ∧ ((List.range 9).any fun k => (activating { busy ringed .plain true with mail.awaiting := [⟨3, 0x10, k⟩] }).busy k) = true := by decide +kernel
def waitingMail : State := activating { live with mail.awaiting := [⟨3, 0x10, 0⟩] }
theorem test_move_timeout_busy : waitingMail.moving = some 0 ∧ waitingMail.busy 0 = true
    ∧ gives (exec (.componentMoveTimeout 0) waitingMail) (fun t => !t.compUp 0) = true := by decide +kernel

/-- An image with its CRC in place. -/
def sealed (at0 : Nat) (b : Bytes) : Bytes := b.take at0 ++ toLe 4 (crc32 b) ++ b.drop (at0 + 4)
/-- A program of one END with one scratch tensor. -/
def image : Bytes :=
  sealed 0x70 (toLe 4 0x4B504731 ++ toLe 2 1 ++ [0, 0] ++ toLe 4 1 ++ toLe 4 1 ++ toLe 8 0x80 ++ toLe 2 1 ++ toLe 2 0 ++ zeros 4 ++ toLe 8 0xC0 ++ toLe 8 0xC0
    ++ toLe 8 0 ++ toLe 8 0 ++ toLe 8 5 ++ toLe 8 0 ++ zeros 24 ++ toLe 8 1000 ++ zeros 16
    ++ toLe 8 0x0800000000000000 ++ zeros 56 ++ [3] ++ zeros 15 ++ tensor 1 2 0 64)
def loadMsg (bound : Nat) : Bytes := msg 0x50 (toLe 8 0x40000 ++ toLe 8 image.length ++ toLe 2 bound ++ zeros 14)
theorem test_image : imageBad image = false ∧ imageBad (image.set 0x80 1) = true := by decide +kernel
theorem test_program_load : (holding live 1).takes .programLoad (loadMsg 0xFFFF) [(0x32, 1, 0xFE), (0x33, 13, 0xFF)] = true
    ∧ field (msgBytes (loadMsg 0xFFFF)) 0x30 2 = 0xFFFF ∧ hostRead [(0x40000, image)] 0x40000 image.length = image
    ∧ gives (exec (.programLoad (loadMsg 0xFFFF) [(0x40000, image)]) (holding live 1)) (fun t => t.comp.programs.map (·.handle) == [1] && t.t1Fits) = true := by
  decide +kernel
def crowded : State := { live with comp.programs := List.replicate 1024 (prog []) }
theorem test_program_refused : crowded.comp.programs.length = 1024
    ∧ gives (exec (.programLoad (loadMsg 0xFFFF) [(0x40000, image)]) (holding crowded 1)) (fun t => t.comp.programs.length == 1024
      && t.mail.fromTail == 1) = true := by
  decide +kernel
theorem test_program_bound : (holding stored 1).takes .programLoad (loadMsg 1) [(0x32, 1, 0xFE), (0x33, 13, 0xFF)] = true
    ∧ field (msgBytes (loadMsg 1)) 0x30 2 = 1 ∧ (stored.usable 1).isSome = true := by decide +kernel
def unloadMsg : Bytes := msg 0x51 (toLe 4 1 ++ zeros 12)
theorem test_program_unload : (holding loaded 1).takes .programUnload unloadMsg [(0x24, 12, 0xFF)] = true ∧ (loaded.program? 1).isSome = true
    ∧ loaded.programBound (prog [0x0800000000000000#64]) = false
    ∧ gives (exec (.programUnload unloadMsg []) (holding loaded 1)) (fun t => t.comp.programs.isEmpty) = true := by decide +kernel

def planBytes (quota : Nat) : Bytes := toLe 4 100 ++ toLe 2 1 ++ toLe 2 1 ++ toLe 4 1 ++ toLe 4 quota ++ toLe 4 1 ++ zeros 8 ++ toLe 4 0 ++ zeros 32
/-- A timetable for a group of one without windows. -/
def timetable (single size shares : Nat) (rest : Bytes) : Bytes :=
  sealed 0x4C (toLe 4 0x4B545431 ++ toLe 2 1 ++ toLe 2 single ++ toLe 8 77 ++ toLe 2 size ++ [0, 0] ++ toLe 4 12500 ++ toLe 4 1 ++ toLe 2 2 ++ toLe 2 0
    ++ toLe 8 0x80 ++ toLe 8 0xC0 ++ toLe 8 0xC0 ++ toLe 8 0x100 ++ toLe 8 shares ++ toLe 4 (0x140 + rest.length) ++ zeros 4 ++ zeros 48
    ++ ([0, 0xFF, 0, 0] ++ toLe 4 0 ++ toLe 4 250 ++ zeros 4) ++ ([5, 0, 0, 0] ++ toLe 4 500 ++ toLe 4 2000 ++ zeros 4) ++ zeros 32
    ++ planBytes 1 ++ planBytes 1 ++ rest)
def table1 : Bytes := timetable 1 1 0 []
def tableMsg (flags : Nat) : Bytes := msg 0x60 (toLe 8 0x40000 ++ toLe 4 0x140 ++ [BitVec.ofNat 8 flags, 0, 0, 0])
theorem test_timetable : table1.length = 0x140 ∧ timetableBad table1 [] = false ∧ timetableBad (table1.set 0x81 0) [] = true
    ∧ (readTimetable table1).ident = 77 ∧ (readTimetable table1).size = 1 := by decide +kernel
theorem test_timetable_stage : (holding live 1).takes .timetableLoad (tableMsg 0) [(0x2C, 1, 0xFE), (0x2D, 3, 0xFF)] = true ∧ live.switching = false
    ∧ gives (exec (.timetableLoadStage (tableMsg 0) [(0x40000, table1)]) (holding live 1)) (fun t => (t.staged.map (·.ident)) == some 77 && t.sw.state == 1) = true := by
  decide +kernel
theorem test_timetable_propose : (holding live 1).takes .timetableLoad (tableMsg 1) [(0x2C, 1, 0xFE), (0x2D, 3, 0xFF)] = true
    ∧ byteAt (msgBytes (tableMsg 1)) 0x2C = 1 ∧ live.groupMember = false
    ∧ gives (exec (.timetableLoadPropose (tableMsg 1) [(0x40000, table1)]) (holding live 1)) (fun t => t.sw.state == 2 && t.sw.proposal == 1) = true := by
  decide +kernel
def proposing : State :=
  { grouped live with staged := some (readTimetable table1), clock.round := 9, sw := { Switch.initial with state := 2, leading := true, proposal := 8
                                                                                                           atRound := 20, ident := 77, refusals := [1] } }
theorem test_switch_abort : proposing.switching = true ∧ proposing.sw.leading = true ∧ proposing.clock.round < proposing.sw.atRound
    ∧ proposing.group.joining = none ∧ proposing.sw.refusals ≠ [] ∧ proposing.sw.proposal + 2 * proposing.active.hops + 1 ≤ proposing.clock.round
    ∧ gives (exec .switchAbortDeadline proposing) (fun t => t.sw.state == 1 && !t.sw.leading) = true := by decide +kernel

/-! ### Groups and lending -/

def joinMsg : Bytes := msg 0x61 (toLe 8 99 ++ toLe 2 512 ++ toLe 2 511 ++ toLe 2 0 ++ zeros 2 ++ (toLe 2 511 ++ [7, 1]) ++ zeros 28)
def beforeJoin : State := holding { live with staged := some { Timetable.builtin with size := 512, single := false } } 2
theorem test_group_join : beforeJoin.takes .groupJoin joinMsg ((0x2E, 2, 0xFF) :: (List.range 8).flatMap fun i => (0x33 + 4 * i, 1, 0xFE)
        :: (if (mapEntry (msgBytes joinMsg) i).2.2 = 0 then [(0x30 + 4 * i, 3, 0xFF)] else [])) = true
    ∧ (∀ i < 8, (mapEntry (msgBytes joinMsg) i).2.2 = 1 → (mapEntry (msgBytes joinMsg) i).1 < 512 ∧ (mapEntry (msgBytes joinMsg) i).2.1 ≤ 7)
    ∧ (beforeJoin.staged.any fun t => t.size == 512 && !t.single) = true
    ∧ gives (exec (.groupJoin joinMsg []) beforeJoin) (fun t => t.group.joining == some 3 && t.group.joinIndex == 511) = true := by decide +kernel
def lendMsg (action window gib peer : Nat) : Bytes :=
  msg 0x62 ([BitVec.ofNat 8 action, BitVec.ofNat 8 window] ++ toLe 2 gib ++ toLe 2 peer ++ zeros 10)
def inGroup : State := holding (grouped live) 1
theorem test_lend_offer : inGroup.takes .lendMemory (lendMsg 0 0 1 1) [(0x26, 10, 0xFF), (0x21, 1, 0xFF)] = true ∧ inGroup.groupMember = true
    ∧ field (msgBytes (lendMsg 0 0 1 1)) 0x24 2 = 1
    ∧ gives (exec (.lendMemoryOffer (lendMsg 0 0 1 1) []) inGroup) (fun t => t.mem.offers.map (fun o => (o.1, o.2.1)) == [(1, 1)] && t.lentGib ≤ 256 && t.t1Fits) = true := by
  decide +kernel
theorem test_lend_borrow : inGroup.takes .lendMemory (lendMsg 1 15 256 1) [(0x26, 10, 0xFF)] = true
    ∧ byteAt (msgBytes (lendMsg 1 15 256 1)) 0x21 = 15 ∧ field (msgBytes (lendMsg 1 15 256 1)) 0x22 2 = 256
    ∧ gives (exec (.lendMemoryBorrow (lendMsg 1 15 256 1) []) inGroup) (fun t => t.mem.loans.map (·.gib) == [256]) = true := by decide +kernel
def loan (borrow : Bool) (stop : Option Nat) : Loan :=
  { window := 15, gib := 1, peer := 1, borrow, opened := true, start := some 0, stop, msg := none, regions := [5] }
def lending (borrow : Bool) (stop : Option Nat) : State := { inGroup with mem.loans := [loan borrow stop] }
theorem test_lend_end : (lending true none).takes .lendMemory (lendMsg 2 15 0 1) [(0x26, 10, 0xFF), (0x22, 2, 0xFF)] = true
    ∧ gives (exec (.lendMemoryEnd (lendMsg 2 15 0 1) []) (lending true none)) (fun t => t.mem.loans.map (·.stop) == [some 2]) = true := by decide +kernel
theorem test_lend_close : (lending true (some 0)).memoriesWf = true
    ∧ gives (exec (.lendWindowClose 15) (lending true (some 0))) (fun t => t.mem.loans.isEmpty) = true
    ∧ gives (exec (.lendWindowClose 15) (lending false (some 0))) (fun t => t.mem.loans.isEmpty) = true
    ∧ gives (exec (.lendWindowClose 15) (lending false (some 1))) (fun t => t == lending false (some 1)) = true := by decide +kernel
/-- A group of two in formation, with a trained port. -/
def upPort (state : Nat) : Port := { Port.down with state, enabled := true, used := true, farModule := 1, farPort := 0 }
def forming : State :=
  { live with group := { Group.initial with joining := some 3, joinSize := 2 }, ports := upPort 2 :: List.replicate 7 Port.down }
def note (type origin seq sent : Nat) (body : Bytes) : Bytes :=
  padTo 32 ([BitVec.ofNat 8 type, 1] ++ toLe 2 origin ++ toLe 4 seq ++ toLe 8 sent ++ body)
theorem test_ports_measured : forming.portState 0 = 2 ∧ forming.group.joinLeader = forming.group.joinIndex ∧ (note 0x13 1 0 0 []).length = 32
    ∧ field (note 0x13 1 0 0 []) 2 2 = 1
    ∧ gives (exec (.portsMeasuredReport 0 (note 0x13 1 0 0 [])) forming) (fun t => t.group.measured == [1]) = true := by decide +kernel
theorem test_formation_timeout : gives (exec .groupFormationTimeout forming) (fun t => t.group.joining == none && t.ports.all (fun p => p.state == 0)) = true := by
  decide +kernel

/-! ### Power cap, self-tests, format and sanitise -/

def capMsg (w : Nat) : Bytes := msg 0x70 (toLe 2 w ++ zeros 14)
theorem test_power_cap : (holding live 1).takes .powerCap (capMsg 600) [(0x22, 1, 0xFE), (0x23, 13, 0xFF)] = true ∧ field (msgBytes (capMsg 600)) 0x20 2 = 600
    ∧ gives (exec (.powerCap (capMsg 250) []) (holding live 1)) (fun t => t.power.capNext == some 250 && t.power.cap == 450) = true
    ∧ gives (exec (.powerCap (capMsg 625) []) (holding live 1)) (fun t => t.power.capNext == none && t.mail.fromTail == 1) = true := by decide +kernel
def testMsg (kind action : Nat) : Bytes := msg 0x71 ([BitVec.ofNat 8 kind, BitVec.ofNat 8 action] ++ zeros 14)
def underTest : State := holding { live with fw.selftest := (1, 1, 0, 0) } 1
theorem test_selftest_start : (holding live 1).takes (.selftest (holding live 1) 1 0) (testMsg 1 0) [(0x22, 14, 0xFF)] = true
    ∧ gives (exec (.selftestStart (testMsg 1 0) []) (holding live 1)) (fun t => t.fw.selftest == (1, 1, 0, 0)) = true := by decide +kernel
theorem test_selftest_abort : underTest.takes (.selftest underTest 1 1) (testMsg 1 1) [(0x22, 14, 0xFF)] = true
    ∧ gives (exec (.selftestAbort (testMsg 1 1) []) underTest) (fun t => t.fw.selftest.1 == 4) = true := by decide +kernel
theorem test_selftest_status : (holding live 1).takes (.selftest (holding live 1) 0 2) (testMsg 0 2) [(0x22, 14, 0xFF)] = true := by decide +kernel
theorem test_selftest_end : underTest.errors.queue.length < 64 ∧ underTest.comp.testAgain = [] ∧ underTest.fw.lodge = .up
    ∧ gives (exec (.selftestStart (testMsg 1 0) []) underTest) (fun t => t.fw.selftest == (1, 1, 0, 0) && t.mail.fromTail == 1) = true
    ∧ gives (exec (.selftestEnd [(63, 67)] [] [] 1) underTest) (fun t => t.fw.selftest == (3, 1, 1000, 2)) = true
    ∧ gives (exec (.selftestEnd [] [] [] 0) underTest) (fun t => t.fw.selftest == (2, 1, 1000, 0) && t.errors.seq == 1) = true := by decide +kernel
def formatMsg (format flags index : Nat) : Bytes := msg 0x80 ([BitVec.ofNat 8 format, BitVec.ofNat 8 flags, 0, 0] ++ toLe 8 index ++ zeros 20)
theorem test_format_convert : (holding live 1).takes .format (formatMsg 2 1 0) [(0x21, 1, 0xFC), (0x22, 2, 0xFF), (0x2C, 20, 0xFF)] = true
    ∧ live.store.format = 1 ∧ ({ live with store.format := 2 } : State).mappedSectors ≤ capacitySectors 1
    ∧ gives (exec (.formatConvert (formatMsg 2 1 0) []) (holding live 1)) (fun t => t.store.converting == some 2 && t.store.format == 1) = true := by decide +kernel
theorem test_format : (holding live 1).takes .format (formatMsg 2 2 15625000000) [(0x21, 1, 0xFC), (0x22, 2, 0xFF), (0x2C, 20, 0xFF)] = true
    ∧ gives (exec (.format (formatMsg 2 2 15625000000) []) (holding live 1)) (fun t => t.store.format == 2 && t.store.hostSectors == 0) = true
    ∧ gives (exec (.format (formatMsg 1 0 62500000) []) (holding live 1)) (fun t => t.store.format == 1 && t.store.indexSectors == 62500000) = true
    ∧ gives (exec (.format (formatMsg 1 0 62499999) []) (holding live 1)) (fun t => t.store.indexSectors == 100000000) = true := by decide +kernel
theorem test_format_drops : gives (exec (.format (formatMsg 1 2 62500000) []) (holding stored 1)) (fun t => t.store.formatting == some (1, 62500000)
      && t.colls.map (·.load) == [.dropping]) = true
    ∧ gives (exec (.format (formatMsg 1 0 62500000) []) (holding stored 1)) (fun t => t.colls == [coll1] && t.mail.fromTail == 1) = true := by decide +kernel
theorem test_conversion_end : gives (exec .formatConversionEnd { live with store.converting := some 2 }) (fun t => t.store.format == 2
    && t.store.converting == none) = true := by decide +kernel
def sanitizeMsg (mode pattern : Nat) : Bytes := msg 0x81 ([BitVec.ofNat 8 mode, 0, 0, 0] ++ toLe 4 pattern ++ zeros 24)
theorem test_sanitize : (holding stored 1).takes (.sanitize (holding stored 1)) (sanitizeMsg 2 0xA5) ([(0x21, 3, 0xFF), (0x28, 24, 0xFF)]
      ++ (if byteAt (msgBytes (sanitizeMsg 2 0xA5)) 0x20 = 2 then [] else [(0x24, 4, 0xFF)])) = true
    ∧ gives (exec (.sanitize (sanitizeMsg 0 0) []) (holding stored 1)) (fun t => t.colls == [coll1] && t.mail.fromTail == 1) = true
    ∧ gives (exec (.sanitize (sanitizeMsg 0 0) []) (holding { stored with keys.seed := some (zeros 32) } 1)) (fun t => t.colls.isEmpty && t.keys.generation == 1 && t.store.sanitise.isSome) = true := by
  decide +kernel
theorem test_sanitize_end : gives (exec (.sanitizeEnd 7) { live with store.sanitise := some (2, 4, 0), store.sanMsg := some 3 }) (fun t =>
      t.store.sanitise == none && t.store.badBlocks == 7) = true
    ∧ gives (exec (.sanitizeEnd 0) { live with store.sanitise := some (0, 4, 0) }) (fun t => t.store.sanitise == none) = true := by
  decide +kernel

/-! ### Repair -/

def retireMsg (channel page : Nat) : Bytes := msg 0x82 (toLe 2 channel ++ toLe 2 page ++ zeros 12)
theorem test_retire : (holding live 1).takes .retirePage (retireMsg 511 32255) [(0x24, 12, 0xFF)] = true
    ∧ field (msgBytes (retireMsg 511 32255)) 0x20 2 = 511 ∧ field (msgBytes (retireMsg 511 32255)) 0x22 2 = 32255
    ∧ gives (exec (.retirePage (retireMsg 511 32255) []) (holding live 1)) (fun t => t.mem.retiring == [(511, 32255, 3)]) = true
    ∧ gives (exec (.retirePage (retireMsg 511 32256) []) (holding live 1)) (fun t => t.mem.retiring == [] && t.mail.fromTail == 1) = true := by decide +kernel
def repairMsg (action channel first pages row entry : Nat) : Bytes :=
  msg 0x83 ([BitVec.ofNat 8 action, 0] ++ toLe 2 channel ++ toLe 2 first ++ toLe 2 pages ++ toLe 4 row ++ toLe 2 entry ++ zeros 18)
def serviced : State := holding { live with keys.session := some 3600000 } 1
def splice0 (repair state : Nat) : Splice :=
  { num := 0, stack := 7, channel := 511, first := 32192, pages := 64, state, copied := 0, released := false, back := false, retire := false
    repair, ended := true, msg := none, maint := 0, ppr := none }
def spliced (repair state : Nat) : State := { serviced with mem.splices := [splice0 repair state] }
theorem test_repair_start : serviced.keys.session.isSome = true
    ∧ serviced.takes .hbmRepair (repairMsg 0 511 0 0 0 0) [(0x2E, 18, 0xFF), (0x21, 1, 0xFF), (0x24, 4, 0xFF), (0x28, 4, 0xFF), (0x2C, 2, 0xFF)] = true
    ∧ serviced.takes .hbmRepair (repairMsg 1 511 32192 64 0 0) [(0x2E, 18, 0xFF), (0x28, 4, 0xFF), (0x2C, 2, 0xFF)] = true
    ∧ 0 < serviced.lanesLeft 511
    ∧ serviced.takes .hbmRepair (repairMsg 2 511 32192 64 0 0) [(0x2E, 18, 0xFF), (0x21, 1, 0xFF), (0x28, 4, 0xFF), (0x2C, 2, 0xFF)] = true
    ∧ gives (exec (.hbmRepairRowReplacement (repairMsg 2 511 32192 64 0 0) []) serviced) (fun t => t.mem.splices.map (·.state) == [1]) = true := by
  decide +kernel
theorem test_repair_end : (splice0 2 3).stack = 511 / 64
    ∧ (spliced 2 3).takes .hbmRepair (repairMsg 3 511 32192 64 7 0) [(0x2E, 18, 0xFF), (0x21, 1, 0xFF)] = true
    ∧ (spliced 2 3).takes .hbmRepair (repairMsg 4 511 0 0 0 0) [(0x2E, 18, 0xFF), (0x21, 1, 0xFF), (0x24, 4, 0xFF), (0x28, 4, 0xFF)] = true
    ∧ gives (exec (.hbmRepairRelease (repairMsg 4 511 0 0 0 0) []) (spliced 2 3)) (fun t => t.mem.splices.map (·.back) == [true]) = true := by
  decide +kernel
theorem test_maintenance : live.regs.ready = true
    ∧ (spliced 2 1).mem.selfRefresh.contains (511 / 64) = false ∧ (spliced 2 1).compUp Component.memory = true
    ∧ copyStep (splice0 2 1) = { splice0 2 1 with copied := 65536 }
    ∧ ({ live with fw.comps := live.fw.comps.map fun c => { c with state := .restarting } } : State).storesUp = false := by decide +kernel
theorem test_refresh : gives (exec (.pseudoChannelRefresh 0 false) (passing true)) (fun t => t.comp.passes.map (·.paused) == [true]) = true
    ∧ gives (exec (.pseudoChannelRefresh 0 true) { passing true with mem.refreshing := [0] }) (fun t => t.mem.refreshing.isEmpty) = true := by decide +kernel
theorem test_release : (spliced 1 3).splice? 7 0 = some (splice0 1 3) ∧ (spliced 2 3).splice? 7 0 = some (splice0 2 3)
    ∧ gives (exec (.spliceOldRunRelease 7 0) (spliced 1 3)) (fun t => t.mem.lanesSpare == [(511, 1)] && t.mem.splices.map (·.released) == [true]) = true := by
  decide +kernel
/-- Every cluster with its lowest 64 cores enabled. -/
def cored : State := { live with comp.enabled := List.replicate 64 (List.range 64) }
theorem test_core_errors : (cored.enabledOf 63).contains 63 = true ∧ cored.comp.defective = [] ∧ cored.comp.repairing = []
    ∧ gives (exec (.coreDatapathParity 63 63) cored) (fun t => t.comp.repairing == [(63, 63, 0)]) = true
    ∧ gives (exec (.coreDatapathParity 63 67) cored) (fun t => t.comp.repairing == []) = true
    ∧ gives (exec (.coreMemoryUncorrectable 63 63 16 none) cored) (fun t => t.errors.seq == 1) = true
    ∧ gives (exec (.coreMemoryUncorrectable 63 63 16 (some (5, 0))) (querying .scan member0)) (fun t => t.rings.cmds.isEmpty) = true := by decide +kernel
def repairing : State := { cored with comp.repairing := [(63, 63, 1)] }
theorem test_spare : repairing.comp.defective.contains (63, 66) = false ∧ (repairing.enabledOf 63).contains 66 = false ∧ repairing.comp.runs = []
    ∧ gives (exec (.spareTestEnd 63 66 true) repairing) (fun t => t.comp.defective == [(63, 63)] && (t.enabledOf 63).contains 66) = true
    ∧ gives (exec (.spareTestEnd 63 66 false) repairing) (fun t => t.comp.defective == [(63, 66)]) = true := by decide +kernel

/-! ### Reads that fail -/

/-- Region 0 spread over every stack. -/
def regioned : State := { live with mem.regions := [⟨0, none, List.replicate 8 0⟩] }
theorem test_corrected : regioned.liesOn 511 31 0x3FFFFFFF = true ∧ (regioned.correctedTimes 511 31).length < 16
    ∧ 16 ≤ (State.correctedTimes { regioned with errors.pages := [(511, 31, List.replicate 16 0)] } 511 31).length
    ∧ gives (exec (.hbmCorrected 511 31 0x3FFFFFFF) { regioned with errors.pages := [(511, 31, List.replicate 16 0)] }) (fun t =>
      t.errors.queue.length == 1 && t.errors.pages.isEmpty) = true
    ∧ gives (exec (.hbmUncorrectable 511 31 0x3FFFFFFF) regioned) (fun t => t.mem.poison == [0x3FFFFFE0]) = true
    ∧ gives (exec (.hbmUncorrectable 511 30 0x3FFFFFFF) regioned) (fun t => t.mem.poison == []) = true := by decide +kernel
theorem test_lane_ecc : ((passing true).comp.passes.find? fun p => p.lane == 0 && p.started) = some (pass0 true)
    ∧ (pass0 true).entries = [] ∧ (pass0 true).program = none
    ∧ gives (exec (.laneEccError 0 64) (passing true)) (fun t => t.comp.passes.isEmpty && t.errors.seq == 1) = true
    ∧ gives (exec (.laneEccError 0 64) (slicing 0)) (fun t => t.comp.passes.isEmpty && t.errors.seq == 1) = true := by decide +kernel
def lateRefine : State := { refining with clock.round := 1000 }
theorem test_refine_timeout : lateRefine.cmd? 5 = some (cmd 5 (.query (finding .refine asking)) true)
    ∧ ((finding .refine asking).active.any fun m => !m.refLeft.isEmpty) = true
    ∧ (finding .refine asking).refineEnd (lateRefine.imageFor 0).1 ≤ lateRefine.clock.round ∧ lateRefine.coll? 1 = some { coll1 with segs := [seg3] } := by decide +kernel
/-- A mailbox page that is full, so that no report goes out. -/
def mute (s : State) : State := { s with mail.fromTail := 63 }
theorem test_flash_read : 999999 < live.store.hostSectors ∧ live.storesUp = true ∧ live.readersOf 999999 = []
    ∧ live.movesRead = false ∧ 99999999 < live.store.indexSectors ∧ live.store.failing = [] := by decide +kernel
/-- The data of a waiting STORE_WRITE cannot be read: MEDIUM_ERROR, and its sector keeps its content. -/
def write1 : CmdBody := .store { kind := .write, dataAddr := 0x40000, first := 3, count := 1, issued := 0, data := [] }
theorem test_host_read_command : gives (exec (.hostReadFailed (.command 5) 0x40000) (mute (busy full write1 false))) (fun t =>
      Mem.get t.host 0x200000 == 8 && Mem.get t.host 0x200008 == 0 && Mem.get t.store.host 0x3000 == 5 && t.errors.seq == 1) = true
    ∧ gives (exec (.hostReadFailed (.command 5) 0x40000) (mute (querying .waiting member0))) (fun t => Mem.get t.host 0x200000 == 8) = true
    ∧ gives (exec (.hostReadFailed (.command 5) 0x40000) (busy full trim3 true)) (fun t => t == busy full trim3 true) = true
    ∧ (busy full write1 false).readsHost (cmd 5 write1 false) = true ∧ ringed.pcie.busMaster = true ∧ ringed.pcie.d3hot = false
    ∧ gives (exec (.hostReadFailed .doorbellPage 0x10FFF) (mute ringed)) (fun t => t.mail.readFailed == [0x10FFF]) = true := by
  decide +kernel
theorem test_host_read : ringed.sq? 1 = some ring1
    ∧ gives (exec (.hostReadFailed (.ring 1) (0x100000 + 128 * 64 - 1)) ringed) (fun t => t.mail.readFailed == [0x100000 + 128 * 64 - 1]) = true
    ∧ ({ ringed with mail.readFailed := [0x100000] } : State).mail.readFailed.contains 0x100000 = true
    ∧ gives (exec .hostPortInternalError live) (fun t => t.pcie.aerInternal) = true := by decide +kernel

/-! ### Registers, SMBus and the host port -/

def detached : State := { live with regs := { Regs.initial with ready := true } }
theorem test_register_write : live.decodesBar0 = true ∧ detached.hostPathRuns = false ∧ live.locksOut 0x020 8 0x30000 = true
    ∧ gives (exec (.registerWrite 0x020 8 0xFFFFFFFFFFFFFFFF) detached) (fun t => t.regs.doorbell == 0x00007FFFFFFFF000#64) = true
    ∧ gives (exec (.registerWrite 0x020 8 0x30000) live) (fun t => t.regs.doorbell == 0x10000#64 && t.errors.seq == 1) = true
    ∧ gives (exec (.registerWrite 0x024 8 1) detached) (fun t => t.regs.doorbell == 0 && t.regs.errAddr == 0x24) = true
    ∧ gives (exec (.registerWrite 0x050 4 0x100000007) detached) (fun t => t.regs.scratch == 7) = true := by decide +kernel
def adminSet : State := { live with regs := { live.regs with adminSq := 0x30000#64, adminCq := 0x40000#64, adminRing := 0x0A0A#32 } }
theorem test_admin : adminSet.regs.adminRing.toNat % 16 ≤ 10 ∧ adminSet.regs.adminRing.toNat / 256 % 16 ≤ 10 ∧ adminSet.regs.doorbell ≠ 0
    ∧ gives (exec (.adminEnable 1) adminSet) (fun t => t.regs.adminReady && t.rings.sqs.map (·.size) == [65536]) = true
    ∧ gives (exec (.adminEnable 0) adminSet) (fun t => !t.regs.adminReady) = true
    ∧ gives (exec (.adminEnable 1) detached) (fun t => !t.regs.adminReady && t.regs.adminEnable) = true := by decide +kernel
theorem test_nudge_detach : gives (exec (.nudge 7) { live with regs.asleep := true }) (fun t => !t.regs.asleep) = true
    ∧ gives (exec .detach ringed) (fun t => t.regs.untethered && t.tether.cause == 2 && t.rings.sqs.isEmpty) = true := by decide +kernel
theorem test_staged_fields :
    gives (exec (.stagedFieldBoundary .sleepEnable) { live with regs.sleepShadow := some false }) (fun t => !t.regs.sleepEnable) = true
    ∧ gives (exec (.stagedFieldBoundary .watchInterval) { live with regs.watchShadow := some 1023 }) (fun t => t.regs.watch == 1023) = true
    ∧ gives (exec (.stagedFieldBoundary .ptmPeriod) { live with regs.ptmShadow := some 255 }) (fun t => t.regs.ptmPeriod == 255) = true := by decide +kernel
def pended : State := { ringed with msix := { Msix.initial with masked := List.replicate 64 false, pend := List.replicate 64 true } }
theorem test_msix : pended.msix.pend.getD 63 false = true ∧ pended.msixReady 63 = true
    ∧ gives (exec (.msixPendingSend 63) pended) (fun t => t.msix.sent == [63] && t.msix.pend.getD 63 true == false) = true := by decide +kernel
def capturing : State := { live with regs.ptmCapture := true, pcie.ptmEnable := true }
theorem test_ptm : capturing.pcie.linkUp = true ∧ capturing.pcie.d3hot = false
    ∧ gives (exec (.ptmCapture 77) capturing) (fun t => t.regs.ptmSeq == 2 && t.regs.ptmHost == 77) = true := by decide +kernel
def owing : State := { ringed with rings.cqs := [{ done1 with time := 3, unsignalled := 2 }] }
theorem test_coalesce : owing.cq? 1 = some { done1 with time := 3, unsignalled := 2 } ∧ owing.compUp Component.ringService = true
    ∧ owing.msixReady 1 = false ∧ 1 < owing.msix.pend.length
    ∧ gives (exec (.completionCoalesceTimeout 1) owing) (fun t => t.clock.groupTime == 1500 && t.msix.pend.getD 1 false) = true
    ∧ gives (exec .pmeStatusClear { live with pcie.pmeStatus := true, pcie.wake := true }) (fun t => !t.pcie.wake && !t.pcie.pmeStatus) = true := by
  decide +kernel
def unwatched : State := { alone with mail.toTail := 0, rings.idle := 1000 }
theorem test_watch_untethered : unwatched.mayWatch = true ∧ unwatched.regs.sleepEnable = true ∧ unwatched.doorbellWord [(0x10000 + 0x800, [0, 0, 0, 0])] 0x800 = 0
    ∧ gives (exec (.doorbellWatch [(0x10000 + 0x800, [2, 0, 0, 0])]) unwatched) (fun t => t.mail.toTail == 2 && t.rings.idle == 0) = true
    ∧ gives (exec (.watcherSleep [(0x10000 + 0x800, [0, 0, 0, 0])]) unwatched) (fun t => t.regs.asleep) = true
    ∧ gives (exec (.watcherSleep [(0x10000 + 0x800, [2, 0, 0, 0])]) unwatched) (fun t => !t.regs.asleep) = true := by decide +kernel
def words : HostImage := [(0x10000, zeros 4 ++ toLe 4 63), (0x10800, zeros 8)]
def noCqs : State := { ringed with rings.cqs := [] }
theorem test_watch : noCqs.mayWatch = true ∧ noCqs.regs.asleep = false ∧ noCqs.doorbellWord words 4 = 63 ∧ noCqs.doorbellWord words 0x800 = noCqs.mail.toTail
    ∧ noCqs.doorbellWord words 0x804 = noCqs.mail.fromHead ∧ cellsUsed noCqs.mail.toTail noCqs.mail.toHead ≤ 63
    ∧ gives (exec (.doorbellWatch words) noCqs) (fun t => t.rings.sqs.map (·.tail) == [63]) = true := by decide +kernel
theorem test_smbus : live.power.v33 = true
    ∧ gives (exec (.smbCapWrite 250 true) live) (fun t => t.power.capNext == some 250) = true
    ∧ gives (exec (.smbCapWrite 251 true) live) (fun t => t.power.capNext == none && t.power.capRefused) = true
    ∧ gives (exec (.smbusWriteWord 2 0x100 true) { live with power.capRefused := true }) (fun t => !t.power.capRefused) = true := by decide +kernel
theorem test_host_port : gives (exec .flr ringed) (fun t => t.regs.cause == 3 && t.pcie.flrBusy && t.regs.doorbell == 0) = true
    ∧ gives (exec .hotReset ringed) (fun t => t.regs.cause == 4 && !t.pcie.linkUp) = true
    ∧ gives (exec .d3hotEntry ringed) (fun t => t.pcie.d3hot && t.regs.untethered && t.regs.doorbell == 0x10000) = true
    ∧ gives (exec .busMasterEnableClear ringed) (fun t => !t.pcie.busMaster && t.regs.untethered) = true
    ∧ gives (exec .d0Return { live with pcie.d3hot := true }) (fun t => !t.pcie.d3hot) = true
    ∧ gives (exec .flrCompletion { live with pcie.flrBusy := true }) (fun t => !t.pcie.flrBusy) = true
    ∧ gives (exec (.linkUp 5 8 0xFF) { live with pcie := Pcie.initial }) (fun t => t.pcie.linkUp && t.pcie.ptmEnable) = true := by decide +kernel

/-! ### Resets and start-up -/

theorem test_resets : gives (exec .perstAssert full) (fun t => t.power.perst && t.regs.step == 1 && t.rings.sqs.isEmpty && t.store.host == full.store.host) = true
    ∧ gives (exec .perstDeassert State.reset) (fun t => !t.power.perst) = State.reset.power.perst
    ∧ gives (exec .powerLoss stored) (fun t => !t.power.v12 && t.colls.map (·.cid) == [1]) = true
    ∧ gives (exec (.thermalCutOff 1) stored) (fun t => t.power.cutOff && !t.power.v12) = true := by decide +kernel
theorem test_power_good : State.reset.power.v12 = false
    ∧ gives (exec .powerGood State.reset) (fun t => t.power.v12 && t.keys.bootCount == 1 && t.regs.cause == 1) = true := by decide +kernel
def starting (step : Nat) : State := { live with regs := { Regs.initial with step } }
def report (passed : Bool) : StartReport := { passed, sense0Open := false, sense1Open := true, fwVersion := 0, measured := [], badCores := [], badParts := [] }
theorem test_startup : (starting 1).starting = true ∧ (starting 6).starting = true
    ∧ gives (exec (.startupStepEnd (report true)) (starting 1)) (fun t => t.regs.step == 2) = true
    ∧ gives (exec (.startupStepEnd (report true)) (starting 2)) (fun t => t.regs.step == 3) = true
    ∧ (starting 3).recordsFail = false ∧ gives (exec (.startupStepEnd (report true)) (starting 3)) (fun t => t.regs.step == 4) = true
    ∧ ((starting 4).testStep []).comp.out.length ≤ 32
    ∧ gives (exec (.startupStepEnd (report false)) (starting 4)) (fun t => t.regs.shelter) = true
    ∧ (starting 6).store.sanitise = none ∧ brokenJournal ((starting 6).badParts []).store.journal = false
    ∧ gives (exec (.startupStepEnd (report true)) (starting 5)) (fun t => t.regs.step == 6) = true
    ∧ gives (exec (.startupStepEnd (report true)) (starting 6)) (fun t => t.regs.ready && t.clock.round == 0) = true
    ∧ gives (exec .startupStepTimeout (starting 3)) (fun t => t.regs.shelter && t.errors.shelterCause == 0x43) = true
    ∧ gives (exec .startupHold (starting 3)) (fun t => t.power.hold && t.regs.step == 1) = true
    ∧ gives (exec .holdInputRecovered { live with power.hold := true }) (fun t => !t.power.hold) = true := by decide +kernel

/-! ### Power, temperature and sleep -/

def loop0 : LoopReading :=
  { power := 300, millivolts := 12000, sense0Open := false, sense1Open := false, dieTemp := 400, hbmTemp := 401, flashTemp := 402, cageTemp := 403 }
theorem test_ledger : (starting 1).fw.lodge = .up ∧ (starting 1).power.capMsgs = []
    ∧ gives (exec (.ledgerLoop loop0) { starting 1 with power.capNext := some 250 }) (fun t => t.power.cap == 250 && t.power.watts == 300) = true := by
  decide +kernel
theorem test_voltage : live.power.voltage < voltageStage 10000 0 ∧ voltageStage 12000 100 < ({ live with power.voltage := 4 } : State).power.voltage
    ∧ gives (exec (.voltageStageRise 10000) live) (fun t => t.shed > 0) = true
    ∧ gives (exec (.voltageStageFall 12000) { live with power.voltage := 4 }) (fun t => t.power.voltage == 0) = true := by decide +kernel
theorem test_pwrbrk : gives (exec .pwrbrkAssert live) (fun t => t.shed == 3) = true
    ∧ gives (exec .pwrbrkDeassert { live with power.pwrbrk := true }) (fun t => t.pwrbrkStage == 0) = true
    ∧ gives (exec (.powerClamp 1000) live) (fun t => t.power.clampLimit) = true := by decide +kernel
theorem test_limits : live.alwaysOn = true ∧ gives (exec (.supplyOutOfSpec 12961) live) (fun t => t.regs.shelter) = true
    ∧ gives (exec (.thermalThreshold (.hbm 7) 681) live) (fun t => assoc t.power.thermalStages 39 == 4) = true
    ∧ gives (exec (.thermalStageEnd (.hbm 7)) { live with power.thermalStages := [(39, 4)] }) (fun t => t.power.thermalStages.isEmpty) = true
    ∧ gives (exec (.thermalLimit (.die 1) 880) live) (fun t => t.regs.shelter && t.errors.shelterCause == 0x41) = true := by decide +kernel
def asleep : State := { live with comp.asleep := (List.range 32).map (32 + ·), active := { Timetable.builtin with windows := [] } }
theorem test_cluster_sleep : live.comp.asleep.contains 63 = false ∧ gives (exec (.clusterSleep 63) live) (fun t => t.comp.asleep == [63]) = true := by
  decide +kernel
theorem test_die_sleep : asleep.dieAsleep 1 = false ∧ asleep.active.windows = []
    ∧ gives (exec (.dieDeepSleep 1) asleep) (fun t => t.dieAsleep 1 && t.mem.selfRefresh == [4, 5, 6, 7]) = true
    ∧ gives (exec (.dieWake 1) { asleep with comp.dieSleep := [false, true], mem.selfRefresh := [4, 5, 6, 7] })
      (fun t => !t.dieAsleep 1 && t.mem.selfRefresh.isEmpty && t.comp.housekeeping == [1]) = true := by decide +kernel

/-! ### Firmware processors -/

theorem test_component : live.firmwareRuns = true ∧ live.compUp 8 = true ∧ live.failsAgain 8 = false ∧ live.fw.comps.length = 9 ∧ live.rings.cmds = []
    ∧ gives (exec (.compartmentFault 8) live) (fun t => !t.compUp 8 && t.compUp 0) = true
    ∧ gives (exec (.componentHeartbeatTimeout 0) live) (fun t => !t.compUp 0) = true := by decide +kernel
theorem test_kiosk : live.kioskComps 0 ≠ [] ∧ gives (exec (.kioskHalt 0) live) (fun t => !t.compUp 0) = true := by decide +kernel
def restarting (st : FwState) : State := { live with fw.comps := live.fw.comps.modify 0 fun c => { c with state := st } }
theorem test_restarts : (restarting .restarting).fw.activating = none
    ∧ gives (exec (.componentRestartEnd 0) (restarting .restarting)) (fun t => t.compUp 0) = true
    ∧ (0 ∈ (restarting .kioskRestarting).kioskComps 0)
    ∧ gives (exec (.kioskRestartEnd 0) (restarting .kioskRestarting)) (fun t => t.compUp 0) = true := by decide +kernel
theorem test_watchdogs : gives (exec .lodgeWatchdogExpiry { live with fw.lodgeAt := some 0 }) (fun t => t.fw.lodge == .up || !t.regs.ready) = true
    ∧ gives (exec .gatehouseWatchdogExpiry { live with fw.lodge := .restarting }) (fun t => t.fw.gatehouse == .heldForLodge) = true
    ∧ gives (exec .lodgeWatchdogExpiry live) (fun t => t.fw.lodge == .restarting) = true
    ∧ gives (exec .gatehouseWatchdogExpiry live) (fun t => t.fw.gatehouse == .restarting) = true
    ∧ gives (exec .lodgeReturn { live with fw.lodge := .restarting }) (fun t => t.fw.lodge == .up) = true
    ∧ gives (exec .gatehouseReturn { live with fw.gatehouse := .restarting }) (fun t => t.fw.gatehouse == .up) = true
    ∧ gives (exec .gatehouseReturnTimeout { live with fw.gatehouse := .restarting }) (fun t => t.regs.step == 2) = true := by decide +kernel
def recovering : State := { live with errors.depths := [⟨1, 4, 2, true⟩] }
theorem test_recovery : recovering.depthOf (1, 4) = 2 ∧ gives (exec (.recoveryPeriodEnd 1 4) recovering) (fun t => t.depthOf (1, 4) == 0) = true := by
  decide +kernel

/-! ### Instructions -/

/-- An instruction word: its opcode and its other fields by their lowest bit. -/
def word (op : Nat) (fields : List (Nat × Nat)) : BitVec 64 := BitVec.ofNat 64 (fields.foldl (fun n f => n + f.1 * 2 ^ f.2) (op * 2 ^ 56))
/-- A window that covers every round, with cluster 8, for general programs. -/
def window3 : TtWindow := { kind := 3, prewake := 100, first := 0, rounds := 1, clusters := [8] }
def runOf (cores : List VCore) (teams : List (Nat × Nat)) : Run :=
  { rid := 0, handle := 1, why := .command 5, seed := 9, args := [], teams, teamsDone := [], cores, shared := [], moves := [], nextTid := 0, flags := 0
    elements := 0, hists := [], wrote := 0, fill := 0, fault := none, medium := false, cleared := true, saved := [], announced := 0 }
def core0 : VCore :=
  let c := newCore (runOf [] []) (prog []) 0
  { c with s := (c.s.set 1 0xFFFFFFFF#32).set 2 3#32, mem := (List.range 576).map fun i => (i, 0#8) }
/-- A run of one core about to issue a word. -/
def issuing (w : BitVec 64) (c : VCore) : State :=
  { busy loaded .plain true with
    comp := { loaded.comp with programs := [prog [w, w, w]], runs := [runOf [c] [(0, 8)]] }
    active := { Timetable.builtin with windows := [window3] } }
def issues (w : BitVec 64) (c : VCore) : Bool := decide ((issuing w c).issuer 0 0 = some (runOf [c] [(0, 8)], prog [w, w, w], c, w))
/-- Something of the core after a command. -/
def after (o : Host.Outcome State Fault Refusal) (p : VCore → Bool) : Bool := gives o fun t => t.comp.runs.all fun r => r.cores.all p

theorem test_sets : core0.s.length = 16 ∧ issues (word 1 [(5, 52), (0x80000000, 0)]) core0 = true
    ∧ after (exec (.sets 0 0) (issuing (word 1 [(5, 52), (0x80000000, 0)]) core0)) (fun c => c.s! 5 == 0x80000000 && c.pc == 1) = true := by decide +kernel
theorem test_adds : issues (word 2 [(5, 52), (1, 48), (0xFFFFFFFF, 0)]) core0 = true
    ∧ after (exec (.adds 0 0) (issuing (word 2 [(5, 52), (1, 48), (0xFFFFFFFF, 0)]) core0)) (fun c => c.s! 5 == 0xFFFFFFFE && c.s! 1 == 0xFFFFFFFF) = true := by
  decide +kernel
theorem test_muls : issues (word 3 [(1, 52), (1, 48), (2, 44)]) core0 = true
    ∧ after (exec (.muls 0 0) (issuing (word 3 [(1, 52), (1, 48), (2, 44)]) core0)) (fun c => c.s! 1 == 0xFFFFFFFD && c.s! 2 == 3) = true := by decide +kernel
theorem test_nop_instruction : issues (word 0 []) core0 = true ∧ after (exec (.nopInstruction 0 0) (issuing (word 0 []) core0)) (fun c => c.pc == 1) = true := by
  decide +kernel
theorem test_setb : issues (word 4 [(15, 52), (1, 0)]) core0 = true
    ∧ after (exec (.setb 0 0) (issuing (word 4 [(15, 52), (1, 0)]) core0)) (fun c => c.pc == 1) = true := by decide +kernel
theorem test_loop : issues (word 5 [(2, 16), (1, 0)]) core0 = true ∧ issues (word 5 [(0, 16), (1, 0)]) core0 = true
    ∧ after (exec (.loop 0 0) (issuing (word 5 [(2, 16), (1, 0)]) core0)) (fun c => c.loops == [⟨2, 1, 2⟩] && c.pc == 1) = true
    ∧ after (exec (.loop 0 0) (issuing (word 5 [(0, 16), (1, 0)]) core0)) (fun c => c.loops.isEmpty && c.pc == 2) = true := by decide +kernel
/-- An END with a transfer of its core in flight waits for it. -/
def endingCore : State :=
  { issuing (word 8 []) core0 with comp.runs := [{ runOf [core0] [(0, 8)] with moves := [⟨4, 0, 3, true, src1, dst1, [], [], [], [], [], [], none⟩] }] }
theorem test_end_waits : gives (exec (.endCore 0 0) endingCore) (fun t => t.comp.runs.all fun r => r.cores.map (·.wait) == [some .ending]) = true := by
  decide +kernel
theorem test_waits : issues (word 6 [(2, 54)]) core0 = true ∧ issues (word 7 [(1, 54)]) core0 = true ∧ issues (word 9 [(15, 52)]) core0 = true
    ∧ after (exec (.bar 0 0) (issuing (word 6 [(2, 54)]) core0)) (fun c => c.wait == some (.bar 2) && c.bars == [0, 0, 1, 0]) = true
    ∧ after (exec (.waitr 0 0) (issuing (word 7 [(1, 54)]) core0)) (fun c => c.wait == some .bulk) = true
    ∧ after (exec (.waitm 0 0) (issuing (word 9 [(15, 52)]) core0)) (fun c => c.wait == some (.tag 15)) = true := by decide +kernel
theorem test_end : issues (word 8 []) core0 = true ∧ after (exec (.endCore 0 0) (issuing (word 8 []) core0)) (·.ended) = true := by decide +kernel
theorem test_tiles : issues (word 0x20 [(31, 51)]) core0 = true ∧ issues (word 0x21 [(31, 51), (30, 46)]) core0 = true
    ∧ scalesConflict (core0.tile 31).scales (core0.tile 30).scales = false
    ∧ issues (word 0x22 [(31, 51), (0x800040, 0)]) core0 = true ∧ localGood (tileAddr (word 0x22 [(31, 51), (0x800040, 0)]) core0) 4160 = true
    ∧ issues (word 0x23 [(31, 51), (0x40, 0)]) core0 = true ∧ localGood (tileAddr (word 0x23 [(31, 51), (0x40, 0)]) core0) 4160 = true
    ∧ localGood (tileAddr (word 0x23 [(0x3F000, 0)]) core0) 4160 = false := by decide +kernel
theorem test_tclr : after (exec (.tclr 0 0) (issuing (word 0x20 [(31, 51)]) { core0 with tiles := List.replicate 32 { Tile.cleared with terms := 7 } }))
    (fun c => (c.tile 31).terms == 0 && (c.tile 30).terms == 7) = true := by decide +kernel
/-- Buffer 0 in K8 and buffer 1 in K24. -/
def core1 : VCore := { core0 with bufs := [⟨0x1000, 2, 64, 0x3F800000, 0⟩, ⟨0x2000, 5, 16, 0x3F800000, 0⟩] ++ List.replicate 14 ⟨0, 2, 0, 0x3F800000, 0⟩ }
theorem test_mma : issues (word 0x28 [(1, 25)]) core1 = true ∧ (mmaIssue (word 0x28 [(1, 25)]) core1).faults = none := by decide +kernel
theorem test_select : issues (word 0x40 [(64, 42), (1, 37)]) core0 = true ∧ issues (word 0x40 [(1, 54), (1, 42), (16, 0)]) core0 = true
    ∧ issues (word 0x40 [(2, 54), (16, 0)]) core0 = true ∧ localGood (selAddr (word 0x40 [(1, 54), (1, 42), (16, 0)]) core0) 16 = true
    ∧ after (exec (.selInit 0 0) (issuing (word 0x40 [(64, 42), (1, 37)]) core0)) (fun c => c.sel.cap == 64 && c.sel.low) = true
    ∧ after (exec (.selFeed 0 0) (issuing (word 0x40 [(1, 54), (1, 42), (16, 0)]) { core0 with sel := SelUnit.setUp 4 true 0 0 }))
      (fun c => c.sel.held == [⟨0, 0, 0⟩]) = true
    ∧ after (exec (.selRead 0 0) (issuing (word 0x40 [(2, 54), (16, 0)]) { core0 with sel := { SelUnit.setUp 4 true 0 0 with held := [⟨9, 8, 7⟩] } }))
      (fun c => (c.mem.find? (·.1 == 32)).map (·.2) == some 9) = true := by decide +kernel
/-- A program with a tensor in local memory and one in T1, and a block that moves one to the other. -/
def mover (w : BitVec 64) : Program :=
  { prog [w, w, w] with
    tensors := [⟨4, 0, 0, parseTensor (tensor 0 2 0 8)⟩, ⟨3, 0, 0, parseTensor (tensor 1 2 0x1100000000 8)⟩]
    pool := [[0, 1, 0, 0] ++ toLe 4 8 ++ toLe 4 1 ++ toLe 4 1 ++ zeros 15 ++ [2], zeros 12 ++ toLe 4 1 ++ zeros 15 ++ [3]] }
def moving1 : State := { issuing (word 0x10 [(3, 52)]) core0 with comp.programs := [mover (word 0x10 [(3, 52)])] }
theorem test_move_instruction : moving1.issuer 0 0 = some (runOf [core0] [(0, 8)], mover (word 0x10 [(3, 52)]), core0, word 0x10 [(3, 52)])
    ∧ (moveIssue (mover (word 0x10 [(3, 52)])) (runOf [core0] [(0, 8)]) (word 0x10 [(3, 52)]) core0).faults = none ∧ moving1.t2Shed [] = false
    ∧ gives (exec (.moveInstruction 0 0) moving1) (fun t => t.comp.runs.all fun r => r.moves.map (·.tag) == [3] && r.nextTid == 1) = true := by decide +kernel
/-- A scan job of one query of pass 0, in core memory. -/
def job1 : Bytes := zeros 6 ++ [1] ++ zeros 57 ++ zeros 5 ++ [8] ++ zeros 42 ++ toLe 8 0x800000 ++ zeros 8
def core2 : VCore := { core0 with mem := (List.range 576).map fun i => (i, job1.getD i 0) }
theorem test_scan : issues (word 0x18 [(3, 52)]) core2 = true ∧ (scanIssue (runOf [core2] [(0, 8)]) (word 0x18 [(3, 52)]) core2).faults = none
    ∧ (issuing (word 0x18 [(3, 52)]) core2).jobPoisoned ((runOf [core2] [(0, 8)]).localRead 0 0 576) = false
    ∧ gives (exec (.scan 0 0) (issuing (word 0x18 [(3, 52)]) core2)) (fun t => t.comp.passes.map (·.program) == [some (0, 0)]) = true := by decide +kernel
theorem test_data_issues : issues (word 0x30 [(0, 50), (1, 12)]) core1 = true ∧ (vopIssue (word 0x30 [(0, 50), (1, 12)]) core1).faults = none
    ∧ issues (word 0x38 [(0, 47)]) core1 = true ∧ (outIssue (prog []) (word 0x38 [(0, 47)]) core1).faults = none
    ∧ issues (word 0x3C [(1, 47), (2, 39)]) core1 = true ∧ (accmIssue (prog []) (word 0x3C [(1, 47), (2, 39)]) core1).faults = none := by decide +kernel

/-! ### Programs -/

/-- A run with no team yet, of an admitted command. -/
def unplaced : State := { issuing (word 8 []) core0 with comp.runs := [runOf [] []] }
theorem test_team_start : unplaced.run? 0 = some (runOf [] []) ∧ unplaced.program? 1 = some (prog [word 8 [], word 8 [], word 8 []])
    ∧ unplaced.cmd? 5 = some (cmd 5 .plain true) ∧ unplaced.runTurn (runOf [] []) = true ∧ unplaced.power.applied = 0
    ∧ unplaced.saveBad (runOf [] []) (prog []) 0 = none
    ∧ (runOf [] []).waitingTeams (prog [word 8 [], word 8 [], word 8 []]) = [0] ∧ unplaced.clusterFree (runOf [] []) 8 = true
    ∧ gives (exec (.teamStart 0 [(0, 8)]) unplaced) (fun t => t.comp.runs.all fun r => r.teams == [(0, 8)] && r.cores.length == 1) = true := by decide +kernel
theorem test_cluster_wake : ({ unplaced with comp.asleep := [8] } : State).comp.asleep.contains 8 = true ∧ unplaced.clusterWanted 8 = true ∧ unplaced.inCluster (runOf [] []) 8 = true
    ∧ unplaced.dieAsleep (8 / 32) = false ∧ unplaced.prewakeWithin (·.prewake) (fun w => w.clusters.contains 8) = true
    ∧ gives (exec (.clusterWake 8) { unplaced with comp.asleep := [8] }) (fun t => t.comp.asleep.isEmpty) = true
    ∧ gives (exec (.prewake 8) { unplaced with comp.asleep := [8] }) (fun t => t.comp.asleep.isEmpty) = true := by decide +kernel
def transfer1 : Transfer :=
  { tid := 4, vcore := 0, tag := 3, scan := false, src := parseTensor (tensor 1 2 0x1100000000 8), dst := parseTensor (tensor 1 2 0x1100000040 8)
    extent := [8, 1, 1, 1], srcOrigin := [0, 0, 0, 0], dstOrigin := [0, 0, 0, 0], reads := [], writes := [], job := [], flown := none }
def carrying : State := { issuing (word 8 []) core0 with comp.runs := [{ runOf [core0] [(0, 8)] with moves := [transfer1] }], mem.hbm := [(0x1100000001, 0x40)] }
theorem test_transfer : transfer1.src.fmt? = some .k8 ∧ carrying.transferFails (runOf [core0] [(0, 8)]) transfer1 .k8 .k8 = false
    ∧ gives (exec (.transferComplete 0 4 []) carrying) (fun t => t.mem.hbm == [(0x1100000001, 0x40), (0x1100000041, 0x40)]
      && t.comp.runs.all fun r => r.moves.isEmpty) = true := by decide +kernel
def slow : VCore := { core0 with cycles := 1001, pc := 2 }
theorem test_cycle_limit : ({ runOf [slow] [(0, 8)] with moves := [transfer1] } : Run).cores.find? (fun c => teamOf c.idx == 0 && c.cycles > 1000) = some slow
    ∧ gives (exec (.cycleLimit 0 0) { carrying with comp.runs := [{ runOf [slow] [(0, 8)] with moves := [transfer1] }] })
      (fun t => t.comp.runs.map (·.fault) == [some (8, 2, 0)]) = true := by decide +kernel
def deep : VCore := { core0 with loops := List.replicate 4 ⟨1, 0, 3⟩ }
theorem test_loop_depth : gives (exec (.loop 0 0) { issuing (word 5 [(2, 16), (1, 0)]) deep with comp.runs := [{ runOf [deep] [(0, 8)] with moves := [transfer1] }] })
      (fun t => t.comp.runs.map (·.fault) == [some (5, 0, 0)]) = true := by decide +kernel
def ended1 : State := { issuing (word 8 []) core0 with comp.runs := [{ runOf [{ core0 with ended := true }] [] with teamsDone := [0] }] }
theorem test_program_end : ended1.cmd? 5 = some (cmd 5 .plain true)
    ∧ gives (exec (.programEnd 0) ended1) (fun t => t.comp.runs.isEmpty && t.rings.cmds.isEmpty && Mem.get t.host 0x200014 == 0x11) = true := by decide +kernel
def chunk1 : Chunk := { id := 1, attr := 0, keyId := 9, keep := false, plain := [65], tokens := [1, 2], truncated := false }
def embedding : Mutation := { waitingDelete with kind := .embed, entries := [⟨1, 0, none, none, none⟩], chunks := [chunk1] }
def encoder : Program := { prog [] with kind := 1 }
def pendingEmbed : State := { busy stored (.mutation embedding) false with colls := [{ coll1 with embed := 1 }], comp := { loaded.comp with programs := [encoder] } }
theorem test_embed : pendingEmbed.program? 1 = some encoder ∧ pendingEmbed.compUp Component.ingest = true ∧ 0 < encoder.bucket 2
    ∧ (pendingEmbed.argTensors [(0, denseTensor .u32 [16, 1]), (1, denseTensor .u32 [1]), (2, denseTensor .k16 [2, 1])]).isSome = true ∧ encoder.bucket 2 = 16
    ∧ gives (exec (.embedBatch 5 0 1) pendingEmbed) (fun t => t.comp.runs.map (·.why) == [.embed 5 0 1] && t.comp.runs.map (·.seed) == [9]) = true := by
  decide +kernel

/-! ### Ports and the group -/

/-- A cage with a module of a power class. -/
def fitted (cls : Nat) : Cage :=
  { module := true, ident := 0x18, powerClass := cls, lanes := 0, temp := 0, txPower := [], rxPower := [], txDisable := 255, appSelect := 1, lowPower := false }
def port0 (p : Port) : State := { grouped live with ports := p :: List.replicate 7 Port.down }
theorem test_training : (port0 (upPort 1)).portState 0 = 1 ∧ (port0 (upPort 1)).ports.length = 8
    ∧ gives (exec (.blockLock 0) (port0 (upPort 1))) (fun t => t.portState 0 == 2 && t.group.sent.length == 1) = true
    ∧ gives (exec (.trainingTimeout 0) (port0 (upPort 1))) (fun t => t.portState 0 == 0) = true
    ∧ gives (exec (.trainingRetry 0) { port0 { upPort 0 with retry := true } with cages := [fitted 4] }) (fun t => t.portState 0 == 1) = true := by decide +kernel
def flit1 : Flit := { type := 1, replayed := false, last := true, index := 0, length := 1, flow := none, msgs := [zeros 32] }
theorem test_port_events : gives (exec (.blockLockLoss 0) (port0 (upPort 4))) (fun t => t.portState 0 ≤ 1) = true
    ∧ blockLost none = true
    ∧ gives (exec (.lostBlock 0 65535 none [flit1]) (port0 (upPort 2))) (fun t => t.group.lostFlits == [⟨0, 65535, flit1⟩]
      && (t.port 0).nacks.length == 4) = true
    ∧ gives (exec (.linkHello 0 9 1 0) (port0 { upPort 3 with hello := true })) (fun t => t.portState 0 == 2 && !(t.port 0).hello && t.errors.seq == 1) = true
    ∧ gives (exec (.linkHello 0 0 1 0) (port0 (upPort 2))) (fun t => (t.port 0).hello) = true
    ∧ (port0 (upPort 4)).group.parent ≠ some 0
    ∧ gives (exec (.timeSync 0 320 16 400) (port0 (upPort 4))) (fun t => (t.port 0).lastTx == 320 && (t.port 0).lastRx == 400) = true := by decide +kernel
/-- A port before its sixty-fourth exchange. -/
def before64 : State := { live with ports := { upPort 2 with hello := true, trips := List.replicate 63 16000 } :: List.replicate 7 Port.down }
theorem test_measured : before64.portState 0 = 2 ∧ before64.group.joining = none ∧ before64.groupMember = false
    ∧ ((before64.port 0).trips ++ ((before64.port 0).roundTrip 100 100 16000).toList).length = 64
    ∧ gives (exec (.timeSync 0 100 100 16000) before64) (fun t => t.portState 0 == 3 && (t.port 0).delay == 8000) = true := by decide +kernel
def info (cls : Nat) : CageInfo := { ident := 0x18, powerClass := cls, lanes := 0, temp := 0, txPower := [], rxPower := [] }
def caged : State := { port0 (upPort 4) with cages := fitted 4 :: List.replicate 3 Cage.empty }
theorem test_cages : caged.cages.length = 4
    ∧ gives (exec (.cageModuleInserted 3 (info 4)) caged) (fun t => (t.cages.map (·.module)).getD 3 false && t.errors.seq == 0) = true
    ∧ gives (exec (.cageModuleInserted 3 (info 5)) caged) (fun t => (t.cages.map (·.lowPower)).getD 3 false && t.errors.seq == 1) = true
    ∧ gives (exec (.cageModuleRemoved 0) caged) (fun t => t.portState 0 == 0) = true
    ∧ gives (exec (.cmisHighAlarm 0) caged) (fun t => t.portState 0 == 0 && t.errors.seq == 1) = true := by decide +kernel
def timed : State := { port0 (upPort 4) with group.index := 1 }
def heard (type : Nat) (body : Bytes) : Bytes := note type 0 5 1600 body
theorem test_heartbeat : timed.hears? 3 0 (heard 3 [4]) = true
    ∧ gives (exec (.heartbeat 0 (heard 3 [4])) timed) (fun t => t.group.stages == [(0, 4)] && t.group.toSend.length == 1) = true
    ∧ gives (exec (.shedStage 0 (heard 8 [4])) timed) (fun t => t.group.stages == [(0, 4)]) = true
    ∧ timed.hears? 8 0 (heard 8 [4]) = true := by decide +kernel
def propose : Bytes := heard 4 (toLe 8 77 ++ toLe 4 64 ++ [0, 0, 0, 0])
def offered : State := { timed with sw := { live.sw with state := 1 }, staged := some { Timetable.builtin with ident := 77, size := 2, single := false } }
theorem test_propose : offered.hears? 4 0 propose = true ∧ offered.acceptable 77 false = true ∧ offered.group.joining = none
    ∧ gives (exec (.switchPropose 0 propose) offered) (fun t => t.sw.state == 2 && t.sw.atRound == 1664) = true := by decide +kernel
def leading : State := { timed with sw := { live.sw with state := 2, ident := 77, leading := true } }
theorem test_votes : leading.switching = true ∧ leading.hears? 5 0 (heard 5 (toLe 8 77)) = true ∧ leading.sw.msg = none
    ∧ gives (exec (.switchAccept 0 (heard 5 (toLe 8 77))) leading) (fun t => t.sw.accepts == [0]) = true
    ∧ gives (exec (.switchRefuse 0 (heard 6 (toLe 8 77))) leading) (fun t => t.sw.refusals == [0]) = true
    ∧ gives (exec (.switchAbort 0 (heard 7 (toLe 8 77))) leading) (fun t => t.sw.state == 1 && !t.sw.leading) = true := by decide +kernel
theorem test_notes : timed.group.barriers = []
    ∧ gives (exec (.barrier 0 (heard 9 (toLe 4 1 ++ toLe 4 2))) timed) (fun t => t.group.barriers == [(1, 2, 1)]) = true
    ∧ gives (exec (.commit 0 (heard 10 (toLe 2 1 ++ zeros 6 ++ toLe 8 9))) timed) (fun t => t.group.commits.length == 1) = true
    ∧ gives (exec (.portDown 0 (heard 15 [0, 0, 7, 1, 0, 7])) timed) (fun t => t.group.brokenFrom == [(1, 0, 7), (1, 1, 7)]) = true
    ∧ gives (exec (.portUp 0 (heard 16 [0, 0, 7, 1, 0, 7])) timed) (fun t => t.group.upFrom == [(1600, 0, 7), (1600, 1, 7)]) = true
    ∧ gives (exec (.leader 0 (heard 18 (toLe 2 1 ++ toLe 4 3))) timed) (fun t => t.group.leaderFrom == some (1603, 1)) = true := by decide +kernel
def epoch1 (type at1 dst offset : Nat) : Bytes :=
  heard type (toLe 2 1 ++ (if at1 = 0 then toLe 4 0 ++ toLe 4 2 else toLe 4 0 ++ toLe 4 2) ++ toLe 2 dst ++ toLe 2 offset)
/-- A move of partition 0 to this module, its copy come. -/
def move0 : MoveOp := ⟨1, 0, 2, 0, 1, 0, none, none, false, 0, none, false, true⟩
def placing : State := { timed with group.moves := [move0] }
theorem test_epochs : gives (exec (.epochOpen 0 (epoch1 11 0 1 4)) timed) (fun t => t.group.moves.map (·.opens) == [1604]) = true
    ∧ gives (exec (.epochReady 0 (epoch1 12 0 1 4)) placing) (fun t => t.group.moves.map (·.bothAt) == [some 1604]) = true
    ∧ gives (exec (.epochClose 0 (epoch1 13 0 1 4)) placing) (fun t => t.group.moves.map (·.closes) == [some 1604]) = true
    ∧ placing.compUp Component.fabric = true ∧ placing.power.applied < 2 ∧ assoc placing.group.stages 0 < 2
    ∧ gives (exec (.placementCopyDone 1 0) placing) (fun t => t.group.moves.map (·.copied) == [true]) = true := by decide +kernel
def lentTo : State := { timed with mem.loans := [{ loan true none with peer := 0 }] }
theorem test_lend_note : lentTo.hears? 14 0 (heard 14 ([2, 15] ++ toLe 2 0 ++ toLe 2 1 ++ toLe 4 8)) = true
    ∧ gives (exec (.lend 0 (heard 14 ([2, 15] ++ toLe 2 0 ++ toLe 2 1 ++ toLe 4 8))) lentTo) (fun t => t.mem.loans.map (·.stop) == [some 1608]) = true := by
  decide +kernel
theorem test_leave : timed.hears? 17 0 (heard 17 (toLe 2 0)) = true ∧ timed.colls = [] ∧ timed.rings.cmds = []
    ∧ gives (exec (.leave 0 (heard 17 (toLe 2 0))) timed) (fun t => t.group.lost == [0]) = true := by decide +kernel
def silent : State := { timed with clock.round := 100, group.orphan := 64, group.noLeader := 64 }
theorem test_lost : silent.groupMember = true ∧ assoc silent.group.heard 0 + 24 + silent.active.hops < silent.clock.round ∧ silent.group.parent = none
    ∧ silent.group.leader ≠ silent.group.index
    ∧ gives (exec (.moduleLost 0) silent) (fun t => t.group.lost == [0]) = true
    ∧ gives (exec .timeParentTimeout silent) (fun t => t.group.size == 1) = true
    ∧ gives (exec .leaderSearchTimeout silent) (fun t => t.group.size == 1) = true := by decide +kernel
def flow (dst : Nat) (load : Load) : Flow := { src := 0, dst, tid := 3, query := 5, member := 0, load }
def lender : State := { timed with mem.loans := [{ loan false none with peer := 0 }] }
theorem test_flows : (Load.ended 2).slot = 2 ∧ (Load.bulk 0 15 0 [7]).slot = 3 ∧ (Load.lists [] []).slot = 2
    ∧ gives (exec (.returnTransferReceived 0 (flow 1 (.ended 2))) timed) (fun t => t.group.hops.length == 1) = true
    ∧ gives (exec (.bulkTransferReceived 0 (flow 0 (.bulk 0 15 0 [7]))) timed) (fun t => t.group.hops.length == 1) = true
    ∧ gives (exec (.bulkTransferReceived 0 (flow 1 (.bulk 0 15 (2 ^ 30 - 1) [7]))) lender) (fun t => t.mem.hbm == [(6 * 2 ^ 30 - 1, 7)]) = true := by
  decide +kernel
def ask1 : Ask :=
  { order := 0, coll := 1, snapshot := 0, admitRound := 0, k := 1, probe := 1, refine := 0, sealing := 0, lean := false, rerank := false, q8 := []
    q16 := [], filter := ⟨[], []⟩, parts := [], cands := [] }
/-- A fan-out transfer of this module with its positions in the timetable. -/
def fanSlot : TtSlot := ⟨1, 0xFF, 250, 2000, [[1, 0, 0, 4, 0, 0xFF]]⟩
def hop1 : Hop := { slot := 1, inPort := 255, round := 0, flow := { flow 0 (.refine ask1) with src := 1 }, gone := 0 }
def sending : State := { timed with group.hops := [hop1], active := { Timetable.builtin with slots := [fanSlot] } }
def ctrl1 : Ctrl := { type := 8, groupWide := true, origin := 1, seq := 1, sent := 0, body := zeros 16, inPort := 255 }
theorem test_sends : sending.active.slotEntry 1 1 0 255 = some (fanSlot, [1, 0, 0, 4, 0, 0xFF]) ∧ sending.portState 0 = 4 ∧ (sending.port 0).kept = []
    ∧ hop1.flow.load.slot = 1 ∧ 0 < timed.active.controlRoom
    ∧ gives (exec .controlSlot { timed with group.toSend := [ctrl1] }) (fun t => t.group.sent.contains (0, ctrl1)) = true := by decide +kernel
theorem test_slots : gives (exec .fanOutSlot live) (fun t => t == live) = true ∧ gives (exec .returnSlot live) (fun t => t == live) = true
    ∧ gives (exec .bulkSlot live) (fun t => t.group.hops.isEmpty) = true ∧ (live.ports.all fun p => p.again.isEmpty) = true ∧ live.groupMember = false ∧ live.group.toSend = []
    ∧ ((List.range 8).all fun p => live.portState p < 2) = true
    ∧ gives (exec .controlSlot live) (fun t => t.group.sent.isEmpty) = true
    ∧ gives (exec .replaySlot (port0 { upPort 4 with nacks := [3] })) (fun t => (t.port 0).nacks.isEmpty) = true := by decide +kernel
theorem test_quiet : live.quiet := by refine ⟨?_, ?_, ?_, ?_, ?_, ?_, ?_, ?_, ?_, ?_, ?_, ?_, ?_⟩ <;> decide +kernel
theorem test_round_start : gives (exec .roundStart live) (fun t => t.clock.round == 1 && t.clock.groupTime == live.roundTick 1) = true := by decide +kernel

/-! ### Numbers, records and the table's words -/

theorem test_k8_codes : Fmt.k? .k8 ≠ none ∧ (encode .k8 (decode .k8 0x40) 0 0 0).1 = 0x40 ∧ (encode .k8 .nar 0 0 0).1 / 128 = 1
    ∧ (encode .k8 (.fin (-1) (-200)) 0 0 0).1 = 0 ∧ (encode .k24 (decode .k24 0xFFFFFF) 0 0 0).1 = 0xFFFFFF := by decide +kernel
theorem test_rank_key : rankKey false 0x80000000 = rankKey false 0 ∧ rankKey false 0xBF800000 = 0x407FFFFF ∧ rankKey false 0x3F800000 = 0xBF800000
    ∧ rankKey true 0x3F800000 = 0xFFFFFFFF ∧ decodeF32 0xBF800000 = .fin (-8388608) (-23) := by decide +kernel
def rec3 (seq severity : Nat) : ErrRec := { logged with seq, severity }
def fullLog : State := { live with errors.queue := rec3 1 2 :: rec3 2 0 :: (List.range 62).map (fun k => rec3 (3 + k) 1), errors.seq := 64 }
theorem test_full_queue : fullLog.errors.queue.length = 64 ∧ ((fullLog.enqueueRecord (rec3 0 1)).errors.queue.map (·.seq)).take 2 = [1, 3]
    ∧ (fullLog.enqueueRecord (rec3 0 1)).errors.overflow = 1 ∧ (fullLog.enqueueRecord (rec3 0 0)).errors.queue = fullLog.errors.queue := by decide +kernel
theorem test_table_words : decodeTableWord 8 0x10 = none ∧ State.withFetchWord live 8 0x10 = live := by decide +kernel

/-! ### Ill-formed commands -/

theorem test_ill_descriptors : ((List.map Instr.WellFormed
    [.nop 256 (zeros 128) [], .query 0 (zeros 127) [], .invalidOpcodeDescriptor 0 (zeros 129) [], .ringDeleteComplete 256, .completionCoalesceTimeout 256]).any id) = false
    ∧ (Instr.nop 255 (zeros 128) []).WellFormed = true := by decide +kernel
theorem test_ill_messages : ((List.map Instr.WellFormed
    [.pad [] [], .hello (zeros 63) [], .caps (zeros 65) [], .logRead (zeros 4096) []]).any id) = false ∧ (Instr.caps (zeros 4032) []).WellFormed = true := by
  decide +kernel
theorem test_ill_numbers : ((List.map Instr.WellFormed
    [.collectionDropComplete 65536, .componentImageSwitch 9, .sets 0 65536, .registerWrite 0x20000 4 0, .registerWrite 0 3 0, .registerWrite 0 4 (2 ^ 32)
     , .smbusWriteWord 256 0 true, .msixPendingSend 64, .spliceOldRunRelease 8 0, .spliceOldRunRelease 0 1024, .maintenanceSlot [512]
     , .pseudoChannelRefresh 512 true, .walkEnd 0 1024, .lanePassStart 512, .refineReadDone 0 1024 0, .refineReadDone 0 0 (2 ^ 64), .rerankInvocation 0 1024]).any id)
    = false ∧ (Instr.registerWrite 0x1FFFF 8 (2 ^ 64 - 1)).WellFormed = true := by decide +kernel
theorem test_ill_units : ((List.map Instr.WellFormed
    [.compaction 65536 0, .compaction 0 0x100000, .clusteringIteration 65536 0, .hbmCorrected 512 0 0, .hbmUncorrectable 0 32768 0, .lendWindowClose 16
     , .coreDatapathParity 64 0, .coreDatapathParity 0 68, .spareTestEnd 0 68 true, .kioskHalt 8, .recoveryPeriodEnd 0 0, .recoveryPeriodEnd 11 0
     , .thermalThreshold (.die 2) 0, .thermalStageEnd (.hbm 8), .thermalLimit (.flash 32) 0, .thermalThreshold (.cage 4) 0, .thermalCutOff 2, .cmisHighAlarm 4
     , .dieWake 2, .clusterWake 64, .cageModuleInserted 4 (info 0), .cageModuleInserted 0 (info 16), .linkUp 16 0 0, .linkUp 0 64 0]).any id) = false := by decide +kernel
theorem test_ill_ports : ((List.map Instr.WellFormed
    [.blockLock 8, .lostBlock 0 65536 none [], .linkHello 0 (2 ^ 64) 0 0, .linkHello 0 0 65536 0, .linkHello 0 0 0 8, .heartbeat 8 (zeros 32), .leave 0 (zeros 31), .moduleLost 65536
     , .placementCopyDone 0 0x100000, .fanOutTransferReceived 8 (flow 0 (.ended 0))]).any id) = false := by decide +kernel

end Sys2Proof.Tests
end

section
/-!
PROOFS. Every descriptor row is one fetch, and a check that every descriptor meets completes it before any of its own (chapter 15);
the statement about other versions follows.
-/

namespace Sys2Proof.Machine

/-! ### The checks that every descriptor meets -/

/-- R12 stands before R14. -/
theorem headerFault_of_version {d : Bytes} (op : Nat) (h : byteAt d 1 % 16 ≠ 1) : headerFault op d = some (.of 4) := by
  simp [headerFault, firstBad, h]

/-- A descriptor that no ABORT has caught meets the header's checks before those of shelter mode and of ring 0. -/
theorem State.commonFault_of_headerFault {s : State} {r : SubRing} {op : Nat} {d : Bytes} {e : Result}
    (hd : r.doomed.contains r.fetches = false) (h : headerFault op d = some e) : s.commonFault r op d = some e := by
  simp only [State.commonFault, hd, h, Bool.false_eq_true, if_false]

/-! ### A common fault completes the descriptor, whatever its row -/

section
variable {s : State} {r : SubRing} {op : Nat} {desc : Bytes} {e : Result}

theorem State.fetchMutation_common (h : s.commonFault r op desc = some e) (fault : Option Result) (m : Mutation) :
    s.fetchMutation r op desc fault m = s.fetchDone r op desc e := by
  simp only [State.fetchMutation, h, State.fetchWith_common h]

theorem State.fetchIds_common (h : s.commonFault r op desc = some e) (k : MutKind) (host : HostImage) :
    s.fetchIds r op k desc host = s.fetchDone r op desc e := by
  unfold State.fetchIds
  split <;> exact State.fetchMutation_common h _ _

theorem State.fetchStore_common (h : s.commonFault r op desc = some e) (k : StoreKind) (host : HostImage) :
    s.fetchStore r op k desc host = s.fetchDone r op desc e :=
  State.fetchWith_common h

end

/-- Every descriptor row is a fetch of its opcode, and its effect under a common fault is the completion with that fault. -/
theorem exec_descriptorRow {ring op : Nat} {desc : Bytes} {host : HostImage} {i : Instr} (hi : (op, i) ∈ descriptorRows ring desc host)
    (s : State) :
    ∃ effect : SubRing → State, exec i s = fetchEvent s ring op desc effect
      ∧ ∀ r e, s.commonFault r op desc = some e → effect r = s.fetchDone r op desc e := by
  simp only [descriptorRows, List.mem_cons, List.not_mem_nil, or_false, Prod.mk.injEq] at hi
  obtain ⟨rfl, rfl⟩ | ⟨rfl, rfl⟩ | ⟨rfl, rfl⟩ | ⟨rfl, rfl⟩ | ⟨rfl, rfl⟩ | ⟨rfl, rfl⟩ | ⟨rfl, rfl⟩ | ⟨rfl, rfl⟩ | ⟨rfl, rfl⟩ | ⟨rfl, rfl⟩
    | ⟨rfl, rfl⟩ | ⟨rfl, rfl⟩ | ⟨rfl, rfl⟩ | ⟨rfl, rfl⟩ := hi
  · -- NOP
    exact ⟨_, rfl, fun _ _ h => State.fetchWith_common h⟩
  · -- QUERY
    exact ⟨_, rfl, fun _ _ h => State.fetchWith_common h⟩
  · -- QUERY_BATCH
    exact ⟨_, rfl, fun _ _ h => State.fetchWith_common h⟩
  · -- INSERT
    refine ⟨_, rfl, fun _ _ h => ?_⟩
    split <;> exact State.fetchMutation_common h _ _
  · -- DELETE
    exact ⟨_, rfl, fun _ _ h => State.fetchIds_common h _ _⟩
  · -- SET_ATTR
    exact ⟨_, rfl, fun _ _ h => State.fetchIds_common h _ _⟩
  · -- EMBED_INSERT
    refine ⟨_, rfl, fun _ _ h => ?_⟩
    split <;> exact State.fetchMutation_common h _ _
  · -- STORE_READ
    exact ⟨_, rfl, fun _ _ h => State.fetchStore_common h _ _⟩
  · -- STORE_WRITE
    exact ⟨_, rfl, fun _ _ h => State.fetchStore_common h _ _⟩
  · -- STORE_TRIM
    exact ⟨_, rfl, fun _ _ h => State.fetchStore_common h _ _⟩
  · -- RUN_PROGRAM
    exact ⟨_, rfl, fun _ _ h => by simp only [h, State.fetchWith_common h]⟩
  · -- MOVE_TENSOR
    exact ⟨_, rfl, fun _ _ h => by simp only [h, State.fetchWith_common h]⟩
  · -- ABORT
    exact ⟨_, rfl, fun _ _ h => by simp only [h]⟩
  · -- FENCE
    exact ⟨_, rfl, fun _ _ h => State.fetchWith_common h⟩

/-- A granted descriptor that fails a check common to every opcode is fetched and completed, and no check of its own is made. -/
theorem exec_descriptorRow_common {s : State} {ring op : Nat} {desc : Bytes} {host : HostImage} {r : SubRing} {i : Instr} {e : Result}
    (hr : s.sq? ring = some r) (hi : (op, i) ∈ descriptorRows ring desc host) (hg : s.grants ring op desc = true)
    (he : s.commonFault r op desc = some e) : exec i s = .next (s.fetchDone r op desc e) := by
  obtain ⟨effect, hexec, heffect⟩ := exec_descriptorRow hi s
  rw [hexec, fetchEvent_grants hr hg, heffect r e he]

/-- Settles O10: R12 is the first of the checks that every descriptor meets, and no row acts on a descriptor that fails one of them. -/
theorem otherVersionCompletesUnsupported : Obligations.OtherVersionCompletesUnsupported := by
  intro s ring desc host r op i hr hi hg hv hd
  exact exec_descriptorRow_common hr hi hg (State.commonFault_of_headerFault hd (headerFault_of_version op hv))

end Sys2Proof.Machine
end

section
/-!
PROOFS. The order of distances by their rank keys (R110). A binary32 pattern is a sign and 31 bits of magnitude, whose order is that of
the magnitudes' values; the rank key lays these signed magnitudes out in ascending order, with both zeros at one place.
-/

namespace Sys2Proof.Machine

/-! ### A binary32 pattern as a signed magnitude -/

/-- The magnitude of a binary32 pattern without its sign bit, in units of 2 ^ (-149). -/
def f32Mag (q : Nat) : Nat := if q < 2 ^ 23 then q else (2 ^ 23 + q % 2 ^ 23) * 2 ^ (q / 2 ^ 23 - 1)

/-- The lower 31 bits of a binary32 pattern, negated where its sign bit is set: both zeros are 0. -/
def f32Signed (f : Nat) : Int := if f < 2 ^ 31 then f else 2 ^ 31 - f

/-- The value of a signed magnitude, in units of 2 ^ (-149). -/
def f32Units (k : Int) : Int := k.sign * f32Mag k.natAbs

/-- A magnitude lies below the first magnitude of the next exponent. -/
theorem f32Mag_lt (q : Nat) : f32Mag q < 2 ^ 23 * 2 ^ (q / 2 ^ 23) := by
  unfold f32Mag
  split
  next hq => exact lt_of_lt_of_le hq (Nat.le_mul_of_pos_right _ (by positivity))
  next hq =>
    obtain ⟨n, hn⟩ : ∃ n, q / 2 ^ 23 = n + 1 := ⟨q / 2 ^ 23 - 1, by omega⟩
    have hfrac : 2 ^ 23 + q % 2 ^ 23 < 2 ^ 24 := by omega
    calc (2 ^ 23 + q % 2 ^ 23) * 2 ^ (q / 2 ^ 23 - 1)
        < 2 ^ 24 * 2 ^ (q / 2 ^ 23 - 1) := Nat.mul_lt_mul_of_pos_right hfrac (by positivity)
      _ = 2 ^ 23 * 2 ^ (q / 2 ^ 23) := by rw [hn, Nat.add_sub_cancel]; ring

/-- A larger pattern with a larger exponent starts a later binade; with the same exponent it has a larger fraction. -/
theorem f32Mag_strictMono : StrictMono f32Mag := by
  intro a b hab
  by_cases hb : b < 2 ^ 23
  · simpa only [f32Mag, hb, hab.trans hb, if_true] using hab
  have hmag : f32Mag b = (2 ^ 23 + b % 2 ^ 23) * 2 ^ (b / 2 ^ 23 - 1) := if_neg hb
  rcases (Nat.div_le_div_right hab.le : a / 2 ^ 23 ≤ b / 2 ^ 23).lt_or_eq with hexp | hexp
  · calc f32Mag a < 2 ^ 23 * 2 ^ (a / 2 ^ 23) := f32Mag_lt a
      _ ≤ (2 ^ 23 + b % 2 ^ 23) * 2 ^ (b / 2 ^ 23 - 1) :=
        Nat.mul_le_mul (Nat.le_add_right _ _) (Nat.pow_le_pow_right two_pos (by omega))
      _ = f32Mag b := hmag.symm
  · have ha : ¬ a < 2 ^ 23 := by omega
    rw [hmag, f32Mag, if_neg ha, hexp]
    exact Nat.mul_lt_mul_of_pos_right (by omega) (by positivity)

theorem f32Units_strictMono : StrictMono f32Units := by
  refine strictMono_of_odd_strictMonoOn_nonneg (fun k => by simp [f32Units]) fun a ha b hb hab => ?_
  have hunits : ∀ k : Int, 0 ≤ k → f32Units k = f32Mag k.natAbs := by
    intro k hk
    rcases hk.eq_or_lt with rfl | hpos
    · rfl
    · rw [f32Units, Int.sign_eq_one_of_pos hpos, one_mul]
  rw [hunits a ha, hunits b hb, Int.ofNat_lt]
  exact f32Mag_strictMono (Int.natAbs_lt_natAbs_of_nonneg_of_lt ha hab)

/-! ### What a finite pattern decodes to -/

/-- The sign of a binary32 pattern, from its top bit. -/
def f32Sign (f : Nat) : Int := if f < 2 ^ 31 then 1 else -1

theorem f32Units_f32Signed {f : Nat} (hf : f < 2 ^ 32) : f32Units (f32Signed f) = f32Sign f * f32Mag (f % 2 ^ 31) := by
  by_cases hsign : f < 2 ^ 31
  · rw [f32Signed, f32Sign, if_pos hsign, if_pos hsign, Nat.mod_eq_of_lt hsign, one_mul, f32Units, Int.natAbs_natCast]
    rcases f.eq_zero_or_pos with rfl | hpos
    · rfl
    · rw [Int.sign_eq_one_of_pos (by omega), one_mul]
  · have hneg : (2 ^ 31 - f : Int) = -((f % 2 ^ 31 : Nat) : Int) := by omega
    rw [f32Signed, f32Sign, if_neg hsign, if_neg hsign, hneg, f32Units, Int.natAbs_neg, Int.natAbs_natCast]
    rcases (f % 2 ^ 31).eq_zero_or_pos with hzero | hpos
    · rw [hzero]; rfl
    · rw [Int.sign_neg, Int.sign_eq_one_of_pos (by omega)]

/-- Where a pattern decodes to a finite value, its exponent field is not all ones, and the field says whether its fraction has a leading 1. -/
theorem decodeF32_fin {f : Nat} {m e : Int} (hf : f < 2 ^ 32) (h : decodeF32 f = .fin m e) :
    f % 2 ^ 31 / 2 ^ 23 ≠ 255
      ∧ (f % 2 ^ 31 < 2 ^ 23 ∧ m = f32Sign f * (f % 2 ^ 31 : Nat) ∧ e = -149
        ∨ 2 ^ 23 ≤ f % 2 ^ 31 ∧ m = f32Sign f * (2 ^ 23 + f % 2 ^ 31 % 2 ^ 23 : Nat) ∧ e = (f % 2 ^ 31 / 2 ^ 23 : Nat) - 150) := by
  have hsign (n : Int) : (if f / 2 ^ 31 % 2 = 1 then -n else n) = f32Sign f * n := by
    by_cases hs : f < 2 ^ 31
    · rw [f32Sign, if_pos hs, if_neg (by omega), one_mul]
    · rw [f32Sign, if_neg hs, if_pos (by omega), neg_one_mul]
  simp only [decodeF32, beq_iff_eq, hsign] at h
  split_ifs at h with hnar hsub
  · obtain ⟨rfl, rfl⟩ := Val.fin.inj h
    have hfrac : f % 2 ^ 23 = f % 2 ^ 31 := by omega
    exact ⟨by omega, .inl ⟨by omega, by rw [hfrac], rfl⟩⟩
  · obtain ⟨rfl, rfl⟩ := Val.fin.inj h
    have hfrac : f % 2 ^ 23 = f % 2 ^ 31 % 2 ^ 23 := by omega
    exact ⟨by omega, .inr ⟨by omega, by rw [hfrac]; push_cast; rfl, by omega⟩⟩

/-- A finite pattern decodes to the value of its signed magnitude. -/
theorem decodeF32_value {f : Nat} {m e : Int} (hf : f < 2 ^ 32) (h : decodeF32 f = .fin m e) :
    (m : ℚ) * 2 ^ e = f32Units (f32Signed f) * 2 ^ (-149 : Int) := by
  rw [f32Units_f32Signed hf]
  obtain ⟨-, ⟨hsub, rfl, rfl⟩ | ⟨hnormal, rfl, rfl⟩⟩ := decodeF32_fin hf h
  · rw [f32Mag, if_pos hsub]
  · obtain ⟨n, hn⟩ : ∃ n, f % 2 ^ 31 / 2 ^ 23 = n + 1 := ⟨f % 2 ^ 31 / 2 ^ 23 - 1, by omega⟩
    have hexp : ((n + 1 : Nat) : Int) - 150 = n + -149 := by omega
    rw [f32Mag, if_neg (by omega), hn, hexp, zpow_add₀ two_ne_zero, zpow_natCast, Nat.add_sub_cancel]
    push_cast
    ring

/-- Two finite patterns stand as their signed magnitudes do. -/
theorem decodeF32_lt_iff {f g : Nat} {m n e x : Int} (hf : f < 2 ^ 32) (hg : g < 2 ^ 32) (hm : decodeF32 f = .fin m e)
    (hn : decodeF32 g = .fin n x) : (m : ℚ) * 2 ^ e < (n : ℚ) * 2 ^ x ↔ f32Signed f < f32Signed g := by
  rw [decodeF32_value hf hm, decodeF32_value hg hn, mul_lt_mul_iff_left₀ (by positivity), Int.cast_lt, f32Units_strictMono.lt_iff_lt]

theorem decodeF32_eq_iff {f g : Nat} {m n e x : Int} (hf : f < 2 ^ 32) (hg : g < 2 ^ 32) (hm : decodeF32 f = .fin m e)
    (hn : decodeF32 g = .fin n x) : (m : ℚ) * 2 ^ e = (n : ℚ) * 2 ^ x ↔ f32Signed f = f32Signed g := by
  rw [decodeF32_value hf hm, decodeF32_value hg hn, mul_left_inj' (by positivity), Int.cast_inj, f32Units_strictMono.injective.eq_iff]

/-! ### The rank key lays the signed magnitudes out in order -/

/-- Magnitudes from 0 stand from 0x80000000 on, negative ones end just below it. -/
theorem rankKey_eq_f32Signed {f : Nat} (hf : f < 2 ^ 32) :
    (rankKey false f : Int) = if 0 ≤ f32Signed f then 2 ^ 31 + f32Signed f else 2 ^ 31 - 1 + f32Signed f := by
  simp only [rankKey, f32Signed, Bool.false_eq_true, if_false, beq_iff_eq]
  split_ifs <;> omega

theorem rankKey_lt_iff {f g : Nat} (hf : f < 2 ^ 32) (hg : g < 2 ^ 32) : rankKey false f < rankKey false g ↔ f32Signed f < f32Signed g := by
  have hkf := rankKey_eq_f32Signed hf
  have hkg := rankKey_eq_f32Signed hg
  split_ifs at hkf hkg <;> omega

theorem rankKey_eq_iff {f g : Nat} (hf : f < 2 ^ 32) (hg : g < 2 ^ 32) : rankKey false f = rankKey false g ↔ f32Signed f = f32Signed g := by
  have hkf := rankKey_eq_f32Signed hf
  have hkg := rankKey_eq_f32Signed hg
  split_ifs at hkf hkg <;> omega

/-- Only the pattern 0x7FFFFFFF would be given all ones, and its exponent field makes it no finite value. -/
theorem rankKey_ne_of_fin {f : Nat} {m e : Int} (hf : f < 2 ^ 32) (h : decodeF32 f = .fin m e) : rankKey false f ≠ 0xFFFFFFFF := by
  intro hkey
  have hones : f = 0x7FFFFFFF := by
    simp only [rankKey, Bool.false_eq_true, if_false, beq_iff_eq] at hkey
    split_ifs at hkey <;> omega
  exact (decodeF32_fin hf h).1 (by omega)

/-! ### The pseudocode of R110, on words -/

theorem and_signBit_ne_zero_iff (b : BitVec 32) : b &&& 0x80000000#32 ≠ 0#32 ↔ 0x80000000 ≤ b.toNat := by
  have hmsb : b.getLsbD 31 = decide (0x80000000 ≤ b.toNat) := BitVec.msb_eq_decide b
  rw [show 0x80000000#32 = BitVec.twoPow 32 31 from rfl, BitVec.and_twoPow, hmsb]
  by_cases h : 0x80000000 ≤ b.toNat
  · simp [h]
  · simp [h]

theorem or_signBit_toNat {b : BitVec 32} (h : b.toNat < 0x80000000) : (b ||| 0x80000000#32).toNat = b.toNat + 0x80000000 := by
  rw [BitVec.toNat_or, Nat.or_comm, Nat.add_comm]
  exact (Nat.two_pow_add_eq_or_of_lt (i := 31) h 1).symm

theorem rankKey_eq_pseudocode (nar : Bool) (b : BitVec 32) : rankKey nar b.toNat = (if nar then 0xFFFFFFFF#32 else
    let f := if b = 0x80000000#32 then 0#32 else b
    if f &&& 0x80000000#32 ≠ 0#32 then ~~~f else f ||| 0x80000000#32).toNat := by
  cases nar with
  | true => rfl
  | false =>
    by_cases hzero : b = 0x80000000#32
    · subst hzero; rfl
    have hne : b.toNat ≠ 0x80000000 := fun h => hzero (BitVec.eq_of_toNat_eq h)
    by_cases hneg : 0x80000000 ≤ b.toNat
    · simp only [rankKey, hzero, hne, hneg, and_signBit_ne_zero_iff, BitVec.toNat_not, beq_iff_eq, Bool.false_eq_true, if_true,
        if_false]
    · simp only [rankKey, hzero, hne, hneg, and_signBit_ne_zero_iff, or_signBit_toNat (not_le.mp hneg), beq_iff_eq,
        Bool.false_eq_true, if_false]

/-- Settles O59: values and rank keys both stand as the patterns' signed magnitudes do. -/
theorem rankKeyOrdersDistances : Obligations.RankKeyOrdersDistances :=
  ⟨rankKey_eq_pseudocode, fun _ _ _ _ _ _ hf hg hm hn =>
    ⟨(decodeF32_lt_iff hf hg hm hn).trans (rankKey_lt_iff hf hg).symm, (decodeF32_eq_iff hf hg hm hn).trans (rankKey_eq_iff hf hg).symm,
      rankKey_ne_of_fin hf hm⟩⟩

end Sys2Proof.Machine
end

section
/-!
PROOFS. A scalar instruction takes effect as soon as its core issues it, and it changes one scalar register and the core's place (R275).
-/

namespace Sys2Proof.Machine

/-! ### A core's state after a scalar write and an advance -/

theorem VCore.setS_s!_same (c : VCore) {i : Nat} (v : Nat) (h : i < c.s.length) : (c.setS i v).s! i = v % 2 ^ 32 := by
  simp [VCore.s!, VCore.setS, h]

theorem VCore.setS_s!_other (c : VCore) {i k : Nat} (v : Nat) (h : k ≠ i) : (c.setS i v).s! k = c.s! k := by
  simp [VCore.s!, VCore.setS, List.getElem?_set_ne h.symm]

@[simp] theorem VCore.advance_s! (c : VCore) (u n k i : Nat) : (c.advance u n k).s! i = c.s! i := rfl

/-- A core inside no loop goes on to the next word. -/
theorem VCore.advance_pc {c : VCore} (u n k : Nat) (h : c.loops = []) : (c.advance u n k).pc = c.pc + 1 := by
  simp [VCore.advance, h, endLoops]

/-! ### Looking up a core and changing it -/

theorem Run.idx_of_core? {r : Run} {v : Nat} {c : VCore} (h : r.core? v = some c) : c.idx = v :=
  beq_iff_eq.1 (List.find?_some (p := fun c : VCore => c.idx == v) h)

/-- Two changes of a core, the first of which keeps its number, are one. -/
theorem Run.updCore_updCore (r : Run) (v : Nat) (f g : VCore → VCore) (hf : ∀ c, (f c).idx = c.idx) :
    (r.updCore v f).updCore v g = r.updCore v (g ∘ f) := by
  have hcore (c : VCore) : (if (if c.idx == v then f c else c).idx == v then g (if c.idx == v then f c else c)
      else if c.idx == v then f c else c) = if c.idx == v then g (f c) else c := by
    by_cases h : c.idx == v
    · simp only [h, hf, if_true]
    · simp only [h, Bool.false_eq_true, if_false]
  simp only [Run.updCore, updWhere, List.map_map, Function.comp_def, hcore]

/-! ### The issue of a scalar instruction -/

/-- An issue whose whole effect is a value put into one scalar register. -/
def scalarIssue (v d : Nat) (value : VCore → Nat) : Issue :=
  { effect := fun r => r.updCore v fun c => c.setS d (value c) }

theorem setsIssue_eq (w : BitVec 64) (v : Nat) : setsIssue w v = scalarIssue v (wf w 55 52) fun _ => wf w 31 0 := rfl

theorem addsIssue_eq (w : BitVec 64) (v : Nat) :
    addsIssue w v = scalarIssue v (wf w 55 52) fun c => c.s! (wf w 51 48) + wf w 31 0 := rfl

theorem mulsIssue_eq (w : BitVec 64) (v : Nat) :
    mulsIssue w v = scalarIssue v (wf w 55 52) fun c => c.s! (wf w 51 48) * c.s! (wf w 47 44) := rfl

/-- A transfer in flight holds back no instruction that touches no local memory (R270). -/
theorem Transfer.blocks_of_no_bytes (t : Transfer) (v : Nat) {i : Issue} (hr : i.reads = []) (hw : i.writes = []) : t.blocks v i = false := by
  simp [Transfer.blocks, hr, hw, hull, meets]

/-- The state after a scalar instruction of a core: its register written, and the core at its next word. -/
def State.scalarWritten (s : State) (run core : Nat) (r : Run) (d : Nat) (value : VCore → Nat) : State :=
  s.updRun run fun x => x.updCore core fun c => (c.setS d (value c)).advance 0 1 (s.pace r)

theorem isaEvent_scalarIssue {s : State} {run core op d : Nat} {issue : Run → Program → VCore → BitVec 64 → Issue} {value : VCore → Nat}
    {r : Run} {p : Program} {c : VCore} {w : BitVec 64} (h : s.issuer run core = some (r, p, c, w)) (hop : wf w 63 56 = op)
    (hunit : unitOf op = 0) (hi : issue r p c w = scalarIssue c.idx d value) :
    isaEvent s run core op none issue = .next (s.scalarWritten run core r d value) := by
  obtain ⟨-, -, hcore, -⟩ := State.issuer_some h
  have hfree : (r.moves.any fun t => t.blocks core (issue r p c w)) = false := by
    rw [hi]
    exact List.any_eq_false.2 fun t _ => by simp [t.blocks_of_no_bytes core (i := scalarIssue c.idx d value) rfl rfl]
  have hfault : (issue r p c w).faults = none := by rw [hi]; rfl
  have heffect (x : Run) : ((issue r p c w).effect x).updCore core (VCore.advance · (unitOf op) (issue r p c w).busy (s.pace r))
      = x.updCore core fun c => (c.setS d (value c)).advance 0 1 (s.pace r) := by
    rw [hi, hunit, Run.idx_of_core? hcore]
    exact x.updCore_updCore core (fun c => c.setS d (value c)) _ fun _ => rfl
  rw [isaEvent_run h hop rfl hfree hfault]
  simp only [heffect, State.scalarWritten]

/-- The core that issued is found again in its run, written and advanced. -/
theorem State.scalarWritten_core {s : State} {run core d : Nat} {r : Run} {p : Program} {c : VCore} {w : BitVec 64}
    (h : s.issuer run core = some (r, p, c, w)) (value : VCore → Nat) :
    ∃ r', (s.scalarWritten run core r d value).run? run = some r' ∧ r'.core? core = some ((c.setS d (value c)).advance 0 1 (s.pace r))
      ∧ r'.shared = r.shared ∧ r'.moves = r.moves := by
  obtain ⟨hrun, -, hcore, -⟩ := State.issuer_some h
  refine ⟨r.updCore core fun c => (c.setS d (value c)).advance 0 1 (s.pace r), ?_, ?_, rfl, rfl⟩
  · rw [State.scalarWritten, State.run?_updRun, hrun, Option.map_some]
    exact fun _ => rfl
  · rw [Run.core?_updCore, hcore, Option.map_some]
    exact fun _ => rfl

/-! ### SETS, ADDS and MULS -/

/-- Each of the three writes the value that R275 gives to the register that its word names. -/
theorem exec_scalar {s : State} {run core : Nat} {r : Run} {p : Program} {c : VCore} {w : BitVec 64}
    (h : s.issuer run core = some (r, p, c, w)) {i : Instr} {v : Nat}
    (hi : (i = .sets run core ∧ wf w 63 56 = 0x01 ∧ v = wf w 31 0)
      ∨ (i = .adds run core ∧ wf w 63 56 = 0x02 ∧ v = c.s! (wf w 51 48) + wf w 31 0)
      ∨ (i = .muls run core ∧ wf w 63 56 = 0x03 ∧ v = c.s! (wf w 51 48) * c.s! (wf w 47 44))) :
    ∃ value : VCore → Nat, value c = v ∧ exec i s = .next (s.scalarWritten run core r (wf w 55 52) value) := by
  obtain ⟨rfl, hop, rfl⟩ | ⟨rfl, hop, rfl⟩ | ⟨rfl, hop, rfl⟩ := hi
  · exact ⟨_, rfl, isaEvent_scalarIssue h hop rfl (setsIssue_eq w c.idx)⟩
  · exact ⟨_, rfl, isaEvent_scalarIssue h hop rfl (addsIssue_eq w c.idx)⟩
  · exact ⟨_, rfl, isaEvent_scalarIssue h hop rfl (mulsIssue_eq w c.idx)⟩

/-- Settles O49: the three instructions leave the same state but for the value, and the register that they name is one of the 16. -/
theorem scalarInstructionsWriteTheirRegister : Obligations.ScalarInstructionsWriteTheirRegister := by
  intro s run core r p c w h hlen i v hi
  obtain ⟨value, rfl, hexec⟩ := exec_scalar h hi
  obtain ⟨r', hrun, hcore, hshared, hmoves⟩ := State.scalarWritten_core (d := wf w 55 52) h value
  have hd : wf w 55 52 < c.s.length := by
    rw [hlen]
    exact Nat.mod_lt _ (by decide)
  refine ⟨_, r', _, hexec, hrun, hcore, ?_, fun k hk => ?_, rfl, rfl, rfl, hshared, hmoves, rfl, rfl, rfl,
    VCore.advance_pc (c := c.setS (wf w 55 52) (value c)) 0 1 (s.pace r)⟩
  · rw [VCore.advance_s!, VCore.setS_s!_same c _ hd]
  · rw [VCore.advance_s!, VCore.setS_s!_other c _ hk]

end Sys2Proof.Machine
end

section
/-!
PROOFS. What a record that arrives does to the error queue (chapter 19): the three cases of its arrival, then the statement about a
full queue.
-/

namespace Sys2Proof.Machine

/-! ### The records that an arrival may displace -/

/-- A queued record that gives way to an arriving one: of lower severity (R654), its flags[2] clear (R655). -/
def ErrRec.yieldsTo (x r : ErrRec) : Bool := x.severity < r.severity && x.flags / 4 % 2 == 0

theorem ErrRec.yieldsTo_iff {x r : ErrRec} : x.yieldsTo r = true ↔ x.severity < r.severity ∧ x.flags / 4 % 2 = 0 := by
  simp [ErrRec.yieldsTo]

theorem ErrRec.not_yieldsTo_iff {x r : ErrRec} : ¬ x.yieldsTo r = true ↔ r.severity ≤ x.severity ∨ x.flags / 4 % 2 = 1 := by
  rw [ErrRec.yieldsTo_iff]
  omega

/-- The oldest queued record that gives way, told by the records before it. -/
theorem find?_yieldsTo_eq_some {before after : List ErrRec} {v r : ErrRec} (hold : ∀ x ∈ before, ¬ x.yieldsTo r = true)
    (hv : v.yieldsTo r = true) : (before ++ v :: after).find? (·.yieldsTo r) = some v := by
  rw [List.find?_append, List.find?_eq_none.2 hold, Option.none_or]
  exact List.find?_cons_of_pos hv

/-- Records of other numbers all stay when the record of a number is taken out. -/
theorem filter_seq_ne_middle {before after : List ErrRec} {v : ErrRec} (h : ∀ x ∈ before ++ after, x.seq ≠ v.seq) :
    (before ++ v :: after).filter (fun x => x.seq != v.seq) = before ++ after := by
  have keep : ∀ x ∈ before ++ after, (x.seq != v.seq) = true := fun x hx => bne_iff_ne.2 (h x hx)
  rw [List.filter_append, List.filter_cons_of_neg (by simp), ← List.filter_append, List.filter_eq_self.2 keep]

/-! ### The three cases of an arrival -/

/-- The record as it is queued: with the next number, and the count of lost records that it reports (R651). -/
def State.stamped (s : State) (r : ErrRec) (lost : Nat) : ErrRec := { r with seq := s.errors.seq + 1, overflow := lost }

section
variable {s : State} {r : ErrRec}

theorem State.enqueueRecord_of_room (h : s.errors.queue.length < 64) :
    s.enqueueRecord r = { s with errors.queue := s.errors.queue ++ [s.stamped r s.errors.overflow], errors.seq := s.errors.seq + 1 } :=
  if_pos h

theorem State.enqueueRecord_of_none (h : ¬ s.errors.queue.length < 64) (hv : s.errors.queue.find? (·.yieldsTo r) = none) :
    s.enqueueRecord r = { s with errors.overflow := satAdd 0xFFFFFFFF s.errors.overflow 1 } := by
  simp only [ErrRec.yieldsTo] at hv
  simp only [State.enqueueRecord, if_neg h, hv]

theorem State.enqueueRecord_of_some {v : ErrRec} (h : ¬ s.errors.queue.length < 64)
    (hv : s.errors.queue.find? (·.yieldsTo r) = some v) :
    s.enqueueRecord r = { s with
      errors.queue := s.errors.queue.filter (fun x => x.seq != v.seq) ++ [s.stamped r (satAdd 0xFFFFFFFF s.errors.overflow 1)]
      errors.seq := s.errors.seq + 1
      errors.overflow := satAdd 0xFFFFFFFF s.errors.overflow 1 } := by
  simp only [ErrRec.yieldsTo] at hv
  simp only [State.enqueueRecord, if_neg h, hv, State.stamped]

/-! ### The bound and the count -/

/-- A displaced record makes room before the new one is put last. -/
theorem State.enqueueRecord_length_le (h : s.errors.queue.length ≤ 64) : (s.enqueueRecord r).errors.queue.length ≤ 64 := by
  by_cases room : s.errors.queue.length < 64
  · rw [State.enqueueRecord_of_room room]
    simpa using room
  · cases hv : s.errors.queue.find? (·.yieldsTo r) with
    | none =>
      rw [State.enqueueRecord_of_none room hv]
      exact h
    | some v =>
      rw [State.enqueueRecord_of_some room hv]
      have shrinks : (s.errors.queue.filter fun x => x.seq != v.seq).length < s.errors.queue.length :=
        List.length_filter_lt_length_iff_exists.2 ⟨v, List.mem_of_find?_eq_some hv, by simp⟩
      rw [List.length_append, List.length_singleton]
      omega

/-- Where the queue is full, the arrival is counted whether it displaces a record or is dropped. -/
theorem State.enqueueRecord_overflow (h : ¬ s.errors.queue.length < 64) :
    (s.enqueueRecord r).errors.overflow = min 0xFFFFFFFF (s.errors.overflow + 1) := by
  cases hv : s.errors.queue.find? (·.yieldsTo r) with
  | none => rw [State.enqueueRecord_of_none h hv, satAdd]
  | some v => rw [State.enqueueRecord_of_some h hv, satAdd]

end

/-- Settles O60: room, a full queue with none that gives way, and a full queue with an oldest record that does. -/
theorem fullErrorQueueDisplaces : Obligations.FullErrorQueueDisplaces := by
  intro s r hlen
  refine ⟨_, State.enqueueRecord_eq s r, State.enqueueRecord_length_le hlen, fun room => ?_, fun full => ?_⟩
  · rw [State.enqueueRecord_of_room room]
    exact ⟨_, rfl, rfl, rfl, rfl, rfl⟩
  · have noRoom : ¬ s.errors.queue.length < 64 := full.not_lt
    refine ⟨State.enqueueRecord_overflow noRoom, fun hold => ?_, fun before after v hq hold hsev hflag hseq => ?_⟩
    · rw [State.enqueueRecord_of_none noRoom (List.find?_eq_none.2 fun x hx => ErrRec.not_yieldsTo_iff.2 (hold x hx))]
    · have oldest : s.errors.queue.find? (·.yieldsTo r) = some v := by
        rw [hq]
        exact find?_yieldsTo_eq_some (fun x hx => ErrRec.not_yieldsTo_iff.2 (hold x hx)) (ErrRec.yieldsTo_iff.2 ⟨hsev, hflag⟩)
      rw [State.enqueueRecord_of_some noRoom oldest, hq, filter_seq_ne_middle hseq]
      exact ⟨_, rfl, rfl, rfl⟩

end Sys2Proof.Machine
end

section
/-!
PROOFS. Codes of the K formats (chapter 7). A code is a sign, an exponent field and a fraction; a conversion lays out a rounded significand
in these fields, and decoding gives a significand that no mode of rounding changes.
-/

namespace Sys2Proof.Machine

/-! ### Rounding to a number of significant bits (R215) -/

theorem log2_bounds {n : Nat} (h : n ≠ 0) : 2 ^ n.log2 ≤ n ∧ n < 2 ^ (n.log2 + 1) :=
  ⟨Nat.log2_self_le h, Nat.lt_log2_self⟩

/-- The leading w + 1 bits of a magnitude, as `roundSig` keeps them before it rounds. -/
theorem leadingBits_range {mag : Nat} (h : mag ≠ 0) (w : Nat) :
    let keep := if mag.log2 + 1 < w + 1 then mag * 2 ^ (w + 1 - 1 - mag.log2) else mag / 2 ^ (mag.log2 + 1 - (w + 1))
    2 ^ w ≤ keep ∧ keep < 2 ^ (w + 1) := by
  obtain ⟨lo, hi⟩ := log2_bounds h
  dsimp only
  split
  next hw =>
    have split_w : ∀ n, n ≤ w → 2 ^ n * 2 ^ (w - n) = 2 ^ w := fun n hn => by rw [← Nat.pow_add, Nat.add_sub_cancel' hn]
    have hlog : mag.log2 ≤ w := by omega
    rw [Nat.add_sub_cancel]
    constructor
    · rw [← split_w _ hlog]
      exact Nat.mul_le_mul_right _ lo
    · calc mag * 2 ^ (w - mag.log2) < 2 ^ (mag.log2 + 1) * 2 ^ (w - mag.log2) := Nat.mul_lt_mul_of_pos_right hi (by positivity)
        _ = 2 ^ (w + 1) := by rw [Nat.pow_succ, Nat.pow_succ, ← split_w _ hlog]; ring
  next hw =>
    have hlog : mag.log2 = w + (mag.log2 + 1 - (w + 1)) := by omega
    generalize mag.log2 + 1 - (w + 1) = drop at hlog
    rw [hlog] at lo hi
    constructor
    · rw [Nat.le_div_iff_mul_le (by positivity), ← Nat.pow_add]
      exact lo
    · rw [Nat.div_lt_iff_lt_mul (by positivity), ← Nat.pow_add, Nat.add_right_comm]
      exact hi

/-- The significand has w + 1 bits, and its leading bit is set. -/
theorem roundSig_range {mag : Nat} (h : mag ≠ 0) (exp : Int) (w mode r : Nat) :
    2 ^ w ≤ (roundSig mag exp (w + 1) mode r).1 ∧ (roundSig mag exp (w + 1) mode r).1 < 2 ^ (w + 1) := by
  obtain ⟨lo, hi⟩ := leadingBits_range h w
  unfold roundSig
  extract_lets hlog sh keep rem half d up odd kept
  have hkept : 2 ^ w ≤ kept ∧ kept ≤ 2 ^ (w + 1) := by
    simp only [kept]
    split_ifs
    · exact ⟨lo.trans (Nat.le_succ keep), hi⟩
    · exact ⟨lo.trans Nat.left_le_or, (Nat.or_lt_two_pow hi (Nat.one_lt_two_pow (by omega))).le⟩
    · exact ⟨lo, hi.le⟩
  rw [apply_ite Prod.fst]
  split
  next hfull =>
    have htop : kept = 2 ^ (w + 1) := beq_iff_eq.1 hfull
    rw [htop, Nat.pow_succ, Nat.mul_div_cancel _ two_pos]
    exact ⟨le_rfl, by omega⟩
  next hfull =>
    have htop : kept ≠ 2 ^ (w + 1) := fun e => hfull (beq_iff_eq.2 e)
    exact ⟨hkept.1, lt_of_le_of_ne hkept.2 htop⟩

/-- A magnitude of exactly the target's bits is not rounded, whatever the mode. -/
theorem roundSig_exact {mag w : Nat} (h : mag.log2 = w) (exp : Int) (mode r : Nat) :
    roundSig mag exp (w + 1) mode r = (mag, w + exp) := by
  have hlt : mag < 2 ^ (w + 1) := h ▸ Nat.lt_log2_self
  simp [roundSig, h, hlt.ne]

/-! ### The fields of a code -/

/-- The code of a sign, an exponent field and a fraction. -/
def KParams.code (p : KParams) (s e frac : Nat) : Nat := s * 2 ^ (p.ew + p.fw) + e * 2 ^ p.fw + frac

section
variable {p : KParams} {s e frac : Nat}

theorem KParams.code_lt (hs : s < 2) (he : e < 2 ^ p.ew) (hf : frac < 2 ^ p.fw) : p.code s e frac < 2 ^ (p.ew + p.fw + 1) := by
  have hlow : (e + 1) * 2 ^ p.fw ≤ 2 ^ p.ew * 2 ^ p.fw := Nat.mul_le_mul_right _ he
  have hsign : s * 2 ^ (p.ew + p.fw) ≤ 1 * 2 ^ (p.ew + p.fw) := Nat.mul_le_mul_right _ (by omega)
  rw [← Nat.pow_add, Nat.add_mul] at hlow
  rw [KParams.code, Nat.pow_succ]
  omega

theorem KParams.code_exponent (he : e < 2 ^ p.ew) (hf : frac < 2 ^ p.fw) : p.code s e frac / 2 ^ p.fw % 2 ^ p.ew = e := by
  have hcode : p.code s e frac = frac + 2 ^ p.fw * (e + 2 ^ p.ew * s) := by rw [KParams.code, Nat.pow_add]; ring
  rw [hcode, Nat.add_mul_div_left _ _ (by positivity), Nat.div_eq_of_lt hf, Nat.zero_add, Nat.add_mul_mod_self_left,
    Nat.mod_eq_of_lt he]

/-- A code is put together again from its fields. -/
theorem KParams.code_fields {c : Nat} (hc : c < 2 ^ (p.ew + p.fw + 1)) :
    p.code (c / 2 ^ (p.ew + p.fw) % 2) (c / 2 ^ p.fw % 2 ^ p.ew) (c % 2 ^ p.fw) = c := by
  have hsign : c / 2 ^ (p.ew + p.fw) < 2 := by rwa [Nat.div_lt_iff_lt_mul (by positivity), ← Nat.pow_succ']
  have hhigh := Nat.div_add_mod (c / 2 ^ p.fw) (2 ^ p.ew)
  have hlow := Nat.div_add_mod c (2 ^ p.fw)
  rw [Nat.div_div_eq_div_mul, ← Nat.pow_add, Nat.add_comm p.fw] at hhigh
  rw [KParams.code, Nat.mod_eq_of_lt hsign]
  calc c / 2 ^ (p.ew + p.fw) * 2 ^ (p.ew + p.fw) + c / 2 ^ p.fw % 2 ^ p.ew * 2 ^ p.fw + c % 2 ^ p.fw
      = 2 ^ p.fw * (2 ^ p.ew * (c / 2 ^ (p.ew + p.fw)) + c / 2 ^ p.fw % 2 ^ p.ew) + c % 2 ^ p.fw := by rw [Nat.pow_add]; ring
    _ = c := by rw [hhigh, hlow]

end

/-! ### Conversion -/

/-- The code of NaR (R202). -/
def KParams.nar (p : KParams) : Nat := 2 ^ (p.ew + p.fw) + 2 ^ p.fw - 1

theorem KParams.nar_eq (p : KParams) : p.nar = p.code 1 0 (2 ^ p.fw - 1) := by
  have : 0 < 2 ^ p.fw := by positivity
  rw [KParams.nar, KParams.code]
  omega

/-- A conversion gives zero, NaR, or a code whose exponent field is not 0. -/
theorem encodeK_cases {p : KParams} (hew : 0 < p.ew) (v : Val) (mode r ovf : Nat) :
    (encodeK p v mode r ovf).1 = 0 ∨ (encodeK p v mode r ovf).1 = p.nar
      ∨ ∃ s e frac, s < 2 ∧ 0 < e ∧ e < 2 ^ p.ew ∧ frac < 2 ^ p.fw ∧ (encodeK p v mode r ovf).1 = p.code s e frac := by
  have hew : 1 < 2 ^ p.ew := Nat.one_lt_two_pow hew.ne'
  have hfw : 0 < 2 ^ p.fw := by positivity
  cases v with
  | nar => exact .inr (.inl rfl)
  | fin m exp =>
    by_cases hm : m = 0
    · exact .inl (by simp [encodeK, hm])
    obtain ⟨lo, hi⟩ := roundSig_range (Int.natAbs_ne_zero.2 hm) exp p.fw mode r
    obtain ⟨s, hs, hsign⟩ : ∃ s, s < 2 ∧ (if m < 0 then 2 ^ (p.ew + p.fw) else 0) = s * 2 ^ (p.ew + p.fw) := by
      split
      · exact ⟨1, by omega, (one_mul _).symm⟩
      · exact ⟨0, by omega, (zero_mul _).symm⟩
    simp only [encodeK, beq_iff_eq, hm, if_false, hsign]
    split_ifs with hover hnar hunder
    · exact .inr (.inl rfl)
    · refine .inr (.inr ⟨s, 2 ^ p.ew - 1, 2 ^ p.fw - 1, hs, by omega, by omega, by omega, ?_⟩)
      rw [KParams.code]
      exact Nat.add_sub_assoc hfw _
    · exact .inl rfl
    · rw [Nat.pow_succ] at hi
      have hcast : ((2 ^ p.ew : Nat) : Int) = 2 ^ p.ew := by push_cast; rfl
      exact .inr (.inr ⟨s, _, _, hs, by omega, by omega, by omega, rfl⟩)

/-- Every K format has an exponent field (R201). -/
theorem Fmt.k?_ew_pos {f : Fmt} {p : KParams} (h : f.k? = some p) : 0 < p.ew := by
  cases f <;> cases h <;> decide

theorem encode_of_k? {f : Fmt} {p : KParams} (h : f.k? = some p) (v : Val) (mode r ovf : Nat) : encode f v mode r ovf = encodeK p v mode r ovf := by
  simp only [encode, h]

theorem decode_of_k? {f : Fmt} {p : KParams} (h : f.k? = some p) (c : Nat) : decode f c = decodeK p c := by
  simp only [decode, h]

theorem encodeK_zero (p : KParams) (e : Int) (mode r ovf : Nat) : encodeK p (.fin 0 e) mode r ovf = (0, {}) := rfl

/-- Settles O57: of the three outcomes of a conversion, only zero and NaR have an exponent field of 0. -/
theorem kCodesAreCanonical : Obligations.KCodesAreCanonical := by
  intro f p v mode r ovf hp
  simp only [encode_of_k? hp]
  have hfrac : 2 ^ p.fw - 1 < 2 ^ p.fw := Nat.sub_one_lt (by positivity)
  refine ⟨?_, fun hzero => ?_, fun e => encodeK_zero p e mode r ovf⟩ <;>
    obtain h | h | ⟨s, e, frac, hs, hpos, he, hf, h⟩ := encodeK_cases (Fmt.k?_ew_pos hp) v mode r ovf
  · rw [h]; positivity
  · rw [h, KParams.nar_eq]
    exact KParams.code_lt one_lt_two (by positivity) hfrac
  · rw [h]
    exact KParams.code_lt hs he hf
  · exact .inl h
  · exact .inr (h.trans (Nat.add_sub_assoc Nat.one_le_two_pow _))
  · rw [h, KParams.code_exponent he hf] at hzero
    omega

/-! ### Decoding and encoding -/

/-- A code with an exponent field has a significand of fw + 1 bits, which the conversion back leaves as it is. -/
theorem encodeK_decodeK {p : KParams} {c : Nat} (hc : c < 2 ^ (p.ew + p.fw + 1)) (he : c / 2 ^ p.fw % 2 ^ p.ew ≠ 0) (mode r ovf : Nat) :
    encodeK p (decodeK p c) mode r ovf = (c, {}) := by
  have hfields := KParams.code_fields hc
  have hew : c / 2 ^ p.fw % 2 ^ p.ew < 2 ^ p.ew := Nat.mod_lt _ (by positivity)
  have hfw : c % 2 ^ p.fw < 2 ^ p.fw := Nat.mod_lt _ (by positivity)
  have hs : c / 2 ^ (p.ew + p.fw) % 2 < 2 := Nat.mod_lt _ two_pos
  simp only [decodeK, beq_iff_eq, he, if_false]
  generalize c / 2 ^ p.fw % 2 ^ p.ew = e at *
  generalize c % 2 ^ p.fw = frac at *
  generalize c / 2 ^ (p.ew + p.fw) % 2 = s at *
  have hlog : (2 ^ p.fw + frac).log2 = p.fw := by
    rw [Nat.log2_eq_iff (by positivity), Nat.pow_succ]
    omega
  have hmag : ((2 : Int) ^ p.fw + frac) = ((2 ^ p.fw + frac : Nat) : Int) := by push_cast; rfl
  have hmagPos : 0 < 2 ^ p.fw + frac := by positivity
  have habs : (if s = 1 then -((2 ^ p.fw + frac : Nat) : Int) else (2 ^ p.fw + frac : Nat)).natAbs = 2 ^ p.fw + frac := by
    split <;> omega
  have hsign : (if (if s = 1 then -((2 ^ p.fw + frac : Nat) : Int) else (2 ^ p.fw + frac : Nat)) < 0 then 2 ^ (p.ew + p.fw) else 0)
      = s * 2 ^ (p.ew + p.fw) := by
    obtain rfl | rfl : s = 0 ∨ s = 1 := by omega
    · rw [if_neg (by simp; omega), zero_mul]
    · rw [if_pos (by simp; omega), one_mul]
  have hne : (if s = 1 then -((2 ^ p.fw + frac : Nat) : Int) else (2 ^ p.fw + frac : Nat)) ≠ 0 := by
    intro h0
    rw [h0] at habs
    omega
  have hcast : ((2 ^ p.ew : Nat) : Int) = 2 ^ p.ew := by push_cast; rfl
  have hexp : (p.fw : Int) + ((e : Int) - p.bias - p.fw) = e - p.bias := by ring
  simp only [hmag, encodeK, beq_iff_eq, hne, if_false, habs, hsign, roundSig_exact hlog, hexp]
  rw [if_neg (by omega), if_neg (by omega), Int.sub_add_cancel, Int.toNat_natCast, Nat.add_sub_cancel_left]
  exact Prod.ext hfields rfl

theorem decodeK_zero (p : KParams) : decodeK p 0 = .zero := by
  simp [decodeK]

theorem decodeK_nar (p : KParams) : decodeK p p.nar = .nar := by
  have hfrac : 2 ^ p.fw - 1 < 2 ^ p.fw := Nat.sub_one_lt (by positivity)
  have hbelow : 2 ^ p.fw - 1 < 2 ^ (p.ew + p.fw) := hfrac.trans_le (Nat.pow_le_pow_right two_pos (Nat.le_add_left _ _))
  have hsplit : p.nar = (2 ^ p.fw - 1) + 2 ^ (p.ew + p.fw) * 1 := by
    rw [KParams.nar]
    omega
  have hexp : p.nar / 2 ^ p.fw % 2 ^ p.ew = 0 := by rw [KParams.nar_eq, KParams.code_exponent (by positivity) hfrac]
  have hsign : p.nar / 2 ^ (p.ew + p.fw) = 1 := by
    rw [hsplit, Nat.add_mul_div_left _ _ (by positivity), Nat.div_eq_of_lt hbelow]
  have hlow : p.nar % 2 ^ p.fw = 2 ^ p.fw - 1 := by
    rw [hsplit, Nat.pow_add, Nat.mul_comm (2 ^ p.ew), Nat.mul_assoc, Nat.add_mul_mod_self_left, Nat.mod_eq_of_lt hfrac]
  simp [decodeK, hexp, hsign, hlow]

/-- Settles O58: a code with an exponent field by its significand, which fits the format; zero and NaR by their own codes. -/
theorem kCodesRoundTrip : Obligations.KCodesRoundTrip := by
  intro f p c mode r ovf hp hc
  simp only [encode_of_k? hp, decode_of_k? hp]
  refine ⟨fun he => encodeK_decodeK hc he mode r ovf, ?_, ?_⟩
  · rw [decodeK_zero p]
    exact encodeK_zero p 0 mode r ovf
  · have hnar : 2 ^ (p.ew + p.fw) + (2 ^ p.fw - 1) = p.nar := (Nat.add_sub_assoc Nat.one_le_two_pow _).symm
    rw [hnar, decodeK_nar]
    rfl

end Sys2Proof.Machine
end

section
/-! PROOFS. Every step keeps every memory in its canonical form (logs 8 and 9): one lemma for each operation of the model that returns a
state, in the model's order, one for each row, and O5 from them. Most operations leave the memories alone or write them through the
operations of the memory layer; their lemmas follow the branches of the definition. -/

namespace Sys2Proof.Machine

/-! ### Updates of a state record -/

section
variable {s : State}  {pending : List Instr} {clock : Clock} {pcie : Pcie} {regs : Regs} {msix : Msix} {rings : Rings}
  {tether : Tether} {mail : Mailbox} {errors : Errors} {colls : List Collection} {active : Timetable} {staged : Option Timetable}
  {former : List Former} {sw : Switch} {group : Group} {ports : List Port} {cages : List Cage} {keys : Keys} {fw : Firmware} {power : Power}
  {comp : Compute} {free : Nat}

/-- Fields of the state that hold no memory. -/
theorem State.memoriesWf_update (hs : s.memoriesWf = true) : State.memoriesWf { s with
    pending, clock, pcie, regs, msix, rings, tether, mail, errors, colls, active, staged, former, sw, group, ports, cages, keys, fw, power, comp,
    free } = true := hs

section
variable {poison : List Nat} {regionBase regionGib : Nat} {regions : List Region} {retired : List (Nat × Nat)} {retiring : List (Nat × Nat × Nat)}
  {splices : List Splice} {lanesSpare pprUsed : List (Nat × Nat)} {offers : List (Nat × Nat × List Nat)} {t2Reads : List (Nat × Nat × Nat × Nat)}
  {loans : List Loan} {held selfRefresh : List Nat} {retraining : List (Nat × Nat)} {testHeld refreshing : List Nat}

/-- Fields of the memory beside its contents. -/
theorem State.memoriesWf_updateMem (hs : s.memoriesWf = true) : State.memoriesWf { s with
    pending, clock, pcie, regs, msix, rings, tether, mail, errors, colls, active, staged, former, sw, group, ports, cages, keys, fw, power, comp, free
    mem := { s.mem with
      poison, regionBase, regionGib, regions, retired, retiring, splices, lanesSpare, pprUsed, offers, t2Reads, loans, held, selfRefresh, retraining,
      testHeld, refreshing } } = true := hs

variable {format : Nat} {converting convMsg : Option Nat} {formatting : Option (Nat × Nat)} {indexSectors hostSectors : Nat} {failing : List Nat}
  {relocate placed : List (Nat × Nat × Nat)} {blocks : List FlashBlock} {journal : List Journal} {nextMutation : Nat}
  {sanitise : Option (Nat × Nat × Nat)} {sanMsg : Option Nat} {badBlocks : Nat}

/-- Fields of the store beside its host area. -/
theorem State.memoriesWf_updateStore (hs : s.memoriesWf = true) : State.memoriesWf { s with
    pending, clock, pcie, regs, msix, rings, tether, mail, errors, colls, active, staged, former, sw, group, ports, cages, keys, fw, power, comp, free
    store := { s.store with
      format, converting, convMsg, formatting, indexSectors, hostSectors, failing, relocate, placed, blocks, journal, nextMutation, sanitise, sanMsg,
      badBlocks } } = true := hs

end
end
/-- A choice between two states. -/
theorem State.memoriesWf_ite {s t : State} {c : Prop} [Decidable c] (hs : s.memoriesWf = true) (ht : t.memoriesWf = true) :
    (if c then s else t).memoriesWf = true := by
  split
  · exact hs
  · exact ht

theorem State.foldl_memoriesWf {α : Type} {f : State → α → State} (hf : ∀ s a, s.memoriesWf = true → (f s a).memoriesWf = true) (l : List α)
    {s : State} (hs : s.memoriesWf = true) : (l.foldl f s).memoriesWf = true := by
  induction l generalizing s with
  | nil => exact hs
  | cons a l ih => exact ih (hf s a hs)

/-- A choice by an option. -/
theorem State.memoriesWf_elim {α : Type} {s : State} {f : α → State} (o : Option α) (hs : s.memoriesWf = true)
    (hf : ∀ a, (f a).memoriesWf = true) : (o.elim s f).memoriesWf = true := by
  cases o with
  | none => exact hs
  | some a => exact hf a

/-- A run of steps that each keep the memories canonical, along with what they gather. -/
theorem State.foldl_fst_memoriesWf {α β : Type} {f : State × β → α → State × β}
    (hf : ∀ x a, x.1.memoriesWf = true → (f x a).1.memoriesWf = true) (l : List α) {x : State × β} (hx : x.1.memoriesWf = true) :
    (l.foldl f x).1.memoriesWf = true := by
  induction l generalizing x with
  | nil => exact hx
  | cons a l ih => exact ih (hf x a hx)

/-- Whatever an outcome's next state, its memories are canonical. -/
def KeepsMemories (o : Host.Outcome State Fault Refusal) : Prop := ∀ t, o = .next t → t.memoriesWf = true

theorem keepsMemories_next {s : State} (hs : s.memoriesWf = true) : KeepsMemories (.next s) := by
  intro t ht
  obtain rfl := Host.Outcome.next.inj ht
  exact hs

theorem keepsMemories_ite {a b : Host.Outcome State Fault Refusal} {c : Prop} [Decidable c] (ha : KeepsMemories a) (hb : KeepsMemories b) :
    KeepsMemories (if c then a else b) := by
  split
  · exact ha
  · exact hb

theorem State.memoriesWf_getD {o : Option State} {s : State} (ho : ∀ t, o = some t → t.memoriesWf = true) (hs : s.memoriesWf = true) :
    (o.getD s).memoriesWf = true := by
  cases o with
  | none => exact hs
  | some t => exact ho t rfl

/-! ### Memories: sorted cells that list no zero byte (log 8) -/

theorem State.readOk_memoriesWf {s : State} {a n : ℕ} (hs : s.memoriesWf = true) : (s.readOk a n).memoriesWf = true := hs

theorem State.hostWrite_memoriesWf {s : State} {a : ℕ} {b : Bytes} (hs : s.memoriesWf = true) : (s.hostWrite a b).memoriesWf = true :=
  State.memoriesWf_of hs rfl rfl (State.hostWrite_hostWf s a b (State.hostWf_of hs))

/-! ### Outcomes -/

theorem event_keepsMemories {s t : State} {ok : Bool} (hs : s.memoriesWf = true) (ht : t.memoriesWf = true) : KeepsMemories (event s ok t) :=
  keepsMemories_next (State.memoriesWf_ite ht hs)

/-! ### Time (R323): 500 ticks to the microsecond -/

theorem State.advance_memoriesWf {s : State} {t : ℕ} (hs : s.memoriesWf = true) : (s.advance t).memoriesWf = true := hs

theorem State.idle_memoriesWf {s : State} (hs : s.memoriesWf = true) : s.idle.memoriesWf = true := by
  unfold State.idle
  exact State.memoriesWf_ite (State.memoriesWf_update hs) hs

/-! ### MSI-X (R479) -/

theorem State.signal_memoriesWf {s : State} {v : ℕ} (hs : s.memoriesWf = true) : (s.signal v).memoriesWf = true := by
  unfold State.signal
  exact State.memoriesWf_ite (State.memoriesWf_update hs) (State.memoriesWf_update hs)

/-! ### Firmware that is up -/

theorem asked_keepsMemories {s t : State} {ok : Bool} (hs : s.memoriesWf = true) (ht : t.memoriesWf = true) : KeepsMemories (asked s ok t) := by
  unfold asked
  split
  · exact event_keepsMemories hs ht
  · exact fun _ h => nomatch h

/-! ### Messages from the device (R575 to R583) -/

theorem State.writeCells_memoriesWf {s : State} {b : Bytes} {n : ℕ} (hs : s.memoriesWf = true) : (s.writeCells b n).memoriesWf = true := by
  unfold State.writeCells
  exact State.memoriesWf_update (State.hostWrite_memoriesWf hs)

theorem State.padCells_memoriesWf {s : State} {len : ℕ} (hs : s.memoriesWf = true) : (s.padCells len).memoriesWf = true := by
  unfold State.padCells
  exact State.memoriesWf_ite (State.writeCells_memoriesWf hs) hs

theorem State.wakeWatcher_memoriesWf {s : State} (hs : s.memoriesWf = true) : s.wakeWatcher.memoriesWf = true := hs

theorem State.putMessage_memoriesWf {s : State} {m : OutMsg} (hs : s.memoriesWf = true) : (s.putMessage m).memoriesWf = true := by
  unfold State.putMessage
  exact State.wakeWatcher_memoriesWf (State.memoriesWf_update (State.signal_memoriesWf (State.hostWrite_memoriesWf (State.writeCells_memoriesWf
      (State.padCells_memoriesWf hs)))))

theorem State.drainQueue_memoriesWf {n : ℕ} {s : State} (hs : s.memoriesWf = true) : (State.drainQueue n s).memoriesWf = true :=
  State.memoriesWf_of hs (by rw [State.drainQueue_mailOnly n s]) (by rw [State.drainQueue_mailOnly n s])
    (State.drainQueue_hostWf n s (State.hostWf_of hs))

theorem State.sendReports_memoriesWf {l : List ErrRec} {s : State} (hs : s.memoriesWf = true) : (State.sendReports l s).memoriesWf = true :=
  State.memoriesWf_of hs (by rw [State.sendReports_mailOnly l s]) (by rw [State.sendReports_mailOnly l s])
    (State.sendReports_hostWf l s (State.hostWf_of hs))

theorem State.flushMail_memoriesWf {s : State} (hs : s.memoriesWf = true) : s.flushMail.memoriesWf = true := by
  unfold State.flushMail
  exact State.memoriesWf_ite hs (State.memoriesWf_ite (State.sendReports_memoriesWf (State.drainQueue_memoriesWf hs))
      (State.drainQueue_memoriesWf hs))

theorem State.replyLater_memoriesWf {s : State} {type : ℕ} {seq : Option ℕ} {body : Bytes} (hs : s.memoriesWf = true) :
    (s.replyLater type seq body).memoriesWf = true := by
  unfold State.replyLater
  split
  · exact hs
  · exact State.memoriesWf_ite (State.reply_memoriesWf _ _ _ _ hs) hs

theorem State.refuseLater_memoriesWf {s : State} {type : ℕ} {seq : Option ℕ} {code off reason : ℕ} (hs : s.memoriesWf = true) :
    (s.refuseLater type seq code off reason).memoriesWf = true := by
  unfold State.refuseLater
  split
  · exact hs
  · exact State.memoriesWf_ite (State.refuse_memoriesWf _ _ _ _ _ _ hs) hs

/-! ### Error records (R651 to R658) -/

theorem State.endRecovery_memoriesWf {s : State} {u : ℕ × ℕ} (hs : s.memoriesWf = true) : (s.endRecovery u).memoriesWf = true := hs

/-! ### Commands and completion entries (chapters 14 and 15) -/

theorem State.updCmd_memoriesWf {s : State} {cid : ℕ} {f : Cmd → Cmd} (hs : s.memoriesWf = true) : (s.updCmd cid f).memoriesWf = true := hs

theorem State.updSq_memoriesWf {s : State} {n : ℕ} {f : SubRing → SubRing} (hs : s.memoriesWf = true) : (s.updSq n f).memoriesWf = true := hs

theorem State.updCq_memoriesWf {s : State} {n : ℕ} {f : CmpRing → CmpRing} (hs : s.memoriesWf = true) : (s.updCq n f).memoriesWf = true := hs

theorem State.coalesce_memoriesWf {s : State} {n : ℕ} (hs : s.memoriesWf = true) : (s.coalesce n).memoriesWf = true := by
  unfold State.coalesce
  split
  · exact hs
  · exact State.memoriesWf_ite (State.signal_memoriesWf (State.updCq_memoriesWf hs)) hs

theorem State.writeEntry_memoriesWf {s : State} {q : CmpRing} {r : Result} {tag sq : ℕ} (hs : s.memoriesWf = true) :
    (s.writeEntry q r tag sq).memoriesWf = true := by
  unfold State.writeEntry
  exact State.coalesce_memoriesWf (State.updCq_memoriesWf (State.hostWrite_memoriesWf hs))

theorem State.stage_memoriesWf {s : State} {c : Cmd} {r : Result} (hs : s.memoriesWf = true) : (s.stage c r).memoriesWf = true := by
  unfold State.stage
  exact State.memoriesWf_ite (State.memoriesWf_update (State.memoriesWf_ite (State.memoriesWf_update hs) (State.memoriesWf_update hs)))
      (State.memoriesWf_ite (State.memoriesWf_update hs) (State.memoriesWf_update hs))

theorem State.dropCmd_memoriesWf {s : State} {cid : ℕ} (hs : s.memoriesWf = true) : (s.dropCmd cid).memoriesWf = true := hs

theorem State.journalDone_memoriesWf {s : State} {c : Cmd} (hs : s.memoriesWf = true) : (s.journalDone c).memoriesWf = true := by
  unfold State.journalDone
  split
  · exact State.memoriesWf_updateStore hs
  · exact hs

theorem State.post_memoriesWf {s : State} {c : Cmd} {r : Result} (hs : s.memoriesWf = true) : (s.post c r).memoriesWf = true := by
  unfold State.post
  dsimp only
  split
  · exact State.stage_memoriesWf (State.journalDone_memoriesWf (State.dropCmd_memoriesWf hs))
  · split
    · exact State.stage_memoriesWf (State.journalDone_memoriesWf (State.dropCmd_memoriesWf hs))
    · exact State.writeEntry_memoriesWf (State.updSq_memoriesWf (State.journalDone_memoriesWf (State.dropCmd_memoriesWf hs)))

theorem State.draw_memoriesWf {s : State} {n : ℕ} (hs : s.memoriesWf = true) : (s.draw n).memoriesWf = true := hs

/-! ### Units that a self-test has taken (R679) -/

theorem State.releaseTests_memoriesWf {s : State} (hs : s.memoriesWf = true) : s.releaseTests.memoriesWf = true := hs

theorem State.interruptTests_memoriesWf {s : State} {clusters : List ℕ} (hs : s.memoriesWf = true) :
    (s.interruptTests clusters).memoriesWf = true := hs

/-! ### The fetch (R490, R497, R512, R515, R516) -/

theorem State.arbStep_memoriesWf {s : State} {ring op : ℕ} (hs : s.memoriesWf = true) : (s.arbStep ring op).memoriesWf = true := by
  unfold State.arbStep
  split
  · exact hs
  · exact State.memoriesWf_update hs

theorem State.take_memoriesWf {s : State} {r : SubRing} {hdr : Header} {body : CmdBody} {admitted : Bool} (hs : s.memoriesWf = true) :
    (s.take r hdr body admitted).memoriesWf = true := by
  unfold State.take
  exact State.memoriesWf_update (State.updSq_memoriesWf (State.readOk_memoriesWf (State.arbStep_memoriesWf hs)))

theorem State.fetchDone_memoriesWf {s : State} {r : SubRing} {op : ℕ} {d : Bytes} {res : Result} (hs : s.memoriesWf = true) :
    (s.fetchDone r op d res).memoriesWf = true := by
  unfold State.fetchDone
  exact State.complete_memoriesWf _ _ _ (State.take_memoriesWf hs)

theorem State.fetchWith_memoriesWf {s : State} {r : SubRing} {op : ℕ} {d : Bytes} {fault : Option Result} {body : CmdBody} {admitted : Bool}
    (hs : s.memoriesWf = true) : (s.fetchWith r op d fault body admitted).memoriesWf = true := by
  unfold State.fetchWith
  split
  · exact State.fetchDone_memoriesWf hs
  · split
    · exact State.fetchDone_memoriesWf hs
    · exact State.take_memoriesWf hs

theorem fetchEvent_keepsMemories {s : State} {ring op : ℕ} {desc : Bytes} {effect : SubRing → State} (hs : s.memoriesWf = true) (heffect : ∀ r,
    (effect r).memoriesWf = true) : KeepsMemories (fetchEvent s ring op desc effect) := by
  unfold fetchEvent
  split
  · exact keepsMemories_next hs
  · exact asked_keepsMemories hs (heffect _)

theorem State.updColl_memoriesWf {s : State} {id : ℕ} {f : Collection → Collection} (hs : s.memoriesWf = true) :
    (s.updColl id f).memoriesWf = true := hs

/-! ### Computed registers of BAR0 (chapter 13) -/

theorem State.errorLog_memoriesWf {s : State} {bit off : ℕ} (hs : s.memoriesWf = true) : (s.errorLog bit off).memoriesWf = true := hs

/-! ### SMBus registers (chapter 20, R696 to R701, R727) -/

theorem State.programIn_memoriesWf {s : State} {area first n block : ℕ} (hs : s.memoriesWf = true) :
    (s.programIn area first n block).memoriesWf = true := hs

theorem State.relocateOne_memoriesWf {s : State} {x : ℕ × ℕ × ℕ × Option ℕ} (hs : s.memoriesWf = true) : (s.relocateOne x).memoriesWf = true := by
  unfold State.relocateOne
  dsimp only
  split
  · exact State.programIn_memoriesWf (State.memoriesWf_updateStore hs)
  · exact (State.flashProgram_memoriesWf _ _ _ _).trans hs

theorem State.eraseEmpty_memoriesWf {s : State} (hs : s.memoriesWf = true) : s.eraseEmpty.memoriesWf = true := hs

theorem State.patrol_memoriesWf {s : State} (hs : s.memoriesWf = true) : s.patrol.memoriesWf = true := by
  refine State.foldl_memoriesWf (fun s b hs => ?_) _ (State.memoriesWf_updateStore (State.draw_memoriesWf hs))
  exact State.foldl_memoriesWf (fun s x hs => (State.flashRead_memoriesWf s x.1 x.2 1).trans hs) _ hs

theorem State.mediumBurst_memoriesWf {s : State} (hs : s.memoriesWf = true) : s.mediumBurst.1.memoriesWf = true :=
  State.patrol_memoriesWf (State.eraseEmpty_memoriesWf
    (State.foldl_memoriesWf (fun _ _ hs => State.relocateOne_memoriesWf hs) _ (State.draw_memoriesWf hs)))

/-! ### Regions and interleave (R372 to R375) -/

theorem State.openRegion_memoriesWf {s t : State} {stack : Option ℕ} {num : ℕ} (hs : s.memoriesWf = true) (found : s.openRegion stack num = some t) :
    t.memoriesWf = true := by
  obtain ⟨units, -, rfl⟩ := Option.map_eq_some_iff.1 found
  exact State.memoriesWf_updateMem hs

/-! ### Places in T1 -/

theorem State.findStack_memoriesWf {s : State} {stack home n : ℕ} {x : State × ℕ} (hs : s.memoriesWf = true)
    (found : s.findStack stack home n = some x) : x.1.memoriesWf = true := by
  unfold State.findStack at found
  split at found
  · obtain rfl := Option.some.inj found
    exact hs
  · split at found
    · obtain rfl := Option.some.inj found
      exact hs
    · split at found
      · cases found
      · rename_i opened
        obtain ⟨r, -, hr⟩ := Option.bind_eq_some_iff.1 opened
        obtain ⟨a, -, rfl⟩ := Option.map_eq_some_iff.1 found
        exact State.openRegion_memoriesWf hs hr

theorem State.openRun_memoriesWf {k r : ℕ} {s t : State} (hs : s.memoriesWf = true) (found : State.openRun k r s = some t) : t.memoriesWf = true := by
  induction k generalizing r s with
  | zero =>
    obtain rfl := Option.some.inj found
    exact hs
  | succ k ih =>
    obtain ⟨u, hu, ht⟩ := Option.bind_eq_some_iff.1 found
    exact ih (State.openRegion_memoriesWf hs hu) ht

theorem State.findSpread_memoriesWf {s : State} {align n : ℕ} {x : State × ℕ} (hs : s.memoriesWf = true) (found : s.findSpread align n = some x) :
    x.1.memoriesWf = true := by
  unfold State.findSpread at found
  dsimp only at found
  split at found
  · obtain rfl := Option.some.inj found
    exact hs
  · obtain ⟨r, -, hr⟩ := Option.bind_eq_some_iff.1 found
    obtain ⟨u, hu, rfl⟩ := Option.map_eq_some_iff.1 hr
    exact State.openRun_memoriesWf hs hu

theorem State.freeRegions_memoriesWf {s : State} (hs : s.memoriesWf = true) : s.freeRegions.memoriesWf = true := by
  unfold State.freeRegions
  exact State.memoriesWf_ite (State.memoriesWf_updateMem hs) hs

/-! ### Everything placed -/

theorem State.setSeg_memoriesWf {s : State} {id i : ℕ} {g : Segment} (hs : s.memoriesWf = true) : (s.setSeg id i g).memoriesWf = true := hs

theorem State.layFlash_memoriesWf {s : State} {id i : ℕ} (hs : s.memoriesWf = true) : (s.layFlash id i).memoriesWf = true := by
  unfold State.layFlash
  split
  · exact hs
  · dsimp only
    rename_i c g _
    have full {o : Option ℕ} {g' : ℕ → Segment} {n : ℕ} : (match (generalizing := false) o with
        | none => (s, g)
        | some k => (s.flashProgram 1 k n, g' k)).1.memoriesWf = true := by
      cases o with
      | none => exact hs
      | some k => exact (State.flashProgram_memoriesWf s 1 k n).trans hs
    split
    · exact State.setSeg_memoriesWf full
    · exact State.setSeg_memoriesWf ((State.flashProgram_memoriesWf _ _ _ _).trans (State.setSeg_memoriesWf full))

theorem State.laySeg_memoriesWf {s : State} {id i : ℕ} (hs : s.memoriesWf = true) : (s.laySeg id i).memoriesWf = true := by
  unfold State.laySeg
  split
  · exact hs
  · split
    · exact hs
    · split
      · exact hs
      · rename_i found
        have placed {g : Segment} := State.setSeg_memoriesWf (id := id) (i := i) (g := g) (State.findStack_memoriesWf hs found)
        dsimp only
        split
        · exact placed
        · split
          · exact placed
          · rename_i foundRefs
            exact State.setSeg_memoriesWf (State.findStack_memoriesWf placed foundRefs)

theorem State.layChunk_memoriesWf {s : State} {id i : ℕ} (hs : s.memoriesWf = true) : (s.layChunk id i).memoriesWf = true := by
  unfold State.layChunk
  split
  · exact hs
  · split
    · exact hs
    · split
      · exact hs
      · rename_i found
        exact State.updColl_memoriesWf (State.findStack_memoriesWf hs found)

theorem State.layGraph_memoriesWf {s : State} {id i : ℕ} (hs : s.memoriesWf = true) : (s.layGraph id i).memoriesWf = true := by
  unfold State.layGraph
  split
  · exact hs
  · dsimp only
    refine State.foldl_memoriesWf (fun s x hs => ?_) _ ?_
    · split
      · exact hs
      · split
        · exact hs
        · rename_i found
          exact State.updColl_memoriesWf (State.findSpread_memoriesWf hs found)
    · split
      · exact hs
      · split
        · exact hs
        · rename_i found
          exact State.updColl_memoriesWf (State.findSpread_memoriesWf hs found)

theorem State.layColl_memoriesWf {s : State} {id : ℕ} (hs : s.memoriesWf = true) : (s.layColl id).memoriesWf = true := by
  unfold State.layColl
  exact State.foldl_memoriesWf (fun _ _ hs => State.layChunk_memoriesWf hs) _ (State.foldl_memoriesWf (fun _ _ hs => (State.laySeg_memoriesWf
      (State.layFlash_memoriesWf hs))) _ (State.foldl_memoriesWf (fun _ _ hs => State.layGraph_memoriesWf hs) _ (State.updColl_memoriesWf hs)))

theorem State.layout_memoriesWf {s : State} (hs : s.memoriesWf = true) : s.layout.memoriesWf = true := by
  unfold State.layout
  exact State.freeRegions_memoriesWf (State.foldl_memoriesWf (fun _ _ hs => (State.memoriesWf_ite hs (State.layColl_memoriesWf hs))) _ hs)

/-! ### Copying a tensor (R310, R368) -/

theorem State.coverAll_memoriesWf {s : State} {tier : ℕ} {l : List (ℕ × ℕ)} (hs : s.memoriesWf = true) : (s.coverAll tier l).memoriesWf = true := by
  unfold State.coverAll
  split
  · exact State.memoriesWf_updateMem hs
  · exact State.foldl_memoriesWf (fun s k hs => (State.flashProgram_memoriesWf s 0 k 1).trans hs) _ (State.memoriesWf_updateStore hs)
  · exact hs

theorem State.readMedium_memoriesWf {s : State} {tier : ℕ} {l : List (ℕ × ℕ)} (hs : s.memoriesWf = true) : (s.readMedium tier l).memoriesWf = true :=
  State.memoriesWf_ite (State.foldl_memoriesWf (fun s k hs => (State.flashRead_memoriesWf s 0 k 1).trans hs) _ hs) hs

theorem State.writeRows_memoriesWf {s : State} {tier : ℕ} {l : List (ℕ × Bytes)} (hs : s.memoriesWf = true) :
    (s.writeRows tier l).memoriesWf = true := by
  unfold State.writeRows
  exact State.coverAll_memoriesWf (State.foldl_memoriesWf (fun _ _ hs => State.tierWrite_memoriesWf _ _ _ _ hs) _ hs)

theorem State.writeBytes_memoriesWf {s : State} {tier : ℕ} {l : List (ℕ × Byte)} (hs : s.memoriesWf = true) :
    (s.writeBytes tier l).memoriesWf = true := by
  unfold State.writeBytes
  exact State.coverAll_memoriesWf (State.foldl_memoriesWf (fun _ _ hs => State.tierWrite_memoriesWf _ _ _ _ hs) _ hs)

/-! ### MOVE_TENSOR (R368 to R371, R389) -/

theorem State.moveStop_memoriesWf {s : State} {m : MoveWork} {h : HostImage} {reach : Bool} (hs : s.memoriesWf = true) :
    (s.moveStop m h reach).1.memoriesWf = true := by
  unfold State.moveStop
  dsimp only
  split
  · exact State.writeBytes_memoriesWf (State.draw_memoriesWf hs)
  · exact State.draw_memoriesWf hs

/-! ### Runs -/

theorem State.updRun_memoriesWf {s : State} {rid : ℕ} {f : Run → Run} (hs : s.memoriesWf = true) : (s.updRun rid f).memoriesWf = true := hs

theorem State.carryOut_memoriesWf {s : State} {r : Run} {t : Transfer} {f g : Fmt} {h : HostImage} (hs : s.memoriesWf = true) :
    (s.carryOut r t f g h).memoriesWf = true := by
  unfold State.carryOut
  exact State.memoriesWf_ite (State.memoriesWf_ite (State.foldl_memoriesWf (fun _ _ hs => (State.memoriesWf_ite (State.updRun_memoriesWf hs)
      (State.tierWrite_memoriesWf _ _ _ _ hs))) _ hs) (State.readMedium_memoriesWf (State.foldl_memoriesWf (fun _ _ hs => (State.memoriesWf_ite
      (State.updRun_memoriesWf hs) (State.tierWrite_memoriesWf _ _ _ _ hs))) _ hs))) (State.coverAll_memoriesWf (State.memoriesWf_ite
      (State.foldl_memoriesWf (fun _ _ hs => (State.memoriesWf_ite (State.updRun_memoriesWf hs) (State.tierWrite_memoriesWf _ _ _ _ hs))) _ hs)
      (State.readMedium_memoriesWf (State.foldl_memoriesWf (fun _ _ hs => (State.memoriesWf_ite (State.updRun_memoriesWf hs)
      (State.tierWrite_memoriesWf _ _ _ _ hs))) _ hs))))

/-! ### A program that is stopped (R304, R317) -/

theorem State.finishMoves_memoriesWf {s : State} {r : Run} {h : HostImage} (hs : s.memoriesWf = true) : (s.finishMoves r h).memoriesWf = true := by
  unfold State.finishMoves
  refine State.foldl_memoriesWf (fun s x hs => ?_) _ hs
  split
  · exact State.memoriesWf_ite hs (State.draw_memoriesWf (State.carryOut_memoriesWf hs))
  · exact hs

/-! ### Work that a command leaves behind when it is dropped -/

theorem State.dropUncommitted_memoriesWf {s : State} {owner : ℕ} (hs : s.memoriesWf = true) : (s.dropUncommitted owner).memoriesWf = true := hs

theorem State.dropPasses_memoriesWf {s : State} {cid : ℕ} (hs : s.memoriesWf = true) : (s.dropPasses cid).memoriesWf = true := hs

theorem State.wipeTokens_memoriesWf {s : State} {r : Run} (hs : s.memoriesWf = true) : (s.wipeTokens r).memoriesWf = true := by
  unfold State.wipeTokens
  split
  · exact State.foldl_memoriesWf (fun _ _ hs => State.writeT1_memoriesWf _ _ _ hs) _ hs
  · exact hs

theorem State.leaveBarriers_memoriesWf {s : State} {r : Run} (hs : s.memoriesWf = true) : (s.leaveBarriers r).memoriesWf = true := by
  unfold State.leaveBarriers
  split
  · exact State.memoriesWf_update hs
  · exact hs

theorem State.removeRun_memoriesWf {s : State} {rid : ℕ} (hs : s.memoriesWf = true) : (s.removeRun rid).memoriesWf = true := by
  unfold State.removeRun
  exact State.freeRegions_memoriesWf (State.memoriesWf_update (State.foldl_memoriesWf (fun _ _ hs => (State.leaveBarriers_memoriesWf
      (State.wipeTokens_memoriesWf hs))) _ hs))

theorem State.dropRuns_memoriesWf {s : State} {cid : ℕ} (hs : s.memoriesWf = true) : (s.dropRuns cid).memoriesWf = true := by
  unfold State.dropRuns
  exact State.foldl_memoriesWf (fun _ _ hs => (State.removeRun_memoriesWf (State.finishMoves_memoriesWf hs))) _ hs

theorem State.dropWork_memoriesWf {s : State} {c : Cmd} (hs : s.memoriesWf = true) : (s.dropWork c).memoriesWf = true := by
  unfold State.dropWork
  split
  · exact State.dropRuns_memoriesWf (State.dropPasses_memoriesWf hs)
  · exact State.dropRuns_memoriesWf (State.dropUncommitted_memoriesWf hs)
  · exact State.dropRuns_memoriesWf hs
  · exact hs

theorem State.endAll_memoriesWf {s : State} {p : Cmd → Bool} {r : Result} (hs : s.memoriesWf = true) : (s.endAll p r).memoriesWf = true := by
  unfold State.endAll
  exact State.foldl_memoriesWf (fun _ _ hs => (State.complete_memoriesWf _ _ _ (State.dropWork_memoriesWf hs))) _ hs

/-! ### Messages that can no longer be answered (R525) -/

theorem State.forgetMessages_memoriesWf {s : State} (hs : s.memoriesWf = true) : s.forgetMessages.memoriesWf = true := hs

/-! ### Becoming untethered (R525, R526, R579) -/

theorem State.noteUntether_memoriesWf {s : State} {cause : ℕ} (hs : s.memoriesWf = true) : (s.noteUntether cause).memoriesWf = true := hs

theorem State.untether_memoriesWf {s : State} {cause : ℕ} (hs : s.memoriesWf = true) : (s.untether cause).memoriesWf = true := by
  unfold State.untether
  exact State.memoriesWf_ite hs (State.endAll_memoriesWf (State.forgetMessages_memoriesWf (State.memoriesWf_update
      (State.noteUntether_memoriesWf hs))))

/-! ### Attaching (R476, R529, R579, R584, R587) -/

theorem State.startAdmin_memoriesWf {s : State} (hs : s.memoriesWf = true) : s.startAdmin.memoriesWf = true := by
  unfold State.startAdmin
  exact State.memoriesWf_ite (State.errorLog_memoriesWf hs) (State.memoriesWf_update hs)

/-! ### Leaving a group (R388, R458, R461) -/

theorem State.zeroRegions_memoriesWf {s : State} {l : List ℕ} (hs : s.memoriesWf = true) : (s.zeroRegions l).memoriesWf = true := by
  obtain ⟨hhost, hhbm, ht2, hstore⟩ := (State.memoriesWf_iff s).1 hs
  exact State.memoriesWf_ite hs ((State.memoriesWf_iff _).2 ⟨hhost, Mem.wf_filter _ _ hhbm, ht2, hstore⟩)

theorem State.closeLoans_memoriesWf {s : State} {p : Loan → Bool} (hs : s.memoriesWf = true) : (s.closeLoans p).memoriesWf = true := by
  obtain ⟨hhost, hhbm, ht2, hstore⟩ := (State.memoriesWf_iff s).1 hs
  refine State.foldl_memoriesWf (fun _ _ hs => State.refuseLater_memoriesWf hs) _
    (State.freeRegions_memoriesWf (State.zeroRegions_memoriesWf ?_))
  exact (State.memoriesWf_iff _).2 ⟨hhost, hhbm, Mem.wf_filter _ _ ht2, hstore⟩

theorem State.line_memoriesWf {s : State} {type : ℕ} {body : Bytes} (hs : s.memoriesWf = true) : (s.line type body).memoriesWf = true := hs

theorem State.announce_memoriesWf {s : State} {type : ℕ} {body : Bytes} (hs : s.memoriesWf = true) : (s.announce type body).memoriesWf = true := by
  unfold State.announce
  exact State.memoriesWf_ite (State.line_memoriesWf hs) hs

theorem State.launch_memoriesWf {s : State} {slot dst query member : ℕ} {load : Load} (hs : s.memoriesWf = true) :
    (s.launch slot dst query member load).memoriesWf = true := hs

theorem State.leaveGroup_memoriesWf {s : State} (hs : s.memoriesWf = true) : s.leaveGroup.memoriesWf = true := by
  unfold State.leaveGroup
  exact State.memoriesWf_ite hs (State.closeLoans_memoriesWf (State.refuseLater_memoriesWf (State.memoriesWf_update hs)))

/-! ### Shelter mode (R659) -/

theorem State.shelterEntry_memoriesWf {s : State} (hs : s.memoriesWf = true) : s.shelterEntry.memoriesWf = true := by
  unfold State.shelterEntry
  exact State.memoriesWf_updateMem (State.leaveGroup_memoriesWf (State.memoriesWf_update (State.endAll_memoriesWf (State.memoriesWf_updateStore hs))))

theorem State.settled_memoriesWf {before after : State} (_ : before.memoriesWf = true) (hsafter : after.memoriesWf = true) :
    (State.settled before after).memoriesWf = true := by
  unfold State.settled
  exact State.memoriesWf_ite (State.shelterEntry_memoriesWf hsafter) hsafter

theorem State.raise_memoriesWf {s : State} {a : RecArgs} (hs : s.memoriesWf = true) : (s.raise a).memoriesWf = true := by
  unfold State.raise
  exact State.settled_memoriesWf hs (State.record_memoriesWf _ _ hs)

/-! ### NOP and the descriptors that fail (R12 to R15, R534) -/

theorem execNop_keepsMemories {ring : ℕ} {desc : Bytes} {host : HostImage} {s : State} (hs : s.memoriesWf = true) :
    KeepsMemories (execNop ring desc host s) := by
  unfold execNop
  exact fetchEvent_keepsMemories hs fun _ => State.fetchWith_memoriesWf hs

theorem execInvalidOpcodeDescriptor_keepsMemories {ring : ℕ} {desc : Bytes} {host : HostImage} {s : State} (hs : s.memoriesWf = true) :
    KeepsMemories (execInvalidOpcodeDescriptor ring desc host s) := by
  unfold execInvalidOpcodeDescriptor
  dsimp only
  split
  · exact keepsMemories_next hs
  · exact asked_keepsMemories hs (State.fetchDone_memoriesWf hs)

/-! ### QUERY and QUERY_BATCH -/

theorem execQuery_keepsMemories {ring : ℕ} {desc : Bytes} {host : HostImage} {s : State} (hs : s.memoriesWf = true) :
    KeepsMemories (execQuery ring desc host s) := by
  unfold execQuery
  exact fetchEvent_keepsMemories hs fun _ => State.fetchWith_memoriesWf hs

theorem execQueryBatch_keepsMemories {ring : ℕ} {desc : Bytes} {host : HostImage} {s : State} (hs : s.memoriesWf = true) :
    KeepsMemories (execQueryBatch ring desc host s) := by
  unfold execQueryBatch
  exact fetchEvent_keepsMemories hs fun _ => State.fetchWith_memoriesWf hs

/-! ### Mutations -/

theorem State.fetchMutation_memoriesWf {s : State} {r : SubRing} {op : ℕ} {desc : Bytes} {fault : Option Result} {m : Mutation} (hs : s.memoriesWf = true) :
    (s.fetchMutation r op desc fault m).memoriesWf = true := by
  unfold State.fetchMutation
  dsimp only
  split
  · exact State.memoriesWf_updateStore (State.take_memoriesWf hs)
  · exact State.fetchWith_memoriesWf hs

theorem execInsert_keepsMemories {ring : ℕ} {desc : Bytes} {host : HostImage} {s : State} (hs : s.memoriesWf = true) :
    KeepsMemories (execInsert ring desc host s) := by
  refine fetchEvent_keepsMemories hs fun r => ?_
  split <;> exact State.fetchMutation_memoriesWf hs

theorem State.fetchIds_memoriesWf {s : State} {r : SubRing} {op : ℕ} {k : MutKind} {desc : Bytes} {host : HostImage} (hs : s.memoriesWf = true) :
    (s.fetchIds r op k desc host).memoriesWf = true := by
  unfold State.fetchIds
  split
  · exact State.fetchMutation_memoriesWf hs
  · split
    exact State.fetchMutation_memoriesWf hs

theorem execDelete_keepsMemories {ring : ℕ} {desc : Bytes} {host : HostImage} {s : State} (hs : s.memoriesWf = true) :
    KeepsMemories (execDelete ring desc host s) := by
  unfold execDelete
  exact fetchEvent_keepsMemories hs fun _ => State.fetchIds_memoriesWf hs

theorem execSetAttr_keepsMemories {ring : ℕ} {desc : Bytes} {host : HostImage} {s : State} (hs : s.memoriesWf = true) :
    KeepsMemories (execSetAttr ring desc host s) := by
  unfold execSetAttr
  exact fetchEvent_keepsMemories hs fun _ => State.fetchIds_memoriesWf hs

theorem execEmbedInsert_keepsMemories {ring : ℕ} {desc : Bytes} {host : HostImage} {s : State} (hs : s.memoriesWf = true) :
    KeepsMemories (execEmbedInsert ring desc host s) := by
  refine fetchEvent_keepsMemories hs fun r => ?_
  split <;> exact State.fetchMutation_memoriesWf hs

/-! ### Store commands (R393 to R398) -/

theorem State.fetchStore_memoriesWf {s : State} {r : SubRing} {op : ℕ} {k : StoreKind} {desc : Bytes} {host : HostImage} (hs : s.memoriesWf = true) :
    (s.fetchStore r op k desc host).memoriesWf = true := by
  unfold State.fetchStore
  exact State.fetchWith_memoriesWf hs

theorem execStoreRead_keepsMemories {ring : ℕ} {desc : Bytes} {host : HostImage} {s : State} (hs : s.memoriesWf = true) :
    KeepsMemories (execStoreRead ring desc host s) := by
  unfold execStoreRead
  exact fetchEvent_keepsMemories hs fun _ => State.fetchStore_memoriesWf hs

theorem execStoreWrite_keepsMemories {ring : ℕ} {desc : Bytes} {host : HostImage} {s : State} (hs : s.memoriesWf = true) :
    KeepsMemories (execStoreWrite ring desc host s) := by
  unfold execStoreWrite
  exact fetchEvent_keepsMemories hs fun _ => State.fetchStore_memoriesWf hs

theorem execStoreTrim_keepsMemories {ring : ℕ} {desc : Bytes} {host : HostImage} {s : State} (hs : s.memoriesWf = true) :
    KeepsMemories (execStoreTrim ring desc host s) := by
  unfold execStoreTrim
  exact fetchEvent_keepsMemories hs fun _ => State.fetchStore_memoriesWf hs

theorem State.flashFailure_memoriesWf {s : State} {c : Cmd} {sector : ℕ} (hs : s.memoriesWf = true) :
    (s.flashFailure c sector).memoriesWf = true := by
  unfold State.flashFailure
  exact State.draw_memoriesWf (State.record_memoriesWf _ _ hs)

theorem execStoreCompletion_keepsMemories {cid : ℕ} {s : State} (hs : s.memoriesWf = true) : KeepsMemories (execStoreCompletion cid s) := by
  unfold execStoreCompletion
  split
  · exact keepsMemories_next hs
  · split
    · exact event_keepsMemories hs (State.memoriesWf_ite (State.settled_memoriesWf hs (State.complete_memoriesWf _ _ _
          (State.flashFailure_memoriesWf hs))) (State.complete_memoriesWf _ _ _ (State.storeApply_memoriesWf _ _ _ _ hs)))
    · exact keepsMemories_next hs

/-! ### RUN_PROGRAM and MOVE_TENSOR -/

theorem State.newRun_memoriesWf {s : State} {p : Program} {why : RunFor} {seed : ℕ} {args : List (ℕ × TensorDesc)} {cleared : optParam Bool false}
    (hs : s.memoriesWf = true) : (s.newRun p why seed args cleared).memoriesWf = true := hs

theorem execRunProgram_keepsMemories {ring : ℕ} {desc : Bytes} {host : HostImage} {s : State} (hs : s.memoriesWf = true) :
    KeepsMemories (execRunProgram ring desc host s) := by
  refine fetchEvent_keepsMemories hs fun r => ?_
  dsimp only
  split
  · have taken {body : CmdBody} {p : Program} {why : RunFor} {seed : ℕ} {args : List (ℕ × TensorDesc)} {b : Bool} :
        ((s.take r (headerOf 0x40 desc) body false).newRun p why seed args b).memoriesWf = true :=
      State.newRun_memoriesWf (State.take_memoriesWf hs)
    exact State.memoriesWf_ite (State.writeT1_memoriesWf _ _ _ (State.memoriesWf_update taken)) (State.memoriesWf_update taken)
  · exact State.fetchWith_memoriesWf hs

theorem State.blurAllows_memoriesWf {s : State} (hs : s.memoriesWf = true) : s.blurAllows.memoriesWf = true := hs

theorem execMoveTensor_keepsMemories {ring : ℕ} {desc : Bytes} {host : HostImage} {s : State} (hs : s.memoriesWf = true) :
    KeepsMemories (execMoveTensor ring desc host s) := by
  refine fetchEvent_keepsMemories hs fun r => ?_
  dsimp only
  split
  · exact State.blurAllows_memoriesWf (State.take_memoriesWf (State.draw_memoriesWf hs))
  · exact State.fetchWith_memoriesWf hs

theorem execMoveTensorDone_keepsMemories {cid : ℕ} {host : HostImage} {s : State} (hs : s.memoriesWf = true) :
    KeepsMemories (execMoveTensorDone cid host s) := by
  unfold execMoveTensorDone
  split
  · exact keepsMemories_next hs
  · split
    · exact event_keepsMemories hs (State.memoriesWf_ite (State.settled_memoriesWf hs (State.complete_memoriesWf _ _ _ (State.memoriesWf_ite
          (State.flashFailure_memoriesWf (State.moveStop_memoriesWf hs)) (State.moveStop_memoriesWf hs)))) (State.complete_memoriesWf _ _ _
          (State.memoriesWf_ite (State.writeRows_memoriesWf (State.readMedium_memoriesWf hs)) (State.readMedium_memoriesWf hs))))
    · exact keepsMemories_next hs

/-! ### ABORT (R516 to R522) -/

theorem State.abortFetched_memoriesWf {s : State} {c : Cmd} {h : HostImage} (hs : s.memoriesWf = true) :
    (s.abortFetched c h).1.memoriesWf = true := by
  have caught : ((s.dropWork c).complete c.cid (.of 1)).memoriesWf = true := State.complete_memoriesWf _ _ _ (State.dropWork_memoriesWf hs)
  unfold State.abortFetched
  dsimp only
  split
  · exact hs
  · exact caught
  · exact caught
  · split
    · exact hs
    · exact caught
  · split
    · exact caught
    · split
      · exact State.complete_memoriesWf _ _ _ (State.foldl_memoriesWf (fun _ _ hs => State.hostWrite_memoriesWf hs) _ (State.draw_memoriesWf hs))
      · exact State.complete_memoriesWf _ _ _ (State.storeApply_memoriesWf _ _ _ _ (State.draw_memoriesWf hs))
  · split
    · exact caught
    · exact State.complete_memoriesWf _ _ _ (State.moveStop_memoriesWf hs)
  · exact State.complete_memoriesWf _ _ _ (State.dropRuns_memoriesWf
      (State.foldl_memoriesWf (fun _ _ hs => State.updRun_memoriesWf (State.finishMoves_memoriesWf hs)) _ hs))

theorem State.abortTarget_memoriesWf {s : State} {ring tag : ℕ} {h : HostImage} (hs : s.memoriesWf = true) :
    (s.abortTarget ring tag h).1.memoriesWf = true := by
  unfold State.abortTarget
  split
  · exact State.abortFetched_memoriesWf hs
  · split
    · exact hs
    · split
      · exact State.updSq_memoriesWf hs
      · exact hs

theorem execAbort_keepsMemories {ring : ℕ} {desc : Bytes} {host : HostImage} {s : State} (hs : s.memoriesWf = true) :
    KeepsMemories (execAbort ring desc host s) := by
  refine fetchEvent_keepsMemories hs fun r => ?_
  split
  · exact State.fetchDone_memoriesWf hs
  · exact State.complete_memoriesWf _ _ _ (State.updCmd_memoriesWf
      (State.abortTarget_memoriesWf (State.updCmd_memoriesWf (State.take_memoriesWf hs))))

/-! ### FENCE (R512 to R515) -/

theorem execFence_keepsMemories {ring : ℕ} {desc : Bytes} {host : HostImage} {s : State} (hs : s.memoriesWf = true) :
    KeepsMemories (execFence ring desc host s) := by
  unfold execFence
  exact fetchEvent_keepsMemories hs fun _ => State.fetchWith_memoriesWf hs

theorem execFenceComplete_keepsMemories {cid : ℕ} {s : State} (hs : s.memoriesWf = true) : KeepsMemories (execFenceComplete cid s) := by
  unfold execFenceComplete
  split
  · exact keepsMemories_next hs
  · split
    · exact event_keepsMemories hs (State.complete_memoriesWf _ _ _ hs)
    · exact keepsMemories_next hs

/-! ### Taking a message (R578, R647) -/

theorem State.takeCells_memoriesWf {s : State} {n : ℕ} (hs : s.memoriesWf = true) : (s.takeCells n).memoriesWf = true := by
  unfold State.takeCells
  exact State.hostWrite_memoriesWf (State.memoriesWf_update (State.readOk_memoriesWf hs))

theorem State.takeMessage_memoriesWf {s : State} {f : MsgForm} {cells : Bytes} (hs : s.memoriesWf = true) :
    (s.takeMessage f cells).memoriesWf = true := by
  unfold State.takeMessage
  exact State.memoriesWf_update (State.takeCells_memoriesWf hs)

/-- A message that the device takes: what it does, if anything, is left to the row. -/
theorem State.message_memoriesWf {s : State} {f : MsgForm} {cells : Bytes} {reserved : List (ℕ × ℕ × ℕ)} {bad : Option ℕ} {run : State → ℕ → State}
    (hs : s.memoriesWf = true) (hrun : ∀ t seq, t.memoriesWf = true → (run t seq).memoriesWf = true) : (s.message f cells reserved bad
    run).memoriesWf = true := by
  have taken : (s.takeMessage f cells).memoriesWf = true := State.takeMessage_memoriesWf hs
  unfold State.message
  dsimp only
  split
  · exact State.refuse_memoriesWf _ _ _ _ _ _ taken
  · split
    · exact State.refuse_memoriesWf _ _ _ _ _ _ taken
    · exact State.memoriesWf_ite (State.refuse_memoriesWf _ _ _ _ _ _ taken)
        (State.memoriesWf_ite (hrun _ _ taken) (State.memoriesWf_ite (State.refuse_memoriesWf _ _ _ _ _ _ taken) taken))

theorem messageEvent_keepsMemories {s : State} {f : MsgForm} {cells : Bytes} {reserved : List (ℕ × ℕ × ℕ)} {kind : Bool} {bad : Option ℕ}
    {run : State → ℕ → State} (hs : s.memoriesWf = true) (hrun : ∀ t seq, t.memoriesWf = true → (run t seq).memoriesWf = true) : KeepsMemories
    (messageEvent s f cells reserved kind bad run) :=
  asked_keepsMemories hs (State.memoriesWf_ite hs (State.settled_memoriesWf hs (State.message_memoriesWf hs hrun)))

/-! ### PAD, cells that cannot be framed, unknown types -/

theorem execPad_keepsMemories {cells : Bytes} {host : HostImage} {s : State} (hs : s.memoriesWf = true) : KeepsMemories (execPad cells host s) := by
  unfold execPad
  dsimp only
  refine asked_keepsMemories hs ?_
  split
  · exact hs
  · split
    · exact State.takeCells_memoriesWf hs
    · exact State.refuse_memoriesWf _ _ _ _ _ _ (State.takeCells_memoriesWf hs)

theorem execUnframedCell_keepsMemories {cells : Bytes} {host : HostImage} {s : State} (hs : s.memoriesWf = true) :
    KeepsMemories (execUnframedCell cells host s) := by
  unfold execUnframedCell
  exact asked_keepsMemories hs (State.memoriesWf_ite hs (State.refuse_memoriesWf _ _ _ _ _ _ (State.takeCells_memoriesWf hs)))

theorem execUnknownMessageType_keepsMemories {cells : Bytes} {host : HostImage} {s : State} (hs : s.memoriesWf = true) :
    KeepsMemories (execUnknownMessageType cells host s) := by
  unfold execUnknownMessageType
  dsimp only
  refine asked_keepsMemories hs ?_
  split
  · exact hs
  · split <;> exact State.refuse_memoriesWf _ _ _ _ _ _ (State.takeCells_memoriesWf hs)

/-! ### HELLO (R579, R584 to R587) -/

theorem State.attach_memoriesWf {s : State} {m : Bytes} (hs : s.memoriesWf = true) : (s.attach m).memoriesWf = true := hs

theorem State.helloAccept_memoriesWf {s : State} {m : Bytes} {cells : ℕ} (hs : s.memoriesWf = true) : (s.helloAccept m cells).memoriesWf = true := by
  unfold State.helloAccept
  exact State.flushMail_memoriesWf (State.memoriesWf_ite (State.startAdmin_memoriesWf (State.putMessage_memoriesWf (State.hostWrite_memoriesWf
      (State.attach_memoriesWf (State.memoriesWf_ite (State.memoriesWf_update (State.untether_memoriesWf hs)) (State.memoriesWf_update
      (State.untether_memoriesWf hs))))))) (State.putMessage_memoriesWf (State.hostWrite_memoriesWf (State.attach_memoriesWf (State.memoriesWf_ite
      (State.memoriesWf_update (State.untether_memoriesWf hs)) (State.memoriesWf_update (State.untether_memoriesWf hs)))))))

theorem State.helloRefuseUntethered_memoriesWf {s : State} {m : Bytes} {code off : ℕ} (hs : s.memoriesWf = true) :
    (s.helloRefuseUntethered m code off).memoriesWf = true := by
  unfold State.helloRefuseUntethered
  exact State.memoriesWf_update (State.hostWrite_memoriesWf (State.hostWrite_memoriesWf hs))

theorem execHello_keepsMemories {cells : Bytes} {host : HostImage} {s : State} (hs : s.memoriesWf = true) :
    KeepsMemories (execHello cells host s) := by
  unfold execHello
  dsimp only
  refine asked_keepsMemories hs ?_
  split
  · exact State.memoriesWf_ite (State.helloRefuseUntethered_memoriesWf hs) (State.refuse_memoriesWf _ _ _ _ _ _ (State.takeCells_memoriesWf hs))
  · exact State.helloAccept_memoriesWf hs

/-! ### CAPS and TETHER -/

theorem execCaps_keepsMemories {cells : Bytes} {host : HostImage} {s : State} (hs : s.memoriesWf = true) : KeepsMemories (execCaps cells host s) := by
  unfold execCaps
  exact messageEvent_keepsMemories hs fun _ _ hs => State.reply_memoriesWf _ _ _ _ hs

theorem execTether_keepsMemories {cells : Bytes} {host : HostImage} {s : State} (hs : s.memoriesWf = true) :
    KeepsMemories (execTether cells host s) := by
  unfold execTether
  exact messageEvent_keepsMemories hs fun _ _ hs => State.reply_memoriesWf _ _ _ _ (State.memoriesWf_update hs)

theorem execTetherExpiry_keepsMemories {s : State} (hs : s.memoriesWf = true) : KeepsMemories (execTetherExpiry s) := by
  unfold execTetherExpiry
  exact event_keepsMemories hs (State.settled_memoriesWf hs (State.untether_memoriesWf (State.advance_memoriesWf hs)))

/-! ### Rings (R499 to R502, ARB_SET) -/

theorem execRingCreate_keepsMemories {cells : Bytes} {host : HostImage} {s : State} (hs : s.memoriesWf = true) :
    KeepsMemories (execRingCreate cells host s) := by
  unfold execRingCreate
  exact messageEvent_keepsMemories hs fun _ _ hs => State.memoriesWf_ite (State.memoriesWf_ite (State.refuse_memoriesWf _ _ _ _ _ _ hs)
      (State.memoriesWf_ite (State.refuse_memoriesWf _ _ _ _ _ _ hs) (State.reply_memoriesWf _ _ _ _ (State.memoriesWf_update hs))))
      (State.memoriesWf_ite (State.refuse_memoriesWf _ _ _ _ _ _ hs) (State.reply_memoriesWf _ _ _ _ (State.memoriesWf_update hs)))

theorem State.removeSq_memoriesWf {s : State} {n : ℕ} (hs : s.memoriesWf = true) : (s.removeSq n).memoriesWf = true := hs

theorem execRingDelete_keepsMemories {cells : Bytes} {host : HostImage} {s : State} (hs : s.memoriesWf = true) :
    KeepsMemories (execRingDelete cells host s) := by
  unfold execRingDelete
  dsimp only
  refine messageEvent_keepsMemories hs fun s seq hs => ?_
  split
  · split
    · exact State.refuse_memoriesWf _ _ _ _ _ _ hs
    · exact State.memoriesWf_ite (State.refuse_memoriesWf _ _ _ _ _ _ hs) (State.memoriesWf_ite (State.updSq_memoriesWf hs)
          (State.reply_memoriesWf _ _ _ _ (State.removeSq_memoriesWf hs)))
  · exact State.memoriesWf_ite (State.refuse_memoriesWf _ _ _ _ _ _ hs) (State.reply_memoriesWf _ _ _ _ (State.memoriesWf_update hs))

theorem execRingDeleteComplete_keepsMemories {ring : ℕ} {s : State} (hs : s.memoriesWf = true) : KeepsMemories (execRingDeleteComplete ring s) := by
  unfold execRingDeleteComplete
  split
  · exact keepsMemories_next hs
  · exact event_keepsMemories hs (State.replyLater_memoriesWf (State.removeSq_memoriesWf hs))

theorem execArbSet_keepsMemories {cells : Bytes} {host : HostImage} {s : State} (hs : s.memoriesWf = true) :
    KeepsMemories (execArbSet cells host s) := by
  unfold execArbSet
  exact messageEvent_keepsMemories hs fun _ _ hs => State.reply_memoriesWf _ _ _ _ (State.memoriesWf_update hs)

/-! ### LOG_READ (R590) -/

theorem State.release_memoriesWf {s : State} {source n : ℕ} (hs : s.memoriesWf = true) : (s.release source n).memoriesWf = true := by
  unfold State.release
  split
  · exact State.memoriesWf_ite (State.memoriesWf_update hs) (State.memoriesWf_update hs)
  · exact State.memoriesWf_update hs
  · split
    · exact hs
    · exact State.memoriesWf_ite hs (State.memoriesWf_ite (State.memoriesWf_update hs) (State.memoriesWf_update hs))
  · exact hs

theorem execLogRead_keepsMemories {cells : Bytes} {host : HostImage} {s : State} (hs : s.memoriesWf = true) :
    KeepsMemories (execLogRead cells host s) := by
  unfold execLogRead
  exact messageEvent_keepsMemories hs fun _ _ hs => State.reply_memoriesWf _ _ _ _ (State.memoriesWf_ite (State.release_memoriesWf
      (State.memoriesWf_ite hs (State.hostWrite_memoriesWf hs))) (State.memoriesWf_ite hs (State.hostWrite_memoriesWf hs)))

/-! ### Text and the measurement log (R596, R602, R603) -/

theorem State.sealLog_memoriesWf {s : State} (hs : s.memoriesWf = true) : s.sealLog.memoriesWf = true := by
  unfold State.sealLog
  exact State.memoriesWf_ite (State.memoriesWf_update hs) hs

theorem State.appendLog_memoriesWf {s : State} {e : LogEntry} (hs : s.memoriesWf = true) : (s.appendLog e).memoriesWf = true := by
  unfold State.appendLog
  exact State.memoriesWf_ite (State.sealLog_memoriesWf hs) (State.sealLog_memoriesWf (State.memoriesWf_update hs))

theorem State.refuseFull_memoriesWf {s : State} {type seq : ℕ} (hs : s.memoriesWf = true) : (s.refuseFull type seq).memoriesWf = true := by
  unfold State.refuseFull
  exact State.refuse_memoriesWf _ _ _ _ _ _ (State.sealLog_memoriesWf hs)

/-! ### KEY_IMPORT (R607 to R609, R614) -/

theorem execKeyImport_keepsMemories {cells : Bytes} {host : HostImage} {s : State} (hs : s.memoriesWf = true) :
    KeepsMemories (execKeyImport cells host s) := by
  unfold execKeyImport
  dsimp only
  refine messageEvent_keepsMemories hs fun s seq hs => ?_
  split
  · exact State.refuse_memoriesWf _ _ _ _ _ _ hs
  · exact hs
  · exact State.reply_memoriesWf _ _ _ _ (State.updColl_memoriesWf hs)

/-! ### KEY_DESTROY (R612, R613) -/

theorem State.destroyKeys_memoriesWf {s : State} {coll seq : ℕ} {l : List ℕ} (hs : s.memoriesWf = true) :
    (s.destroyKeys coll seq l).memoriesWf = true := by
  unfold State.destroyKeys
  dsimp only
  split
  · exact State.updColl_memoriesWf hs
  · exact State.memoriesWf_ite (State.updColl_memoriesWf (State.updColl_memoriesWf hs)) (State.reply_memoriesWf _ _ _ _ (State.updColl_memoriesWf
        (State.updColl_memoriesWf hs)))

theorem execKeyDestroy_keepsMemories {cells : Bytes} {host : HostImage} {s : State} (hs : s.memoriesWf = true) :
    KeepsMemories (execKeyDestroy cells host s) := by
  unfold execKeyDestroy
  dsimp only
  refine messageEvent_keepsMemories hs fun s seq hs => ?_
  split
  · exact State.refuse_memoriesWf _ _ _ _ _ _ hs
  · exact State.destroyKeys_memoriesWf hs

theorem execKeyDestroyComplete_keepsMemories {coll : ℕ} {s : State} (hs : s.memoriesWf = true) : KeepsMemories (execKeyDestroyComplete coll s) := by
  unfold execKeyDestroyComplete
  split
  · exact keepsMemories_next hs
  · split
    · exact keepsMemories_next hs
    · exact event_keepsMemories hs (State.replyLater_memoriesWf (State.updColl_memoriesWf hs))

/-! ### ATTEST (R599, R604, R605) -/

theorem State.newImport_memoriesWf {s : State} (hs : s.memoriesWf = true) : s.newImport.memoriesWf = true := hs

theorem execAttestQuote_keepsMemories {cells : Bytes} {host : HostImage} {s : State} (hs : s.memoriesWf = true) :
    KeepsMemories (execAttestQuote cells host s) := by
  unfold execAttestQuote
  dsimp only
  refine messageEvent_keepsMemories hs fun s seq hs => ?_
  split
  · exact State.refuse_memoriesWf _ _ _ _ _ _ hs
  · exact State.memoriesWf_ite (State.refuse_memoriesWf _ _ _ _ _ _ hs) (State.reply_memoriesWf _ _ _ _ (State.memoriesWf_ite (State.memoriesWf_ite
        (State.newImport_memoriesWf hs) hs) (State.hostWrite_memoriesWf (State.memoriesWf_ite (State.newImport_memoriesWf hs) hs))))

theorem execAttestCertificateChain_keepsMemories {cells : Bytes} {host : HostImage} {s : State} (hs : s.memoriesWf = true) :
    KeepsMemories (execAttestCertificateChain cells host s) := by
  unfold execAttestCertificateChain
  exact messageEvent_keepsMemories hs fun _ _ hs => State.reply_memoriesWf _ _ _ _ (State.hostWrite_memoriesWf hs)

/-! ### Service sessions (R667, R668) -/

theorem execServiceSessionOpen_keepsMemories {cells : Bytes} {host : HostImage} {s : State} (hs : s.memoriesWf = true) :
    KeepsMemories (execServiceSessionOpen cells host s) := by
  unfold execServiceSessionOpen
  exact messageEvent_keepsMemories hs fun _ _ hs => State.memoriesWf_ite (State.refuse_memoriesWf _ _ _ _ _ _ hs) (State.memoriesWf_ite
      (State.refuseFull_memoriesWf hs) (State.reply_memoriesWf _ _ _ _ (State.memoriesWf_update (State.appendLog_memoriesWf hs))))

theorem execServiceSessionClose_keepsMemories {cells : Bytes} {host : HostImage} {s : State} (hs : s.memoriesWf = true) :
    KeepsMemories (execServiceSessionClose cells host s) := by
  unfold execServiceSessionClose
  exact messageEvent_keepsMemories hs fun _ _ hs => State.reply_memoriesWf _ _ _ _ (State.memoriesWf_update hs)

theorem execServiceSessionExpiry_keepsMemories {s : State} (hs : s.memoriesWf = true) : KeepsMemories (execServiceSessionExpiry s) := by
  unfold execServiceSessionExpiry
  exact event_keepsMemories hs (State.memoriesWf_update hs)

/-! ### Configuration records (R673 to R677) -/

theorem execConfigRecordRead_keepsMemories {cells : Bytes} {host : HostImage} {s : State} (hs : s.memoriesWf = true) :
    KeepsMemories (execConfigRecordRead cells host s) := by
  unfold execConfigRecordRead
  dsimp only
  refine messageEvent_keepsMemories hs fun s seq hs => ?_
  split
  · exact State.refuse_memoriesWf _ _ _ _ _ _ hs
  · exact State.memoriesWf_ite (State.refuse_memoriesWf _ _ _ _ _ _ hs) (State.reply_memoriesWf _ _ _ _ (State.draw_memoriesWf
        (State.hostWrite_memoriesWf hs)))

theorem execConfigRecordWrite_keepsMemories {cells : Bytes} {host : HostImage} {s : State} (hs : s.memoriesWf = true) :
    KeepsMemories (execConfigRecordWrite cells host s) := by
  unfold execConfigRecordWrite
  dsimp only
  refine messageEvent_keepsMemories hs fun s seq hs => ?_
  split
  · exact State.refuse_memoriesWf _ _ _ _ _ _ hs
  · exact State.memoriesWf_ite (State.refuseFull_memoriesWf hs) (State.reply_memoriesWf _ _ _ _ (State.memoriesWf_ite (State.appendLog_memoriesWf
        (State.memoriesWf_update hs)) (State.memoriesWf_update hs)))

/-! ### Admission (R722, R45, R47, R405, R408) -/

theorem State.updMutation_memoriesWf {s : State} {cid : ℕ} {f : Mutation → Mutation} (hs : s.memoriesWf = true) :
    (s.updMutation cid f).memoriesWf = true := hs

/-! ### A mutation's data at its holders (R446) -/

theorem State.sendEffects_memoriesWf {s : State} {cid holder : ℕ} (hs : s.memoriesWf = true) : (s.sendEffects cid holder).memoriesWf = true := by
  unfold State.sendEffects
  split
  · exact hs
  · split
    · exact State.launch_memoriesWf hs
    · exact hs

theorem State.sendData_memoriesWf {s : State} {cid : ℕ} (hs : s.memoriesWf = true) : (s.sendData cid).memoriesWf = true := by
  unfold State.sendData
  split
  · exact hs
  · exact State.updMutation_memoriesWf (State.foldl_memoriesWf (fun _ _ hs => State.sendEffects_memoriesWf hs) _ hs)

theorem State.admitMutation_memoriesWf {s : State} {c : Cmd} {m : Mutation} {coll : Collection} (hs : s.memoriesWf = true) :
    (s.admitMutation c m coll).memoriesWf = true := by
  unfold State.admitMutation
  split
  split
  exact State.memoriesWf_ite (State.memoriesWf_updateStore (State.updCmd_memoriesWf (State.layout_memoriesWf (State.updColl_memoriesWf hs))))
      (State.sendData_memoriesWf (State.memoriesWf_updateStore (State.updCmd_memoriesWf (State.layout_memoriesWf (State.updColl_memoriesWf hs)))))

theorem execMutationAdmission_keepsMemories {cid : ℕ} {s : State} (hs : s.memoriesWf = true) : KeepsMemories (execMutationAdmission cid s) := by
  unfold execMutationAdmission
  split
  · exact keepsMemories_next hs
  · split
    · exact event_keepsMemories hs (State.memoriesWf_ite (State.complete_memoriesWf _ _ _ hs) (State.admitMutation_memoriesWf hs))
    · exact keepsMemories_next hs

/-! ### The commit (R44 to R50, R178, R184, R709) -/

theorem State.noteEligible_memoriesWf {s : State} {id : ℕ} (hs : s.memoriesWf = true) : (s.noteEligible id).memoriesWf = true := hs

theorem State.noSequence_memoriesWf {s : State} {c : Cmd} {m : Mutation} (hs : s.memoriesWf = true) : (s.noSequence c m).memoriesWf = true := by
  unfold State.noSequence
  exact State.complete_memoriesWf _ _ _ (State.memoriesWf_updateStore (State.dropUncommitted_memoriesWf hs))

theorem State.commitMutation_memoriesWf {s : State} {c : Cmd} {m : Mutation} {coll : Collection} (hs : s.memoriesWf = true) :
    (s.commitMutation c m coll).memoriesWf = true := by
  unfold State.commitMutation
  split
  exact State.memoriesWf_ite (State.memoriesWf_update (State.announce_memoriesWf (State.memoriesWf_ite (State.memoriesWf_update
      (State.noteEligible_memoriesWf (State.updMutation_memoriesWf (State.layout_memoriesWf (State.updColl_memoriesWf hs)))))
      (State.noteEligible_memoriesWf (State.updMutation_memoriesWf (State.layout_memoriesWf (State.updColl_memoriesWf hs)))))))
      (State.complete_memoriesWf _ _ _ (State.memoriesWf_ite (State.memoriesWf_update (State.noteEligible_memoriesWf (State.updMutation_memoriesWf
      (State.layout_memoriesWf (State.updColl_memoriesWf hs))))) (State.noteEligible_memoriesWf (State.updMutation_memoriesWf
      (State.layout_memoriesWf (State.updColl_memoriesWf hs))))))

theorem State.tryCommit_memoriesWf {s : State} {cid : ℕ} (hs : s.memoriesWf = true) : (s.tryCommit cid).memoriesWf = true := by
  unfold State.tryCommit
  split
  · exact hs
  · split
    · exact State.memoriesWf_ite (State.memoriesWf_ite (State.noSequence_memoriesWf hs) (State.commitMutation_memoriesWf hs)) hs
    · exact hs

theorem State.redo_memoriesWf {s : State} {c : Cmd} {m : Mutation} {coll : Collection} (hs : s.memoriesWf = true) :
    (s.redo c m coll).memoriesWf = true := by
  unfold State.redo
  split
  · exact hs
  · split
    exact State.updMutation_memoriesWf (State.layout_memoriesWf (State.updColl_memoriesWf hs))

theorem State.issueLast_memoriesWf {s : State} {cid : ℕ} (hs : s.memoriesWf = true) : (s.issueLast cid).memoriesWf = true := by
  unfold State.issueLast
  split
  · exact hs
  · split
    · exact hs
    · exact State.memoriesWf_updateStore (State.updMutation_memoriesWf hs)

theorem execLastPartIssue_keepsMemories {cid : ℕ} {s : State} (hs : s.memoriesWf = true) : KeepsMemories (execLastPartIssue cid s) := by
  unfold execLastPartIssue
  split
  · exact keepsMemories_next hs
  · split
    · exact event_keepsMemories hs (State.memoriesWf_ite (State.noSequence_memoriesWf hs) (State.memoriesWf_ite (State.memoriesWf_ite
          (State.redo_memoriesWf hs) (State.sendData_memoriesWf (State.redo_memoriesWf hs))) (State.issueLast_memoriesWf (State.memoriesWf_ite
          (State.redo_memoriesWf hs) (State.sendData_memoriesWf (State.redo_memoriesWf hs))))))
    · exact keepsMemories_next hs

theorem execJournalPartOnMedium_keepsMemories {mutation part : ℕ} {s : State} (hs : s.memoriesWf = true) :
    KeepsMemories (execJournalPartOnMedium mutation part s) := by
  unfold execJournalPartOnMedium
  split
  · exact keepsMemories_next hs
  · split
    · exact keepsMemories_next hs
    · exact event_keepsMemories hs (State.tryCommit_memoriesWf (State.updMutation_memoriesWf (State.memoriesWf_updateStore hs)))

theorem execHolderWriteDone_keepsMemories {cid holder : ℕ} {s : State} (hs : s.memoriesWf = true) :
    KeepsMemories (execHolderWriteDone cid holder s) := by
  unfold execHolderWriteDone
  split
  · exact keepsMemories_next hs
  · split
    · exact keepsMemories_next hs
    · exact event_keepsMemories hs (State.tryCommit_memoriesWf (State.updMutation_memoriesWf hs))

theorem execGroupCommitCompletion_keepsMemories {cid : ℕ} {s : State} (hs : s.memoriesWf = true) :
    KeepsMemories (execGroupCommitCompletion cid s) := by
  unfold execGroupCommitCompletion
  split
  · exact keepsMemories_next hs
  · split
    · exact keepsMemories_next hs
    · split
      · exact keepsMemories_next hs
      · exact event_keepsMemories hs (State.complete_memoriesWf _ _ _ hs)

/-! ### At a holder (R445 to R449) -/

theorem State.onCommit_memoriesWf {s : State} {coll seq : ℕ} (hs : s.memoriesWf = true) : (s.onCommit coll seq).memoriesWf = true := by
  unfold State.onCommit
  dsimp only
  split
  · exact State.memoriesWf_update hs
  · exact State.memoriesWf_ite (State.memoriesWf_update hs) (State.noteEligible_memoriesWf (State.layout_memoriesWf (State.updColl_memoriesWf
        (State.memoriesWf_update hs))))

theorem State.sendRecord_memoriesWf {s : State} {coll : ℕ} (hs : s.memoriesWf = true) : (s.sendRecord coll).memoriesWf = true := by
  unfold State.sendRecord
  split
  · exact hs
  · exact State.memoriesWf_ite hs (State.foldl_memoriesWf (fun _ _ hs => State.launch_memoriesWf hs) _ hs)

theorem State.sendCopy_memoriesWf {s : State} {m : MoveOp} (hs : s.memoriesWf = true) : (s.sendCopy m).memoriesWf = true := by
  unfold State.sendCopy
  split
  · exact hs
  · exact State.launch_memoriesWf hs

theorem State.sendToBoth_memoriesWf {s : State} {m : MoveOp} (hs : s.memoriesWf = true) : (s.sendToBoth m).memoriesWf = true := by
  unfold State.sendToBoth
  refine State.foldl_memoriesWf (fun s x hs => ?_) _ hs
  dsimp only
  split
  · exact State.memoriesWf_ite (State.memoriesWf_ite (State.sendEffects_memoriesWf hs) (State.updMutation_memoriesWf
        (State.sendEffects_memoriesWf hs))) hs
  · exact hs

theorem State.openEpoch_memoriesWf {s : State} {coll part epoch dest : ℕ} {msg : Option ℕ} (hs : s.memoriesWf = true) :
    (s.openEpoch coll part epoch dest msg).memoriesWf = true := by
  unfold State.openEpoch
  exact State.announce_memoriesWf (State.memoriesWf_update hs)

theorem State.takeIndex_memoriesWf {s : State} {src kind : ℕ} {gone : List ℕ} {w : Collection} (hs : s.memoriesWf = true) :
    (s.takeIndex src kind gone w).memoriesWf = true := by
  unfold State.takeIndex
  dsimp only
  split
  · exact State.memoriesWf_ite (State.layout_memoriesWf (State.memoriesWf_update hs)) hs
  · exact State.memoriesWf_ite (State.layout_memoriesWf (State.updColl_memoriesWf hs)) hs
  · exact State.memoriesWf_ite (State.layout_memoriesWf (State.updColl_memoriesWf hs)) hs
  · split
    · exact hs
    · exact State.memoriesWf_ite (State.layout_memoriesWf (State.memoriesWf_update hs)) (State.layout_memoriesWf (State.updColl_memoriesWf
          (State.memoriesWf_update hs)))
  · split
    · exact State.memoriesWf_ite (State.openEpoch_memoriesWf hs) hs
    · exact hs
  · exact hs

/-! ### COLLECTION_CREATE (R31, R588) -/

theorem execCollectionCreate_keepsMemories {cells : Bytes} {host : HostImage} {s : State} (hs : s.memoriesWf = true) :
    KeepsMemories (execCollectionCreate cells host s) := by
  unfold execCollectionCreate
  exact messageEvent_keepsMemories hs fun _ _ hs => State.memoriesWf_ite (State.refuse_memoriesWf _ _ _ _ _ _ hs) (State.memoriesWf_ite
      (State.refuse_memoriesWf _ _ _ _ _ _ hs) (State.memoriesWf_ite (State.reply_memoriesWf _ _ _ _ (State.sendRecord_memoriesWf
      (State.layout_memoriesWf (State.memoriesWf_update hs)))) (State.refuse_memoriesWf _ _ _ _ _ _ hs)))

/-! ### COLLECTION_DROP (R64, R65, R714, R720) -/

theorem State.beginDrop_memoriesWf {s : State} {id : ℕ} {msg : Option ℕ} (hs : s.memoriesWf = true) : (s.beginDrop id msg).memoriesWf = true := by
  unfold State.beginDrop
  exact State.endAll_memoriesWf (State.updColl_memoriesWf hs)

theorem execCollectionDrop_keepsMemories {cells : Bytes} {host : HostImage} {s : State} (hs : s.memoriesWf = true) :
    KeepsMemories (execCollectionDrop cells host s) := by
  unfold execCollectionDrop
  dsimp only
  refine messageEvent_keepsMemories hs fun s seq hs => ?_
  split
  · exact State.refuse_memoriesWf _ _ _ _ _ _ hs
  · exact State.memoriesWf_ite (State.refuse_memoriesWf _ _ _ _ _ _ hs) (State.beginDrop_memoriesWf hs)

/-- A list of byte strings written at their places is canonical from the empty list on. -/
theorem Mem.wf_foldl_write {l : List ℕ} {place : ℕ → ℕ} {data : ℕ → Bytes} {m : List Host.Cell} (hm : Mem.wf m = true) : Mem.wf (l.foldl
    (fun m k => Mem.write m (place k) (data k)) m) = true := by
  induction l generalizing m with
  | nil => exact hm
  | cons k l ih => exact ih (Mem.wf_write m _ _ hm)

theorem State.writeFormat_memoriesWf {s : State} {erase : Bool} {format index : ℕ} (hs : s.memoriesWf = true) :
    (s.writeFormat erase format index).memoriesWf = true := by
  obtain ⟨hhost, hhbm, ht2, -⟩ := (State.memoriesWf_iff s).1 hs
  exact State.replyLater_memoriesWf (State.draw_memoriesWf ((State.memoriesWf_iff _).2 ⟨hhost, hhbm, ht2, Mem.wf_foldl_write rfl⟩))

theorem State.finishFormat_memoriesWf {s : State} (hs : s.memoriesWf = true) : s.finishFormat.memoriesWf = true := by
  unfold State.finishFormat
  split
  · exact State.memoriesWf_ite (State.writeFormat_memoriesWf hs) hs
  · exact hs

theorem execCollectionDropComplete_keepsMemories {coll : ℕ} {s : State} (hs : s.memoriesWf = true) :
    KeepsMemories (execCollectionDropComplete coll s) := by
  unfold execCollectionDropComplete
  split
  · exact keepsMemories_next hs
  · exact event_keepsMemories hs (State.finishFormat_memoriesWf (State.replyLater_memoriesWf (State.foldl_memoriesWf
        (fun _ _ hs => State.refuseLater_memoriesWf hs) _ (State.foldl_memoriesWf (fun _ _ hs => State.replyLater_memoriesWf hs) _
        (State.freeRegions_memoriesWf (State.memoriesWf_updateStore hs))))))

/-! ### COLLECTION_STATE (R713, R408) -/

theorem execCollectionState_keepsMemories {cells : Bytes} {host : HostImage} {s : State} (hs : s.memoriesWf = true) :
    KeepsMemories (execCollectionState cells host s) := by
  unfold execCollectionState
  dsimp only
  refine messageEvent_keepsMemories hs fun s seq hs => ?_
  split
  · exact State.refuse_memoriesWf _ _ _ _ _ _ hs
  · exact State.reply_memoriesWf _ _ _ _ (State.draw_memoriesWf hs)

theorem execRouteGraphCopyBackDone_keepsMemories {coll : ℕ} {s : State} (hs : s.memoriesWf = true) :
    KeepsMemories (execRouteGraphCopyBackDone coll s) := by
  unfold execRouteGraphCopyBackDone
  split
  · exact keepsMemories_next hs
  · exact event_keepsMemories hs (State.updColl_memoriesWf (State.memoriesWf_updateMem hs))

/-! ### Lane jobs (R134 to R136, R148, R149) -/

theorem State.queueJob_memoriesWf {s : State} {c : Collection} {g : Generation} {q : QueryWork} {m : Member} {n part pass : ℕ} (hs : s.memoriesWf = true) :
    (s.queueJob c g q m n part pass).1.memoriesWf = true := by
  unfold State.queueJob
  dsimp only
  split
  · exact State.memoriesWf_update hs
  · exact State.memoriesWf_update hs

/-! ### The order of a lane's passes, and table memory (R83, R135, R137, R138, R151) -/

theorem State.fillPass_memoriesWf {s : State} {i : ℕ} (hs : s.memoriesWf = true) : (s.fillPass i).memoriesWf = true := by
  unfold State.fillPass
  split
  · exact hs
  · exact State.memoriesWf_update hs

theorem State.fillAhead_memoriesWf {s : State} {lane running : ℕ} (hs : s.memoriesWf = true) : (s.fillAhead lane running).memoriesWf = true := by
  unfold State.fillAhead
  split
  · exact hs
  · split
    · exact State.memoriesWf_ite (State.fillPass_memoriesWf hs) hs
    · exact hs

theorem State.startPass_memoriesWf {s : State} {lane i : ℕ} (hs : s.memoriesWf = true) : (s.startPass lane i).memoriesWf = true := by
  unfold State.startPass
  exact State.fillAhead_memoriesWf (State.memoriesWf_update (State.memoriesWf_ite hs (State.fillPass_memoriesWf hs)))

/-! ### Queries by number: commands of this module's host, and requests that it serves as holder -/

theorem State.updWork_memoriesWf {s : State} {n : ℕ} {f : QueryWork → QueryWork} (hs : s.memoriesWf = true) : (s.updWork n f).memoriesWf = true := hs

theorem State.updMember_memoriesWf {s : State} {n i : ℕ} {f : Member → Member} (hs : s.memoriesWf = true) :
    (s.updMember n i f).memoriesWf = true := hs

/-! ### The end of a member or of a request -/

theorem State.dropMember_memoriesWf {s : State} {n i : ℕ} (hs : s.memoriesWf = true) : (s.dropMember n i).memoriesWf = true := by
  unfold State.dropMember
  exact State.foldl_memoriesWf (fun _ _ hs => (State.removeRun_memoriesWf (State.finishMoves_memoriesWf hs))) _ (State.memoriesWf_update hs)

theorem State.finishBatch_memoriesWf {s : State} {n : ℕ} (hs : s.memoriesWf = true) : (s.finishBatch n).memoriesWf = true := by
  unfold State.finishBatch
  split
  · exact State.memoriesWf_ite (State.complete_memoriesWf _ _ _ hs) hs
  · exact hs

theorem State.answer_memoriesWf {s : State} {n : ℕ} {load : Load} (hs : s.memoriesWf = true) : (s.answer n load).memoriesWf = true := by
  unfold State.answer
  split
  · exact hs
  · exact State.launch_memoriesWf (State.memoriesWf_update (State.dropMember_memoriesWf hs))

theorem State.endMember_memoriesWf {s : State} {n i status : ℕ} {instr : optParam ℕ noItem} (hs : s.memoriesWf = true) :
    (s.endMember n i status instr).memoriesWf = true := by
  unfold State.endMember
  split
  · exact State.answer_memoriesWf hs
  · exact State.memoriesWf_ite (State.finishBatch_memoriesWf (State.updMember_memoriesWf (State.dropMember_memoriesWf hs)))
        (State.complete_memoriesWf _ _ _ (State.dropWork_memoriesWf hs))

/-! ### Waiting (R279 to R282) -/

theorem State.announceBar_memoriesWf {s : State} {rid : ℕ} (hs : s.memoriesWf = true) : (s.announceBar rid).memoriesWf = true := by
  unfold State.announceBar
  split
  · exact hs
  · exact State.memoriesWf_ite (State.announce_memoriesWf (State.updRun_memoriesWf hs)) hs

/-! ### Ending a run (R304 to R306, R317, R320, R321) -/

theorem State.stopRun_memoriesWf {s : State} {r : Run} (hs : s.memoriesWf = true) : (s.stopRun r).memoriesWf = true := by
  unfold State.stopRun
  dsimp only
  split
  · exact State.complete_memoriesWf _ _ _ (State.writeT1_memoriesWf _ _ _ (State.removeRun_memoriesWf hs))
  · exact State.complete_memoriesWf _ _ _ (State.dropRuns_memoriesWf (State.dropUncommitted_memoriesWf (State.removeRun_memoriesWf hs)))
  · exact State.memoriesWf_ite (State.endMember_memoriesWf (State.removeRun_memoriesWf hs)) (State.endMember_memoriesWf (State.raise_memoriesWf
        (State.removeRun_memoriesWf hs)))

theorem State.settleRun_memoriesWf {s : State} {rid : ℕ} (hs : s.memoriesWf = true) : (s.settleRun rid).memoriesWf = true := by
  unfold State.settleRun
  split
  · exact hs
  · exact State.memoriesWf_ite (State.stopRun_memoriesWf hs) hs

theorem State.poisonRecord_memoriesWf {s : State} {cid word : ℕ} (hs : s.memoriesWf = true) : (s.poisonRecord cid word).memoriesWf = true := by
  unfold State.poisonRecord
  exact State.record_memoriesWf _ _ hs

theorem State.wordRecord_memoriesWf {s : State} {r : Run} {word : ℕ} (hs : s.memoriesWf = true) : (s.wordRecord r word).memoriesWf = true := by
  unfold State.wordRecord
  exact State.poisonRecord_memoriesWf hs

theorem State.scanUnreadable_memoriesWf {s : State} {rid tid a n : ℕ} (hs : s.memoriesWf = true) :
    (s.scanUnreadable rid tid a n).memoriesWf = true := by
  unfold State.scanUnreadable
  split
  · exact hs
  · exact State.settleRun_memoriesWf (State.updRun_memoriesWf (State.memoriesWf_elim _ hs fun _ => State.wordRecord_memoriesWf hs))

theorem State.faultRun_memoriesWf {s : State} {rid code pc v : ℕ} (hs : s.memoriesWf = true) : (s.faultRun rid code pc v).memoriesWf = true := by
  unfold State.faultRun
  exact State.settleRun_memoriesWf (State.updRun_memoriesWf hs)

/-! ### Issue (R268) -/

theorem isaEvent_keepsMemories {s : State} {run v op : ℕ} {sub : Option ℕ} {issue : Run → Program → VCore → BitVec 64 → Issue} (hs : s.memoriesWf = true) :
    KeepsMemories (isaEvent s run v op sub issue) := by
  unfold isaEvent
  split
  · exact keepsMemories_next hs
  · refine event_keepsMemories hs ?_
    split
    · exact State.settled_memoriesWf hs (State.faultRun_memoriesWf hs)
    · exact State.updRun_memoriesWf hs

theorem waitEvent_keepsMemories {s : State} {run v op : ℕ} {mark : BitVec 64 → VCore → VCore} (hs : s.memoriesWf = true) :
    KeepsMemories (waitEvent s run v op mark) := by
  unfold waitEvent
  split
  · exact keepsMemories_next hs
  · exact event_keepsMemories hs (State.announceBar_memoriesWf (State.updRun_memoriesWf hs))

theorem execNopInstruction_keepsMemories {run core : ℕ} {s : State} (hs : s.memoriesWf = true) : KeepsMemories (execNopInstruction run core s) := by
  unfold execNopInstruction
  exact isaEvent_keepsMemories hs

theorem execSets_keepsMemories {run core : ℕ} {s : State} (hs : s.memoriesWf = true) : KeepsMemories (execSets run core s) := by
  unfold execSets
  exact isaEvent_keepsMemories hs

theorem execAdds_keepsMemories {run core : ℕ} {s : State} (hs : s.memoriesWf = true) : KeepsMemories (execAdds run core s) := by
  unfold execAdds
  exact isaEvent_keepsMemories hs

theorem execMuls_keepsMemories {run core : ℕ} {s : State} (hs : s.memoriesWf = true) : KeepsMemories (execMuls run core s) := by
  unfold execMuls
  exact isaEvent_keepsMemories hs

theorem execSetb_keepsMemories {run core : ℕ} {s : State} (hs : s.memoriesWf = true) : KeepsMemories (execSetb run core s) := by
  unfold execSetb
  exact isaEvent_keepsMemories hs

theorem execLoop_keepsMemories {run core : ℕ} {s : State} (hs : s.memoriesWf = true) : KeepsMemories (execLoop run core s) := by
  unfold execLoop
  exact isaEvent_keepsMemories hs

theorem execBar_keepsMemories {run core : ℕ} {s : State} (hs : s.memoriesWf = true) : KeepsMemories (execBar run core s) := by
  unfold execBar
  exact waitEvent_keepsMemories hs

theorem execWaitr_keepsMemories {run core : ℕ} {s : State} (hs : s.memoriesWf = true) : KeepsMemories (execWaitr run core s) := by
  unfold execWaitr
  exact waitEvent_keepsMemories hs

theorem execWaitm_keepsMemories {run core : ℕ} {s : State} (hs : s.memoriesWf = true) : KeepsMemories (execWaitm run core s) := by
  unfold execWaitm
  exact waitEvent_keepsMemories hs

theorem execEndCore_keepsMemories {run core : ℕ} {s : State} (hs : s.memoriesWf = true) : KeepsMemories (execEndCore run core s) := by
  unfold execEndCore
  split
  · exact keepsMemories_next hs
  · exact event_keepsMemories hs (State.announceBar_memoriesWf (State.updRun_memoriesWf hs))

theorem execMoveInstruction_keepsMemories {run core : ℕ} {s : State} (hs : s.memoriesWf = true) : KeepsMemories (execMoveInstruction run core s) := by
  unfold execMoveInstruction
  exact keepsMemories_ite (keepsMemories_next hs) (isaEvent_keepsMemories hs)

theorem execScan_keepsMemories {run core : ℕ} {s : State} (hs : s.memoriesWf = true) : KeepsMemories (execScan run core s) := by
  unfold execScan
  split
  · exact keepsMemories_next hs
  · dsimp only
    refine event_keepsMemories hs ?_
    split
    · exact State.settled_memoriesWf hs (State.faultRun_memoriesWf hs)
    · exact State.memoriesWf_ite (State.settled_memoriesWf hs (State.scanUnreadable_memoriesWf (State.updRun_memoriesWf hs)))
          (State.memoriesWf_update (State.updRun_memoriesWf hs))

theorem execTclr_keepsMemories {run core : ℕ} {s : State} (hs : s.memoriesWf = true) : KeepsMemories (execTclr run core s) := by
  unfold execTclr
  exact isaEvent_keepsMemories hs

theorem execTadd_keepsMemories {run core : ℕ} {s : State} (hs : s.memoriesWf = true) : KeepsMemories (execTadd run core s) := by
  unfold execTadd
  exact isaEvent_keepsMemories hs

theorem execTsave_keepsMemories {run core : ℕ} {s : State} (hs : s.memoriesWf = true) : KeepsMemories (execTsave run core s) := by
  unfold execTsave
  exact isaEvent_keepsMemories hs

theorem execTload_keepsMemories {run core : ℕ} {s : State} (hs : s.memoriesWf = true) : KeepsMemories (execTload run core s) := by
  unfold execTload
  exact isaEvent_keepsMemories hs

theorem execMma_keepsMemories {run core : ℕ} {s : State} (hs : s.memoriesWf = true) : KeepsMemories (execMma run core s) := by
  unfold execMma
  exact isaEvent_keepsMemories hs

theorem execVop_keepsMemories {run core : ℕ} {s : State} (hs : s.memoriesWf = true) : KeepsMemories (execVop run core s) := by
  unfold execVop
  exact isaEvent_keepsMemories hs

theorem execOutInstruction_keepsMemories {run core : ℕ} {s : State} (hs : s.memoriesWf = true) : KeepsMemories (execOutInstruction run core s) := by
  unfold execOutInstruction
  exact isaEvent_keepsMemories hs

theorem execAccm_keepsMemories {run core : ℕ} {s : State} (hs : s.memoriesWf = true) : KeepsMemories (execAccm run core s) := by
  unfold execAccm
  exact isaEvent_keepsMemories hs

theorem execSelInit_keepsMemories {run core : ℕ} {s : State} (hs : s.memoriesWf = true) : KeepsMemories (execSelInit run core s) := by
  unfold execSelInit
  exact isaEvent_keepsMemories hs

theorem execSelFeed_keepsMemories {run core : ℕ} {s : State} (hs : s.memoriesWf = true) : KeepsMemories (execSelFeed run core s) := by
  unfold execSelFeed
  exact isaEvent_keepsMemories hs

theorem execSelRead_keepsMemories {run core : ℕ} {s : State} (hs : s.memoriesWf = true) : KeepsMemories (execSelRead run core s) := by
  unfold execSelRead
  exact isaEvent_keepsMemories hs

/-! ### Proposals (R346 to R349) -/

theorem State.propose_memoriesWf {s : State} {msg : Option ℕ} (hs : s.memoriesWf = true) : (s.propose msg).memoriesWf = true := by
  unfold State.propose
  split
  · exact hs
  · exact State.memoriesWf_ite (State.line_memoriesWf (State.memoriesWf_update hs)) (State.memoriesWf_update hs)

theorem State.abortSwitch_memoriesWf {s : State} (hs : s.memoriesWf = true) : s.abortSwitch.memoriesWf = true := by
  unfold State.abortSwitch
  exact State.refuseLater_memoriesWf (State.memoriesWf_update hs)

theorem State.onPropose_memoriesWf {s : State} {m : Bytes} (hs : s.memoriesWf = true) : (s.onPropose m).memoriesWf = true := by
  unfold State.onPropose
  exact State.memoriesWf_ite (State.line_memoriesWf (State.memoriesWf_update hs)) (State.line_memoriesWf (State.memoriesWf_update
      (State.draw_memoriesWf hs)))

theorem State.onAnswer_memoriesWf {s : State} {m : Bytes} {accept : Bool} (hs : s.memoriesWf = true) : (s.onAnswer m accept).memoriesWf = true := by
  unfold State.onAnswer
  exact State.memoriesWf_ite (State.memoriesWf_ite (State.memoriesWf_update hs) (State.memoriesWf_update hs)) hs

theorem State.onAbort_memoriesWf {s : State} {m : Bytes} (hs : s.memoriesWf = true) : (s.onAbort m).memoriesWf = true := by
  unfold State.onAbort
  exact State.memoriesWf_ite (State.abortSwitch_memoriesWf (State.memoriesWf_ite (State.memoriesWf_update hs) hs)) (State.memoriesWf_ite
      (State.memoriesWf_update hs) hs)

theorem execSwitchAbortDeadline_keepsMemories {s : State} (hs : s.memoriesWf = true) : KeepsMemories (execSwitchAbortDeadline s) := by
  unfold execSwitchAbortDeadline
  exact event_keepsMemories hs (State.abortSwitch_memoriesWf (State.line_memoriesWf hs))

/-! ### TIMETABLE_LOAD (R326, R353, R589) -/

theorem loadEvent_keepsMemories {s : State} {cells : Bytes} {host : HostImage} {propose : Bool} {after : State → ℕ → Timetable → State}
    (hs : s.memoriesWf = true) (hafter : ∀ t seq image, t.memoriesWf = true → (after t seq image).memoriesWf = true) : KeepsMemories
    (loadEvent s cells host propose after) := by
  refine messageEvent_keepsMemories hs fun t seq ht => ?_
  have refused {a b c d e : ℕ} : (t.refuse a b c d e).memoriesWf = true := State.refuse_memoriesWf _ _ _ _ _ _ ht
  exact State.memoriesWf_ite refused (State.memoriesWf_ite refused (State.memoriesWf_ite refused
    (hafter _ _ _ (State.memoriesWf_update ht))))

theorem execTimetableLoadStage_keepsMemories {cells : Bytes} {host : HostImage} {s : State} (hs : s.memoriesWf = true) :
    KeepsMemories (execTimetableLoadStage cells host s) := by
  unfold execTimetableLoadStage
  exact loadEvent_keepsMemories hs fun _ _ _ hs => State.reply_memoriesWf _ _ _ _ hs

theorem execTimetableLoadPropose_keepsMemories {cells : Bytes} {host : HostImage} {s : State} (hs : s.memoriesWf = true) :
    KeepsMemories (execTimetableLoadPropose cells host s) := by
  unfold execTimetableLoadPropose
  exact loadEvent_keepsMemories hs fun _ _ _ hs => State.propose_memoriesWf hs

/-! ### The switch round (R334, R349, R352, R353, R442) -/

theorem State.dropFromWindows_memoriesWf {s : State} {cluster : ℕ} (hs : s.memoriesWf = true) : (s.dropFromWindows cluster).memoriesWf = true := hs

theorem State.switchNow_memoriesWf {s : State} (hs : s.memoriesWf = true) : s.switchNow.memoriesWf = true := by
  unfold State.switchNow
  split
  · exact hs
  · exact State.replyLater_memoriesWf (State.memoriesWf_update hs)

theorem State.joinNow_memoriesWf {s : State} {seq : ℕ} (hs : s.memoriesWf = true) : (s.joinNow seq).memoriesWf = true := by
  unfold State.joinNow
  exact State.replyLater_memoriesWf (State.memoriesWf_update (State.memoriesWf_ite (State.switchNow_memoriesWf (State.memoriesWf_ite hs
      (State.memoriesWf_update hs))) (State.memoriesWf_update (State.switchNow_memoriesWf (State.memoriesWf_ite hs (State.memoriesWf_update hs))))))

theorem State.switchRound_memoriesWf {s : State} (hs : s.memoriesWf = true) : s.switchRound.memoriesWf = true := by
  unfold State.switchRound
  split
  · exact State.joinNow_memoriesWf hs
  · exact State.memoriesWf_ite (State.memoriesWf_update (State.leaveGroup_memoriesWf (State.switchNow_memoriesWf hs))) (State.memoriesWf_ite
        (State.memoriesWf_update (State.switchNow_memoriesWf hs)) (State.switchNow_memoriesWf hs))
  · exact hs

/-! ### Routes (R428, R433, R453, R454) -/

theorem State.cutLoans_memoriesWf {s : State} (hs : s.memoriesWf = true) : s.cutLoans.memoriesWf = true := by
  unfold State.cutLoans
  exact State.closeLoans_memoriesWf hs

theorem State.forgetLists_memoriesWf {s : State} (hs : s.memoriesWf = true) : s.forgetLists.memoriesWf = true := hs

theorem State.cutQueries_memoriesWf {s : State} (hs : s.memoriesWf = true) : s.cutQueries.memoriesWf = true := by
  unfold State.cutQueries
  exact State.endAll_memoriesWf (State.forgetLists_memoriesWf hs)

/-! ### Port states (R420 to R423, R453, R455) -/

theorem State.updPort_memoriesWf {s : State} {p : ℕ} {f : Port → Port} (hs : s.memoriesWf = true) : (s.updPort p f).memoriesWf = true := hs

theorem State.portFault_memoriesWf {s : State} {kind unit : ℕ} (hs : s.memoriesWf = true) : (s.portFault kind unit).memoriesWf = true := by
  unfold State.portFault
  exact State.record_memoriesWf _ _ hs

theorem State.train_memoriesWf {s : State} {p : ℕ} (hs : s.memoriesWf = true) : (s.train p).memoriesWf = true := hs

theorem State.portDown_memoriesWf {s : State} {p : ℕ} (hs : s.memoriesWf = true) : (s.portDown p).memoriesWf = true := by
  unfold State.portDown
  exact State.memoriesWf_ite (State.cutLoans_memoriesWf (State.memoriesWf_update (State.announce_memoriesWf (State.updPort_memoriesWf hs))))
      (State.updPort_memoriesWf hs)

theorem State.tryForm_memoriesWf {s : State} (hs : s.memoriesWf = true) : s.tryForm.memoriesWf = true := by
  unfold State.tryForm
  exact State.memoriesWf_ite (State.propose_memoriesWf hs) hs

theorem State.onMeasured_memoriesWf {s : State} {p : ℕ} (hs : s.memoriesWf = true) : (s.onMeasured p).memoriesWf = true := by
  unfold State.onMeasured
  exact State.memoriesWf_ite (State.memoriesWf_update (State.updPort_memoriesWf (State.announce_memoriesWf hs))) (State.memoriesWf_ite
      (State.memoriesWf_ite (State.tryForm_memoriesWf hs) (State.memoriesWf_update hs)) hs)

theorem State.tryMeasure_memoriesWf {s : State} {p : ℕ} (hs : s.memoriesWf = true) : (s.tryMeasure p).memoriesWf = true := by
  unfold State.tryMeasure
  dsimp only
  split
  · exact hs
  · exact State.memoriesWf_ite hs (State.memoriesWf_ite (State.portFault_memoriesWf (State.updPort_memoriesWf hs)) (State.memoriesWf_ite
        (State.onMeasured_memoriesWf (State.updPort_memoriesWf hs)) hs))

theorem State.sendHello_memoriesWf {s : State} {p : ℕ} (hs : s.memoriesWf = true) : (s.sendHello p).memoriesWf = true := hs

theorem execBlockLock_keepsMemories {port : ℕ} {s : State} (hs : s.memoriesWf = true) : KeepsMemories (execBlockLock port s) := by
  unfold execBlockLock
  exact event_keepsMemories hs (State.sendHello_memoriesWf (State.updPort_memoriesWf hs))

theorem execTrainingTimeout_keepsMemories {port : ℕ} {s : State} (hs : s.memoriesWf = true) : KeepsMemories (execTrainingTimeout port s) := by
  unfold execTrainingTimeout
  exact event_keepsMemories hs (State.updPort_memoriesWf hs)

theorem execTrainingRetry_keepsMemories {port : ℕ} {s : State} (hs : s.memoriesWf = true) : KeepsMemories (execTrainingRetry port s) := by
  unfold execTrainingRetry
  exact event_keepsMemories hs (State.train_memoriesWf hs)

theorem execBlockLockLoss_keepsMemories {port : ℕ} {s : State} (hs : s.memoriesWf = true) : KeepsMemories (execBlockLockLoss port s) := by
  unfold execBlockLockLoss
  exact event_keepsMemories hs (State.train_memoriesWf (State.portDown_memoriesWf hs))

theorem execLostBlock_keepsMemories {port blockSeq : ℕ} {block : Option Bytes} {flits : List Flit} {s : State} (hs : s.memoriesWf = true) :
    KeepsMemories (execLostBlock port blockSeq block flits s) := by
  unfold execLostBlock
  exact event_keepsMemories hs (State.memoriesWf_update (State.updPort_memoriesWf hs))

theorem execLinkHello_keepsMemories {port group farModule farPort : ℕ} {s : State} (hs : s.memoriesWf = true) :
    KeepsMemories (execLinkHello port group farModule farPort s) := by
  unfold execLinkHello
  exact event_keepsMemories hs (State.settled_memoriesWf hs (State.memoriesWf_ite (State.tryMeasure_memoriesWf (State.updPort_memoriesWf hs))
      (State.portFault_memoriesWf (State.updPort_memoriesWf hs))))

theorem State.correct_memoriesWf {s : State} {port tx arrival : ℕ} (hs : s.memoriesWf = true) : (s.correct port tx arrival).memoriesWf = true := by
  unfold State.correct
  exact State.memoriesWf_ite (State.memoriesWf_update hs) hs

theorem execTimeSync_keepsMemories {port txTime rxTime arrival : ℕ} {s : State} (hs : s.memoriesWf = true) :
    KeepsMemories (execTimeSync port txTime rxTime arrival s) := by
  unfold execTimeSync
  exact event_keepsMemories hs (State.settled_memoriesWf hs (State.correct_memoriesWf (State.tryMeasure_memoriesWf (State.updPort_memoriesWf hs))))

/-! ### Losing modules and the leader (R388, R452, R454, R456, R457) -/

theorem State.dropCopy_memoriesWf {s : State} {coll part : ℕ} (hs : s.memoriesWf = true) : (s.dropCopy coll part).memoriesWf = true := by
  unfold State.dropCopy
  exact State.layout_memoriesWf (State.updColl_memoriesWf hs)

theorem State.abandonMove_memoriesWf {s0 : State} {m : MoveOp} (hss0 : s0.memoriesWf = true) : (State.abandonMove s0 m).memoriesWf = true := by
  unfold State.abandonMove
  exact State.refuseLater_memoriesWf (State.memoriesWf_update (State.updColl_memoriesWf (State.memoriesWf_ite (State.dropCopy_memoriesWf hss0) hss0)))

theorem State.closeEpoch_memoriesWf {s : State} {m : MoveOp} (hs : s.memoriesWf = true) : (s.closeEpoch m).memoriesWf = true := hs

theorem State.loseMoves_memoriesWf {s : State} {m : ℕ} (hs : s.memoriesWf = true) : (s.loseMoves m).memoriesWf = true := by
  unfold State.loseMoves
  exact State.foldl_memoriesWf (fun _ _ hs => (State.memoriesWf_ite (State.abandonMove_memoriesWf hs) (State.memoriesWf_ite
      (State.closeEpoch_memoriesWf (State.memoriesWf_update hs)) hs))) _ hs

theorem State.electLeader_memoriesWf {s : State} (hs : s.memoriesWf = true) : s.electLeader.memoriesWf = true := by
  unfold State.electLeader
  dsimp only
  split
  · exact hs
  · split
    · exact hs
    · exact State.memoriesWf_ite (State.announce_memoriesWf (State.memoriesWf_update hs)) (State.memoriesWf_update hs)

theorem State.loseModule_memoriesWf {s : State} {m : ℕ} (hs : s.memoriesWf = true) : (s.loseModule m).memoriesWf = true := by
  unfold State.loseModule
  exact State.memoriesWf_ite hs (State.cutQueries_memoriesWf (State.memoriesWf_ite (State.electLeader_memoriesWf (State.loseMoves_memoriesWf
      (State.closeLoans_memoriesWf (State.memoriesWf_update hs)))) (State.loseMoves_memoriesWf (State.closeLoans_memoriesWf
      (State.memoriesWf_update hs)))))

theorem execModuleLost_keepsMemories {module : ℕ} {s : State} (hs : s.memoriesWf = true) : KeepsMemories (execModuleLost module s) := by
  unfold execModuleLost
  exact event_keepsMemories hs (State.settled_memoriesWf hs (State.loseModule_memoriesWf hs))

/-! ### Control messages received (R436, R571) -/

theorem State.onLend_memoriesWf {s : State} {m : Bytes} (hs : s.memoriesWf = true) : (s.onLend m).memoriesWf = true := by
  unfold State.onLend
  dsimp only
  split
  · exact hs
  · split
    · split
      · exact State.announce_memoriesWf (State.memoriesWf_updateMem hs)
      · exact hs
    · split
      · exact hs
      · exact State.replyLater_memoriesWf (State.memoriesWf_updateMem hs)
    · exact State.memoriesWf_updateMem hs

theorem State.onEpoch_memoriesWf {s : State} {m : Bytes} (hs : s.memoriesWf = true) : (s.onEpoch m).memoriesWf = true := by
  unfold State.onEpoch
  dsimp only
  split
  · exact State.memoriesWf_ite (State.memoriesWf_update hs) (State.memoriesWf_update hs)
  · exact State.memoriesWf_update hs
  · exact State.memoriesWf_update hs

theorem State.act_memoriesWf {s : State} {m : Bytes} (hs : s.memoriesWf = true) : (s.act m).memoriesWf = true := by
  unfold State.act
  dsimp only
  split
  · exact State.memoriesWf_update hs
  · exact State.onPropose_memoriesWf hs
  · exact State.onAnswer_memoriesWf hs
  · exact State.onAnswer_memoriesWf hs
  · exact State.onAbort_memoriesWf hs
  · exact State.memoriesWf_update hs
  · exact State.memoriesWf_ite (State.announce_memoriesWf (State.memoriesWf_update hs)) (State.memoriesWf_ite (State.memoriesWf_update hs)
        (State.memoriesWf_update hs))
  · exact State.onCommit_memoriesWf hs
  · exact State.onEpoch_memoriesWf hs
  · exact State.onEpoch_memoriesWf hs
  · exact State.onEpoch_memoriesWf hs
  · exact State.onLend_memoriesWf hs
  · exact State.memoriesWf_update hs
  · exact State.memoriesWf_update hs
  · exact State.loseModule_memoriesWf hs
  · exact State.memoriesWf_update hs
  · exact hs

theorem State.receive_memoriesWf {s : State} {port : ℕ} {m : Bytes} (hs : s.memoriesWf = true) : (s.receive port m).memoriesWf = true := by
  unfold State.receive
  exact State.memoriesWf_ite hs (State.memoriesWf_ite (State.act_memoriesWf (State.memoriesWf_ite (State.memoriesWf_update hs) hs))
      (State.memoriesWf_ite (State.memoriesWf_update (State.memoriesWf_ite (State.memoriesWf_update hs) hs)) (State.memoriesWf_ite
      (State.memoriesWf_update hs) hs)))

theorem ctrlEvent_keepsMemories {s : State} {type port : ℕ} {msg : Bytes} (hs : s.memoriesWf = true) : KeepsMemories (ctrlEvent s type port msg) :=
  event_keepsMemories hs (State.settled_memoriesWf hs (State.receive_memoriesWf hs))

theorem execHeartbeat_keepsMemories {port : ℕ} {msg : Bytes} {s : State} (hs : s.memoriesWf = true) : KeepsMemories (execHeartbeat port msg s) := by
  unfold execHeartbeat
  exact ctrlEvent_keepsMemories hs

theorem execSwitchPropose_keepsMemories {port : ℕ} {msg : Bytes} {s : State} (hs : s.memoriesWf = true) :
    KeepsMemories (execSwitchPropose port msg s) := by
  unfold execSwitchPropose
  exact ctrlEvent_keepsMemories hs

theorem execSwitchAccept_keepsMemories {port : ℕ} {msg : Bytes} {s : State} (hs : s.memoriesWf = true) :
    KeepsMemories (execSwitchAccept port msg s) := by
  unfold execSwitchAccept
  exact ctrlEvent_keepsMemories hs

theorem execSwitchRefuse_keepsMemories {port : ℕ} {msg : Bytes} {s : State} (hs : s.memoriesWf = true) :
    KeepsMemories (execSwitchRefuse port msg s) := by
  unfold execSwitchRefuse
  exact ctrlEvent_keepsMemories hs

theorem execSwitchAbort_keepsMemories {port : ℕ} {msg : Bytes} {s : State} (hs : s.memoriesWf = true) :
    KeepsMemories (execSwitchAbort port msg s) := by
  unfold execSwitchAbort
  exact ctrlEvent_keepsMemories hs

theorem execShedStage_keepsMemories {port : ℕ} {msg : Bytes} {s : State} (hs : s.memoriesWf = true) : KeepsMemories (execShedStage port msg s) := by
  unfold execShedStage
  exact ctrlEvent_keepsMemories hs

theorem execBarrier_keepsMemories {port : ℕ} {msg : Bytes} {s : State} (hs : s.memoriesWf = true) : KeepsMemories (execBarrier port msg s) := by
  unfold execBarrier
  exact ctrlEvent_keepsMemories hs

theorem execCommit_keepsMemories {port : ℕ} {msg : Bytes} {s : State} (hs : s.memoriesWf = true) : KeepsMemories (execCommit port msg s) := by
  unfold execCommit
  exact ctrlEvent_keepsMemories hs

theorem execEpochOpen_keepsMemories {port : ℕ} {msg : Bytes} {s : State} (hs : s.memoriesWf = true) : KeepsMemories (execEpochOpen port msg s) := by
  unfold execEpochOpen
  exact ctrlEvent_keepsMemories hs

theorem execEpochReady_keepsMemories {port : ℕ} {msg : Bytes} {s : State} (hs : s.memoriesWf = true) : KeepsMemories (execEpochReady port msg s) := by
  unfold execEpochReady
  exact ctrlEvent_keepsMemories hs

theorem execEpochClose_keepsMemories {port : ℕ} {msg : Bytes} {s : State} (hs : s.memoriesWf = true) : KeepsMemories (execEpochClose port msg s) := by
  unfold execEpochClose
  exact ctrlEvent_keepsMemories hs

theorem execLend_keepsMemories {port : ℕ} {msg : Bytes} {s : State} (hs : s.memoriesWf = true) : KeepsMemories (execLend port msg s) := by
  unfold execLend
  exact ctrlEvent_keepsMemories hs

theorem execPortDown_keepsMemories {port : ℕ} {msg : Bytes} {s : State} (hs : s.memoriesWf = true) : KeepsMemories (execPortDown port msg s) := by
  unfold execPortDown
  exact ctrlEvent_keepsMemories hs

theorem execPortUp_keepsMemories {port : ℕ} {msg : Bytes} {s : State} (hs : s.memoriesWf = true) : KeepsMemories (execPortUp port msg s) := by
  unfold execPortUp
  exact ctrlEvent_keepsMemories hs

theorem execLeave_keepsMemories {port : ℕ} {msg : Bytes} {s : State} (hs : s.memoriesWf = true) : KeepsMemories (execLeave port msg s) := by
  unfold execLeave
  exact ctrlEvent_keepsMemories hs

theorem execLeader_keepsMemories {port : ℕ} {msg : Bytes} {s : State} (hs : s.memoriesWf = true) : KeepsMemories (execLeader port msg s) := by
  unfold execLeader
  exact ctrlEvent_keepsMemories hs

theorem execPlacementCopyDone_keepsMemories {coll part : ℕ} {s : State} (hs : s.memoriesWf = true) :
    KeepsMemories (execPlacementCopyDone coll part s) := by
  unfold execPlacementCopyDone
  split
  · exact keepsMemories_next hs
  · exact event_keepsMemories hs (State.announce_memoriesWf (State.layout_memoriesWf (State.memoriesWf_update hs)))

/-! ### Leaving (R432, R458) -/

theorem execTimeParentTimeout_keepsMemories {s : State} (hs : s.memoriesWf = true) : KeepsMemories (execTimeParentTimeout s) := by
  unfold execTimeParentTimeout
  exact event_keepsMemories hs (State.settled_memoriesWf hs (State.cutQueries_memoriesWf (State.leaveGroup_memoriesWf hs)))

theorem execLeaderSearchTimeout_keepsMemories {s : State} (hs : s.memoriesWf = true) : KeepsMemories (execLeaderSearchTimeout s) := by
  unfold execLeaderSearchTimeout
  exact event_keepsMemories hs (State.settled_memoriesWf hs (State.cutQueries_memoriesWf (State.leaveGroup_memoriesWf hs)))

/-! ### Forming a group (R439 to R442) -/

theorem execGroupJoin_keepsMemories {cells : Bytes} {host : HostImage} {s : State} (hs : s.memoriesWf = true) :
    KeepsMemories (execGroupJoin cells host s) := by
  unfold execGroupJoin
  exact messageEvent_keepsMemories hs fun _ _ hs => State.memoriesWf_ite (State.refuse_memoriesWf _ _ _ _ _ _ hs) (State.foldl_memoriesWf
      (fun _ _ hs => (State.memoriesWf_ite (State.train_memoriesWf hs) (State.memoriesWf_ite (State.sendHello_memoriesWf hs) hs))) _
      (State.memoriesWf_update (State.memoriesWf_update hs)))

theorem execPortsMeasuredReport_keepsMemories {port : ℕ} {msg : Bytes} {s : State} (hs : s.memoriesWf = true) :
    KeepsMemories (execPortsMeasuredReport port msg s) := by
  unfold execPortsMeasuredReport
  exact event_keepsMemories hs (State.tryForm_memoriesWf (State.memoriesWf_update hs))

theorem execGroupFormationTimeout_keepsMemories {s : State} (hs : s.memoriesWf = true) : KeepsMemories (execGroupFormationTimeout s) := by
  unfold execGroupFormationTimeout
  split
  · exact keepsMemories_next hs
  · exact event_keepsMemories hs (State.refuseLater_memoriesWf (State.memoriesWf_update hs))

/-! ### Lending (R385, R386, R388, R459) -/

theorem lendEvent_keepsMemories {s : State} {cells : Bytes} {kind : ℕ} {reserved : List (ℕ × ℕ × ℕ)} {run : State → ℕ → ℕ → ℕ → ℕ → State}
    (hs : s.memoriesWf = true) (hrun : ∀ t seq window gib peer, t.memoriesWf = true → (run t seq window gib peer).memoriesWf = true) : KeepsMemories
    (lendEvent s cells kind reserved run) :=
  messageEvent_keepsMemories hs fun _ _ ht => State.memoriesWf_ite (State.refuse_memoriesWf _ _ _ _ _ _ ht) (hrun _ _ _ _ _ ht)

theorem execLendMemoryOffer_keepsMemories {cells : Bytes} {host : HostImage} {s : State} (hs : s.memoriesWf = true) :
    KeepsMemories (execLendMemoryOffer cells host s) := by
  refine lendEvent_keepsMemories hs fun t seq window gib peer ht => ?_
  split
  · exact State.refuse_memoriesWf _ _ _ _ _ _ ht
  · rename_i found
    split at found
    · cases found
    · obtain ⟨r, -, hr⟩ := Option.bind_eq_some_iff.1 found
      obtain ⟨u, hu, heq⟩ := Option.map_eq_some_iff.1 hr
      obtain ⟨rfl, rfl⟩ := Prod.mk.inj heq
      exact State.reply_memoriesWf _ _ _ _ (State.memoriesWf_updateMem (State.zeroRegions_memoriesWf (State.openRun_memoriesWf ht hu)))

theorem execLendMemoryBorrow_keepsMemories {cells : Bytes} {host : HostImage} {s : State} (hs : s.memoriesWf = true) :
    KeepsMemories (execLendMemoryBorrow cells host s) := by
  unfold execLendMemoryBorrow
  exact lendEvent_keepsMemories hs fun _ _ _ _ _ hs => State.memoriesWf_ite (State.refuse_memoriesWf _ _ _ _ _ _ hs) (State.memoriesWf_ite
      (State.refuse_memoriesWf _ _ _ _ _ _ hs) (State.announce_memoriesWf (State.memoriesWf_updateMem hs)))

theorem execLendMemoryEnd_keepsMemories {cells : Bytes} {host : HostImage} {s : State} (hs : s.memoriesWf = true) :
    KeepsMemories (execLendMemoryEnd cells host s) := by
  refine lendEvent_keepsMemories hs fun t seq window gib peer ht => ?_
  split
  · exact State.refuse_memoriesWf _ _ _ _ _ _ ht
  · exact State.reply_memoriesWf _ _ _ _ (State.announce_memoriesWf (State.memoriesWf_updateMem ht))

theorem execLendWindowClose_keepsMemories {window : ℕ} {s : State} (hs : s.memoriesWf = true) : KeepsMemories (execLendWindowClose window s) := by
  unfold execLendWindowClose
  exact event_keepsMemories hs (State.closeLoans_memoriesWf hs)

/-! ### Cages (R413, R414, R422) -/

theorem execCageModuleInserted_keepsMemories {cage : ℕ} {info : CageInfo} {s : State} (hs : s.memoriesWf = true) :
    KeepsMemories (execCageModuleInserted cage info s) := by
  unfold execCageModuleInserted
  exact event_keepsMemories hs (State.settled_memoriesWf hs (State.memoriesWf_ite (State.portFault_memoriesWf (State.memoriesWf_update
      (State.draw_memoriesWf hs))) (State.train_memoriesWf (State.train_memoriesWf (State.memoriesWf_update (State.draw_memoriesWf hs))))))

theorem execCageModuleRemoved_keepsMemories {cage : ℕ} {s : State} (hs : s.memoriesWf = true) : KeepsMemories (execCageModuleRemoved cage s) := by
  unfold execCageModuleRemoved
  exact event_keepsMemories hs (State.endRecovery_memoriesWf (State.endRecovery_memoriesWf (State.endRecovery_memoriesWf (State.memoriesWf_update
      (State.portDown_memoriesWf (State.portDown_memoriesWf hs))))))

theorem execCmisHighAlarm_keepsMemories {cage : ℕ} {s : State} (hs : s.memoriesWf = true) : KeepsMemories (execCmisHighAlarm cage s) := by
  unfold execCmisHighAlarm
  exact event_keepsMemories hs (State.settled_memoriesWf hs (State.portFault_memoriesWf (State.memoriesWf_update (State.portDown_memoriesWf
      (State.portDown_memoriesWf hs)))))

/-! ### Writes of BAR0 (R468 to R475) -/

theorem State.stopAdmin_memoriesWf {s : State} (hs : s.memoriesWf = true) : s.stopAdmin.memoriesWf = true := hs

theorem State.setAdmin_memoriesWf {s : State} {on : Bool} (hs : s.memoriesWf = true) : (s.setAdmin on).memoriesWf = true := by
  unfold State.setAdmin
  exact State.memoriesWf_ite (State.stopAdmin_memoriesWf (State.memoriesWf_update hs)) (State.memoriesWf_ite (State.memoriesWf_update hs)
      (State.startAdmin_memoriesWf (State.memoriesWf_update hs)))

theorem State.writeControl_memoriesWf {s : State} {v : ℕ} (hs : s.memoriesWf = true) : (s.writeControl v).memoriesWf = true := by
  unfold State.writeControl
  exact State.setAdmin_memoriesWf (State.memoriesWf_ite (State.untether_memoriesWf (State.memoriesWf_update hs)) (State.memoriesWf_update hs))

theorem State.writeWord_memoriesWf {s : State} {off w : ℕ} (hs : s.memoriesWf = true) : (s.writeWord off w).memoriesWf = true := by
  unfold State.writeWord
  split
  · exact State.memoriesWf_update hs
  · split
    · exact State.memoriesWf_update hs
    · split
      · exact State.writeControl_memoriesWf hs
      · exact State.memoriesWf_update hs
      · exact State.wakeWatcher_memoriesWf hs
      · exact State.memoriesWf_update hs
      · exact State.memoriesWf_update hs
      · exact State.memoriesWf_update hs
      · exact State.memoriesWf_update hs
      · exact hs

theorem State.writeMsix_memoriesWf {s : State} {off w : ℕ} (hs : s.memoriesWf = true) : (s.writeMsix off w).memoriesWf = true := by
  unfold State.writeMsix
  exact State.memoriesWf_ite (State.memoriesWf_update hs) (State.memoriesWf_update hs)

theorem State.writeBar0_memoriesWf {s : State} {off w : ℕ} (hs : s.memoriesWf = true) : (s.writeBar0 off w).memoriesWf = true := by
  unfold State.writeBar0
  exact State.memoriesWf_ite (State.writeWord_memoriesWf hs) (State.memoriesWf_ite (State.writeMsix_memoriesWf hs) hs)

theorem State.writeRegister_memoriesWf {s : State} {off width value : ℕ} (hs : s.memoriesWf = true) :
    (s.writeRegister off width value).memoriesWf = true := by
  unfold State.writeRegister
  exact State.memoriesWf_ite (State.errorLog_memoriesWf hs) (State.memoriesWf_ite (State.raise_memoriesWf (State.errorLog_memoriesWf hs))
      (State.memoriesWf_ite (State.memoriesWf_update hs) (State.memoriesWf_ite (State.writeBar0_memoriesWf (State.writeBar0_memoriesWf hs))
      (State.writeBar0_memoriesWf hs))))

theorem execRegisterWrite_keepsMemories {offset width value : ℕ} {s : State} (hs : s.memoriesWf = true) :
    KeepsMemories (execRegisterWrite offset width value s) := by
  unfold execRegisterWrite
  exact event_keepsMemories hs (State.writeRegister_memoriesWf hs)

theorem execDetach_keepsMemories {s : State} (hs : s.memoriesWf = true) : KeepsMemories (execDetach s) := by
  unfold execDetach
  exact event_keepsMemories hs (State.untether_memoriesWf hs)

theorem execAdminEnable_keepsMemories {value : BitVec 32} {s : State} (hs : s.memoriesWf = true) : KeepsMemories (execAdminEnable value s) := by
  unfold execAdminEnable
  exact event_keepsMemories hs (State.writeRegister_memoriesWf hs)

theorem execNudge_keepsMemories {value : BitVec 32} {s : State} (hs : s.memoriesWf = true) : KeepsMemories (execNudge value s) := by
  unfold execNudge
  exact event_keepsMemories hs (State.writeRegister_memoriesWf hs)

theorem execStagedFieldBoundary_keepsMemories {field : StagedField} {s : State} (hs : s.memoriesWf = true) :
    KeepsMemories (execStagedFieldBoundary field s) := by
  unfold execStagedFieldBoundary
  split <;> exact event_keepsMemories hs (State.memoriesWf_update hs)

/-! ### MSI-X and PTM (R479, R487) -/

theorem execMsixPendingSend_keepsMemories {vector : ℕ} {s : State} (hs : s.memoriesWf = true) : KeepsMemories (execMsixPendingSend vector s) := by
  unfold execMsixPendingSend
  exact event_keepsMemories hs (State.memoriesWf_update hs)

theorem execPtmCapture_keepsMemories {hostTime : BitVec 64} {s : State} (hs : s.memoriesWf = true) : KeepsMemories (execPtmCapture hostTime s) := by
  unfold execPtmCapture
  exact event_keepsMemories hs (State.memoriesWf_update hs)

theorem execCompletionCoalesceTimeout_keepsMemories {cq : ℕ} {s : State} (hs : s.memoriesWf = true) :
    KeepsMemories (execCompletionCoalesceTimeout cq s) := by
  unfold execCompletionCoalesceTimeout
  split
  · exact keepsMemories_next hs
  · exact event_keepsMemories hs (State.signal_memoriesWf (State.updCq_memoriesWf (State.advance_memoriesWf hs)))

/-! ### Host reads that fail, internal errors of the port (R466, R467) -/

theorem State.pageReadFailed_memoriesWf {s : State} {a : ℕ} (hs : s.memoriesWf = true) : (s.pageReadFailed a).memoriesWf = true := by
  unfold State.pageReadFailed
  exact State.memoriesWf_ite (State.errorLog_memoriesWf hs) (State.raise_memoriesWf (State.memoriesWf_update (State.errorLog_memoriesWf hs)))

theorem State.commandReadFailed_memoriesWf {s : State} {c : Cmd} {a : ℕ} (hs : s.memoriesWf = true) :
    (s.commandReadFailed c a).memoriesWf = true := by
  unfold State.commandReadFailed
  dsimp only
  split
  · exact State.complete_memoriesWf _ _ _ (State.draw_memoriesWf (State.storeApply_memoriesWf _ _ _ _ (State.raise_memoriesWf hs)))
  · exact State.memoriesWf_ite (State.complete_memoriesWf _ _ _ (State.raise_memoriesWf hs)) (State.complete_memoriesWf _ _ _
        (State.moveStop_memoriesWf (State.raise_memoriesWf hs)))
  · exact State.foldl_memoriesWf (fun _ _ hs => (State.settleRun_memoriesWf (State.updRun_memoriesWf hs))) _ (State.raise_memoriesWf hs)
  · exact State.complete_memoriesWf _ _ _ (State.dropWork_memoriesWf (State.raise_memoriesWf hs))

theorem execHostReadFailed_keepsMemories {read : HostRead} {address : ℕ} {s : State} (hs : s.memoriesWf = true) :
    KeepsMemories (execHostReadFailed read address s) := by
  unfold execHostReadFailed
  dsimp only
  split
  · split
    · exact keepsMemories_next hs
    · exact event_keepsMemories hs (State.commandReadFailed_memoriesWf hs)
  · split
    · exact keepsMemories_next hs
    · exact event_keepsMemories hs (State.pageReadFailed_memoriesWf hs)
  · exact event_keepsMemories hs (State.pageReadFailed_memoriesWf hs)
  · exact event_keepsMemories hs (State.pageReadFailed_memoriesWf hs)

theorem execHostPortInternalError_keepsMemories {s : State} (hs : s.memoriesWf = true) : KeepsMemories (execHostPortInternalError s) := by
  unfold execHostPortInternalError
  exact keepsMemories_next (State.raise_memoriesWf (State.memoriesWf_update hs))

theorem execPmeStatusClear_keepsMemories {s : State} (hs : s.memoriesWf = true) : KeepsMemories (execPmeStatusClear s) := by
  unfold execPmeStatusClear
  exact event_keepsMemories hs (State.memoriesWf_update hs)

/-! ### The doorbell watcher (R503 to R506, R575, R579, R712) -/

theorem State.badDoorbell_memoriesWf {s : State} {ring : ℕ} (hs : s.memoriesWf = true) : (s.badDoorbell ring).memoriesWf = true := by
  unfold State.badDoorbell
  exact State.record_memoriesWf _ _ hs

theorem State.watchTail_memoriesWf {h : HostImage} {s : State} {r : SubRing} (hs : s.memoriesWf = true) :
    (State.watchTail h s r).memoriesWf = true := by
  unfold State.watchTail
  exact State.memoriesWf_ite hs (State.memoriesWf_ite (State.memoriesWf_ite (State.updSq_memoriesWf hs) (State.badDoorbell_memoriesWf
      (State.updSq_memoriesWf hs))) (State.updSq_memoriesWf hs))

theorem State.watchHead_memoriesWf {h : HostImage} {s : State} {q : CmpRing} (hs : s.memoriesWf = true) :
    (State.watchHead h s q).memoriesWf = true := by
  unfold State.watchHead
  exact State.memoriesWf_ite (State.memoriesWf_ite (State.updCq_memoriesWf hs) (State.badDoorbell_memoriesWf (State.updCq_memoriesWf hs)))
      (State.updCq_memoriesWf hs)

theorem State.watchMail_memoriesWf {s : State} {h : HostImage} (hs : s.memoriesWf = true) : (s.watchMail h).memoriesWf = true := by
  unfold State.watchMail
  exact State.memoriesWf_ite (State.memoriesWf_ite (State.memoriesWf_update hs) (State.badDoorbell_memoriesWf (State.memoriesWf_update hs)))
      (State.flushMail_memoriesWf (State.memoriesWf_update hs))

theorem State.watchUntethered_memoriesWf {s : State} {h : HostImage} (hs : s.memoriesWf = true) : (s.watchUntethered h).memoriesWf = true := hs

theorem State.restArbiter_memoriesWf {s : State} (hs : s.memoriesWf = true) : s.restArbiter.memoriesWf = true := by
  unfold State.restArbiter
  exact State.memoriesWf_ite hs (State.memoriesWf_update hs)

theorem State.readWords_memoriesWf {s : State} {h : HostImage} (hs : s.memoriesWf = true) : (s.readWords h).memoriesWf = true := by
  unfold State.readWords
  exact State.memoriesWf_ite (State.watchUntethered_memoriesWf (State.readOk_memoriesWf hs)) (State.watchMail_memoriesWf (State.foldl_memoriesWf
      (fun _ _ hs => State.watchHead_memoriesWf hs) _ (State.foldl_memoriesWf (fun _ _ hs => State.watchTail_memoriesWf hs) _
      (State.restArbiter_memoriesWf (State.readOk_memoriesWf hs)))))

theorem execDoorbellWatch_keepsMemories {host : HostImage} {s : State} (hs : s.memoriesWf = true) : KeepsMemories (execDoorbellWatch host s) := by
  unfold execDoorbellWatch
  exact event_keepsMemories hs (State.settled_memoriesWf hs (State.memoriesWf_update (State.readWords_memoriesWf hs)))

theorem execWatcherSleep_keepsMemories {host : HostImage} {s : State} (hs : s.memoriesWf = true) : KeepsMemories (execWatcherSleep host s) := by
  unfold execWatcherSleep
  exact event_keepsMemories hs (State.settled_memoriesWf hs (State.memoriesWf_update (State.readWords_memoriesWf hs)))

/-! ### SMBus writes (R694 to R701) -/

theorem execSmbCapWrite_keepsMemories {value : BitVec 16} {pecGood : Bool} {s : State} (hs : s.memoriesWf = true) :
    KeepsMemories (execSmbCapWrite value pecGood s) := by
  unfold execSmbCapWrite
  exact event_keepsMemories hs (State.memoriesWf_ite hs (State.memoriesWf_ite (State.memoriesWf_update hs) (State.memoriesWf_update hs)))

theorem execSmbusWriteWord_keepsMemories {code : ℕ} {value : BitVec 16} {pecGood : Bool} {s : State} (hs : s.memoriesWf = true) :
    KeepsMemories (execSmbusWriteWord code value pecGood s) := by
  unfold execSmbusWriteWord
  exact event_keepsMemories hs (State.memoriesWf_ite (State.memoriesWf_update hs) hs)

/-! ### FLR, hot reset, D3hot, Bus Master Enable (R480 to R484) -/

theorem State.flrWith_memoriesWf {s : State} {cause resetCause : ℕ} (hs : s.memoriesWf = true) : (s.flrWith cause resetCause).memoriesWf = true := by
  unfold State.flrWith
  exact State.memoriesWf_update (State.untether_memoriesWf hs)

theorem execFlr_keepsMemories {s : State} (hs : s.memoriesWf = true) : KeepsMemories (execFlr s) := by
  unfold execFlr
  exact event_keepsMemories hs (State.flrWith_memoriesWf hs)

theorem execFlrCompletion_keepsMemories {s : State} (hs : s.memoriesWf = true) : KeepsMemories (execFlrCompletion s) := by
  unfold execFlrCompletion
  exact event_keepsMemories hs (State.memoriesWf_update hs)

theorem execHotReset_keepsMemories {s : State} (hs : s.memoriesWf = true) : KeepsMemories (execHotReset s) := by
  unfold execHotReset
  exact event_keepsMemories hs (State.memoriesWf_update (State.flrWith_memoriesWf hs))

theorem execD3hotEntry_keepsMemories {s : State} (hs : s.memoriesWf = true) : KeepsMemories (execD3hotEntry s) := by
  unfold execD3hotEntry
  exact event_keepsMemories hs (State.memoriesWf_update (State.untether_memoriesWf hs))

theorem execD0Return_keepsMemories {s : State} (hs : s.memoriesWf = true) : KeepsMemories (execD0Return s) := by
  unfold execD0Return
  exact event_keepsMemories hs (State.memoriesWf_update hs)

theorem execBusMasterEnableClear_keepsMemories {s : State} (hs : s.memoriesWf = true) : KeepsMemories (execBusMasterEnableClear s) := by
  unfold execBusMasterEnableClear
  exact event_keepsMemories hs (State.memoriesWf_update (State.untether_memoriesWf hs))

theorem execLinkUp_keepsMemories {rate width : ℕ} {cfg : BitVec 16} {s : State} (hs : s.memoriesWf = true) :
    KeepsMemories (execLinkUp rate width cfg s) := by
  unfold execLinkUp
  exact event_keepsMemories hs (State.memoriesWf_update (State.memoriesWf_ite hs (State.memoriesWf_ite (State.untether_memoriesWf hs) hs)))

/-! ### The end of a run (R185, R397, R407, R643, R686, R711) -/

theorem State.cutStore_memoriesWf {s : State} {c : Cmd} {w : StoreWork} (hs : s.memoriesWf = true) : (s.cutStore c w).1.memoriesWf = true := by
  unfold State.cutStore
  split
  · exact hs
  · split
    · exact hs
    · split
      · exact hs
      · exact State.foldl_memoriesWf (fun _ _ hs => State.tierWrite_memoriesWf _ _ _ _ hs) _ (State.draw_memoriesWf hs)
      · exact State.storeApply_memoriesWf _ _ _ _ (State.draw_memoriesWf hs)

theorem State.cutMove_memoriesWf {s : State} {m : MoveWork} (hs : s.memoriesWf = true) : (s.cutMove m).memoriesWf = true := by
  unfold State.cutMove
  exact State.memoriesWf_ite (State.writeBytes_memoriesWf (State.draw_memoriesWf hs)) hs

/-- Bytes put one by one keep the canonical form. -/
theorem Mem.wf_foldl_put {l : List ℕ} {f : ℕ → Byte} {m : List Host.Cell} (hm : Mem.wf m = true) : Mem.wf (l.foldl (fun m a => Mem.put m a
    (f a)) m) = true := by
  induction l generalizing m with
  | nil => exact hm
  | cons a l ih => exact ih (Mem.wf_put m a (f a) hm)

theorem State.cutTransfer_memoriesWf {s : State} {r : Run} {t : Transfer} (hs : s.memoriesWf = true) : (s.cutTransfer r t).memoriesWf = true := by
  obtain ⟨hhost, hhbm, ht2, hstore⟩ := (State.memoriesWf_iff s).1 hs
  unfold State.cutTransfer
  split
  · exact State.memoriesWf_ite hs ((State.memoriesWf_iff _).2 ⟨hhost, hhbm, ht2, Mem.wf_foldl_put hstore⟩)
  · exact hs

theorem State.cutRuns_memoriesWf {s : State} (hs : s.memoriesWf = true) : s.cutRuns.memoriesWf = true := by
  unfold State.cutRuns
  exact State.foldl_memoriesWf (fun _ _ hs => (State.foldl_memoriesWf (fun _ _ hs => State.cutTransfer_memoriesWf hs) _ hs)) _ hs

theorem State.cutCommands_memoriesWf {s : State} {l : List Cmd} (hs : s.memoriesWf = true) : (s.cutCommands l).1.memoriesWf = true := by
  induction l generalizing s with
  | nil => exact hs
  | cons c l ih =>
    unfold State.cutCommands
    dsimp only
    refine ih ?_
    split
    · exact hs
    · exact State.cutStore_memoriesWf hs
    · exact State.memoriesWf_ite hs (State.cutMove_memoriesWf hs)
    · exact hs

theorem State.finishFlash_memoriesWf {s : State} (hs : s.memoriesWf = true) : s.finishFlash.memoriesWf = true := hs

/-- What survives a reset holds host memory and the host area as they were, and no other byte. -/
theorem State.durable_memoriesWf {s : State} (hs : s.memoriesWf = true) : s.durable.memoriesWf = true := by
  obtain ⟨hhost, -, -, hstore⟩ := (State.memoriesWf_iff s).1 hs
  exact (State.memoriesWf_iff _).2 ⟨hhost, rfl, rfl, hstore⟩

theorem State.endRun_memoriesWf {s : State} {cause : ℕ} (hs : s.memoriesWf = true) : (s.endRun cause).memoriesWf = true := by
  have cut := State.cutCommands_memoriesWf (l := s.rings.cmds) (State.cutRuns_memoriesWf (State.finishFlash_memoriesWf hs))
  exact State.durable_memoriesWf (State.memoriesWf_ite (State.memoriesWf_update cut) cut)

theorem State.clearErrors_memoriesWf {s : State} (hs : s.memoriesWf = true) : s.clearErrors.memoriesWf = true := hs

theorem State.resetCause_memoriesWf {s : State} {n : ℕ} (hs : s.memoriesWf = true) : (s.resetCause n).memoriesWf = true := hs

theorem State.countBoot_memoriesWf {s : State} (hs : s.memoriesWf = true) : s.countBoot.memoriesWf = true := hs

theorem execPerstAssert_keepsMemories {s : State} (hs : s.memoriesWf = true) : KeepsMemories (execPerstAssert s) := by
  unfold execPerstAssert
  exact event_keepsMemories hs (State.memoriesWf_ite (State.memoriesWf_update (State.countBoot_memoriesWf (State.resetCause_memoriesWf
      (State.clearErrors_memoriesWf (State.endRun_memoriesWf hs))))) (State.memoriesWf_update hs))

theorem execPerstDeassert_keepsMemories {s : State} (hs : s.memoriesWf = true) : KeepsMemories (execPerstDeassert s) := by
  unfold execPerstDeassert
  exact event_keepsMemories hs (State.memoriesWf_update hs)

theorem State.losePower_memoriesWf {s : State} {cause : ℕ} (hs : s.memoriesWf = true) : (s.losePower cause).memoriesWf = true := by
  unfold State.losePower
  exact State.memoriesWf_update (State.resetCause_memoriesWf (State.clearErrors_memoriesWf (State.endRun_memoriesWf hs)))

theorem execPowerLoss_keepsMemories {s : State} (hs : s.memoriesWf = true) : KeepsMemories (execPowerLoss s) := by
  unfold execPowerLoss
  exact event_keepsMemories hs (State.losePower_memoriesWf hs)

theorem execThermalCutOff_keepsMemories {die : ℕ} {s : State} (hs : s.memoriesWf = true) : KeepsMemories (execThermalCutOff die s) := by
  unfold execThermalCutOff
  exact event_keepsMemories hs (State.memoriesWf_update (State.losePower_memoriesWf hs))

theorem execPowerGood_keepsMemories {s : State} (hs : s.memoriesWf = true) : KeepsMemories (execPowerGood s) := by
  unfold execPowerGood
  exact event_keepsMemories hs (State.memoriesWf_update (State.countBoot_memoriesWf hs))

/-! ### An internal restart (R644, R662, R711) -/

theorem State.internalRestart_memoriesWf {s : State} (hs : s.memoriesWf = true) : s.internalRestart.memoriesWf = true := by
  unfold State.internalRestart
  exact State.memoriesWf_update (State.resetCause_memoriesWf (State.endRun_memoriesWf hs))

/-! ### Start-up (R646 to R650, chapter 19's table of step failures) -/

theorem State.failStep_memoriesWf {s : State} (hs : s.memoriesWf = true) : s.failStep.memoriesWf = true := by
  unfold State.failStep
  exact State.raise_memoriesWf hs

theorem State.bootStep_memoriesWf {s : State} {r : StartReport} (hs : s.memoriesWf = true) : (s.bootStep r).memoriesWf = true := hs

theorem State.defaultRecords_memoriesWf {s : State} (hs : s.memoriesWf = true) : s.defaultRecords.memoriesWf = true := by
  unfold State.defaultRecords
  exact State.foldl_memoriesWf (fun _ _ hs => (State.record_memoriesWf _ _ (State.memoriesWf_update hs))) _ hs

theorem State.recordStep_memoriesWf {s : State} (hs : s.memoriesWf = true) : s.recordStep.memoriesWf = true := by
  have hrecords : s.defaultRecords.memoriesWf = true := State.defaultRecords_memoriesWf hs
  refine State.memoriesWf_updateMem ?_
  cases hrun : State.openRun s.defaultRecords.defaultRegion (s.defaultRecords.mem.regionBase / 2 ^ 30)
      { s.defaultRecords with mem.regions := [] } with
  | none => exact hrecords
  | some t => exact State.openRun_memoriesWf (State.memoriesWf_updateMem hrecords) hrun

theorem State.testStep_memoriesWf {s : State} {bad : List (ℕ × ℕ)} (hs : s.memoriesWf = true) : (s.testStep bad).memoriesWf = true := hs

/-! ### Journal replay (R186, R403 to R406) -/

theorem State.replayNote_memoriesWf {s : State} {id n seq : ℕ} (hs : s.memoriesWf = true) : (s.replayNote id n seq).memoriesWf = true := hs

theorem State.replayCommit_memoriesWf {s : State} {coll id kind : ℕ} {entries : List JEntry} (hs : s.memoriesWf = true) :
    (s.replayCommit coll id kind entries).memoriesWf = true := by
  unfold State.replayCommit
  split
  · exact hs
  · exact State.replayNote_memoriesWf (State.updColl_memoriesWf hs)

theorem State.replayOne_memoriesWf {s : State} {second : Bool} {id : ℕ} (hs : s.memoriesWf = true) : (s.replayOne second id).memoriesWf = true := by
  unfold State.replayOne
  dsimp only
  split
  · exact hs
  · split
    · exact hs
    · split
      · exact State.memoriesWf_ite hs (State.memoriesWf_ite (State.replayNote_memoriesWf hs) (State.replayCommit_memoriesWf hs))
      · exact State.memoriesWf_ite (State.replayCommit_memoriesWf hs) hs

theorem State.badParts_memoriesWf {s : State} {l : List (ℕ × ℕ)} (hs : s.memoriesWf = true) : (s.badParts l).memoriesWf = true := hs

theorem State.replay_memoriesWf {s : State} (hs : s.memoriesWf = true) : s.replay.memoriesWf = true := by
  unfold State.replay
  exact State.record_memoriesWf _ _ (State.memoriesWf_updateStore (State.foldl_memoriesWf (fun _ _ hs => State.replayOne_memoriesWf hs) _
      (State.foldl_memoriesWf (fun _ _ hs => State.replayOne_memoriesWf hs) _ hs)))

theorem State.becomeReady_memoriesWf {s : State} (hs : s.memoriesWf = true) : s.becomeReady.memoriesWf = true := by
  unfold State.becomeReady
  exact State.memoriesWf_update (State.memoriesWf_ite (State.memoriesWf_update (State.memoriesWf_update hs)) (State.memoriesWf_update hs))

theorem execStartupStepEnd_keepsMemories {report : StartReport} {s : State} (hs : s.memoriesWf = true) :
    KeepsMemories (execStartupStepEnd report s) := by
  unfold execStartupStepEnd
  dsimp only
  refine event_keepsMemories hs ?_
  split
  · exact State.memoriesWf_update hs
  · exact State.memoriesWf_ite (State.bootStep_memoriesWf hs) hs
  · exact State.memoriesWf_ite (State.failStep_memoriesWf hs) (State.memoriesWf_ite (State.recordStep_memoriesWf hs) (State.raise_memoriesWf hs))
  · exact State.memoriesWf_ite (State.testStep_memoriesWf hs) (State.failStep_memoriesWf hs)
  · exact State.memoriesWf_ite (State.memoriesWf_update hs) (State.failStep_memoriesWf hs)
  · exact State.memoriesWf_ite (State.failStep_memoriesWf hs) (State.memoriesWf_ite (State.becomeReady_memoriesWf (State.memoriesWf_updateStore hs))
        (State.memoriesWf_ite (State.failStep_memoriesWf (State.badParts_memoriesWf hs)) (State.becomeReady_memoriesWf (State.replay_memoriesWf
        (State.badParts_memoriesWf hs)))))

theorem execStartupStepTimeout_keepsMemories {s : State} (hs : s.memoriesWf = true) : KeepsMemories (execStartupStepTimeout s) := by
  unfold execStartupStepTimeout
  exact event_keepsMemories hs (State.failStep_memoriesWf hs)

theorem execStartupHold_keepsMemories {s : State} (hs : s.memoriesWf = true) : KeepsMemories (execStartupHold s) := by
  unfold execStartupHold
  exact event_keepsMemories hs (State.memoriesWf_update (State.resetCause_memoriesWf (State.endRun_memoriesWf hs)))

theorem execHoldInputRecovered_keepsMemories {s : State} (hs : s.memoriesWf = true) : KeepsMemories (execHoldInputRecovered s) := by
  unfold execHoldInputRecovered
  exact event_keepsMemories hs (State.memoriesWf_update hs)

/-! ### A component stops -/

theorem State.cutSectors_memoriesWf {s : State} {w : StoreWork} {reach : Bool} (hs : s.memoriesWf = true) :
    (s.cutSectors w reach).memoriesWf = true := by
  unfold State.cutSectors
  dsimp only
  split
  · exact State.memoriesWf_ite (State.foldl_memoriesWf (fun _ _ hs => State.hostWrite_memoriesWf hs) _ (State.draw_memoriesWf hs))
        (State.draw_memoriesWf hs)
  · exact State.foldl_memoriesWf (fun _ _ hs => State.storeApply_memoriesWf _ _ _ _ hs) _ (State.draw_memoriesWf hs)

theorem State.interrupt_memoriesWf {s : State} {k : ℕ} {c : Cmd} (hs : s.memoriesWf = true) : (s.interrupt k c).memoriesWf = true := by
  unfold State.interrupt
  refine State.updCmd_memoriesWf ?_
  split
  · exact State.cutSectors_memoriesWf hs
  · exact State.moveStop_memoriesWf hs
  · exact State.dropWork_memoriesWf hs

theorem State.undo_memoriesWf {s : State} {k : ℕ} (hs : s.memoriesWf = true) : (s.undo k).memoriesWf = true := by
  unfold State.undo
  exact State.memoriesWf_ite (State.memoriesWf_update hs) (State.memoriesWf_ite (State.memoriesWf_updateStore hs) hs)

theorem State.stopComponent_memoriesWf {s : State} {k : ℕ} (hs : s.memoriesWf = true) : (s.stopComponent k).memoriesWf = true := by
  unfold State.stopComponent
  exact State.foldl_memoriesWf (fun _ _ hs => State.interrupt_memoriesWf hs) _ (State.undo_memoriesWf hs)

theorem State.updComp_memoriesWf {s : State} {k : ℕ} {f : Component → Component} (hs : s.memoriesWf = true) : (s.updComp k f).memoriesWf = true := hs

theorem State.stopAll_memoriesWf {s : State} {l : List ℕ} {st : FwState} (hs : s.memoriesWf = true) : (s.stopAll l st).memoriesWf = true := by
  unfold State.stopAll
  exact State.foldl_memoriesWf (fun _ _ hs => (State.updComp_memoriesWf (State.stopComponent_memoriesWf hs))) _ hs

theorem State.failComponent_memoriesWf {s : State} {k : ℕ} (hs : s.memoriesWf = true) : (s.failComponent k).memoriesWf = true := by
  unfold State.failComponent
  exact State.raise_memoriesWf (State.memoriesWf_ite (State.stopAll_memoriesWf hs) (State.memoriesWf_ite (State.stopAll_memoriesWf hs)
      (State.stopAll_memoriesWf hs)))

theorem execCompartmentFault_keepsMemories {comp : ℕ} {s : State} (hs : s.memoriesWf = true) : KeepsMemories (execCompartmentFault comp s) := by
  unfold execCompartmentFault
  exact event_keepsMemories hs (State.failComponent_memoriesWf hs)

theorem execComponentHeartbeatTimeout_keepsMemories {comp : ℕ} {s : State} (hs : s.memoriesWf = true) :
    KeepsMemories (execComponentHeartbeatTimeout comp s) := by
  unfold execComponentHeartbeatTimeout
  exact event_keepsMemories hs (State.failComponent_memoriesWf hs)

theorem execKioskHalt_keepsMemories {kiosk : ℕ} {s : State} (hs : s.memoriesWf = true) : KeepsMemories (execKioskHalt kiosk s) := by
  unfold execKioskHalt
  exact event_keepsMemories hs (State.raise_memoriesWf (State.stopAll_memoriesWf hs))

/-! ### A component returns (R563 to R571) -/

theorem State.postWaiting_memoriesWf {s : State} (hs : s.memoriesWf = true) : s.postWaiting.memoriesWf = true := by
  unfold State.postWaiting
  refine State.foldl_memoriesWf (fun s x hs => ?_) _ (State.memoriesWf_update hs)
  split
  · exact hs
  · exact State.post_memoriesWf hs

theorem State.endHeld_memoriesWf {s : State} {l : List ℕ} (hs : s.memoriesWf = true) : (s.endHeld l).memoriesWf = true := by
  unfold State.endHeld
  exact State.foldl_memoriesWf (fun _ _ hs => State.complete_memoriesWf _ _ _ hs) _ hs

theorem State.answerRestarted_memoriesWf {s : State} {l : List ℕ} (hs : s.memoriesWf = true) : (s.answerRestarted l).memoriesWf = true := by
  unfold State.answerRestarted
  exact State.foldl_memoriesWf (fun _ _ hs => State.refuse_memoriesWf _ _ _ _ _ _ hs) _ hs

theorem State.beginWaiting_memoriesWf {s : State} (hs : s.memoriesWf = true) : s.beginWaiting.memoriesWf = true := by
  unfold State.beginWaiting
  exact State.blurAllows_memoriesWf (State.memoriesWf_update (State.endAll_memoriesWf hs))

theorem State.logActivation_memoriesWf {s : State} {event comp item : ℕ} (hs : s.memoriesWf = true) :
    (s.logActivation event comp item).memoriesWf = true := by
  unfold State.logActivation
  exact State.appendLog_memoriesWf hs

theorem State.endActivation_memoriesWf {s : State} (hs : s.memoriesWf = true) : s.endActivation.memoriesWf = true := by
  unfold State.endActivation
  split
  · exact hs
  · exact State.memoriesWf_ite (State.replyLater_memoriesWf (State.memoriesWf_update (State.logActivation_memoriesWf hs))) hs

theorem State.logMoved_memoriesWf {s : State} {k : ℕ} (hs : s.memoriesWf = true) : (s.logMoved k).memoriesWf = true := by
  unfold State.logMoved
  exact State.memoriesWf_ite (State.logActivation_memoriesWf hs) hs

theorem State.actHeld_memoriesWf {s : State} (hs : s.memoriesWf = true) : s.actHeld.memoriesWf = true := by
  unfold State.actHeld
  exact State.foldl_memoriesWf (fun _ _ hs => State.act_memoriesWf hs) _ (State.memoriesWf_update hs)

theorem State.returnComps_memoriesWf {s : State} {l : List ℕ} (hs : s.memoriesWf = true) : (s.returnComps l).memoriesWf = true := by
  unfold State.returnComps
  exact State.flushMail_memoriesWf (State.endActivation_memoriesWf (State.foldl_memoriesWf (fun _ _ hs => State.logMoved_memoriesWf hs) _
      (State.memoriesWf_ite (State.actHeld_memoriesWf (State.answerRestarted_memoriesWf (State.memoriesWf_ite (State.memoriesWf_update
      (State.beginWaiting_memoriesWf (State.endHeld_memoriesWf (State.memoriesWf_ite (State.postWaiting_memoriesWf (State.foldl_memoriesWf
      (fun _ _ hs => (State.endRecovery_memoriesWf (State.updComp_memoriesWf hs))) _ hs)) (State.foldl_memoriesWf (fun _ _ hs =>
      (State.endRecovery_memoriesWf (State.updComp_memoriesWf hs))) _ hs))))) (State.beginWaiting_memoriesWf (State.endHeld_memoriesWf
      (State.memoriesWf_ite (State.postWaiting_memoriesWf (State.foldl_memoriesWf (fun _ _ hs => (State.endRecovery_memoriesWf
      (State.updComp_memoriesWf hs))) _ hs)) (State.foldl_memoriesWf (fun _ _ hs => (State.endRecovery_memoriesWf
      (State.updComp_memoriesWf hs))) _ hs))))))) (State.answerRestarted_memoriesWf (State.memoriesWf_ite (State.memoriesWf_update
      (State.beginWaiting_memoriesWf (State.endHeld_memoriesWf (State.memoriesWf_ite (State.postWaiting_memoriesWf (State.foldl_memoriesWf
      (fun _ _ hs => (State.endRecovery_memoriesWf (State.updComp_memoriesWf hs))) _ hs)) (State.foldl_memoriesWf (fun _ _ hs =>
      (State.endRecovery_memoriesWf (State.updComp_memoriesWf hs))) _ hs))))) (State.beginWaiting_memoriesWf (State.endHeld_memoriesWf
      (State.memoriesWf_ite (State.postWaiting_memoriesWf (State.foldl_memoriesWf (fun _ _ hs => (State.endRecovery_memoriesWf
      (State.updComp_memoriesWf hs))) _ hs)) (State.foldl_memoriesWf (fun _ _ hs => (State.endRecovery_memoriesWf
      (State.updComp_memoriesWf hs))) _ hs)))))))))

theorem execComponentRestartEnd_keepsMemories {comp : ℕ} {s : State} (hs : s.memoriesWf = true) : KeepsMemories (execComponentRestartEnd comp s) := by
  unfold execComponentRestartEnd
  exact event_keepsMemories hs (State.settled_memoriesWf hs (State.endRecovery_memoriesWf (State.returnComps_memoriesWf hs)))

theorem execKioskRestartEnd_keepsMemories {kiosk : ℕ} {s : State} (hs : s.memoriesWf = true) : KeepsMemories (execKioskRestartEnd kiosk s) := by
  unfold execKioskRestartEnd
  exact event_keepsMemories hs (State.settled_memoriesWf hs (State.endRecovery_memoriesWf (State.returnComps_memoriesWf hs)))

/-! ### The lodge and the gatehouse (R560, R573, R574, R644) -/

theorem execLodgeWatchdogExpiry_keepsMemories {s : State} (hs : s.memoriesWf = true) : KeepsMemories (execLodgeWatchdogExpiry s) := by
  unfold execLodgeWatchdogExpiry
  exact event_keepsMemories hs (State.memoriesWf_ite (State.internalRestart_memoriesWf (State.raise_memoriesWf hs)) (State.memoriesWf_update
      (State.raise_memoriesWf hs)))

theorem execLodgeReturn_keepsMemories {s : State} (hs : s.memoriesWf = true) : KeepsMemories (execLodgeReturn s) := by
  unfold execLodgeReturn
  exact event_keepsMemories hs (State.answerRestarted_memoriesWf (State.endRecovery_memoriesWf (State.memoriesWf_update (State.foldl_memoriesWf
      (fun _ _ hs => State.stopComponent_memoriesWf hs) _ hs))))

theorem execGatehouseWatchdogExpiry_keepsMemories {s : State} (hs : s.memoriesWf = true) : KeepsMemories (execGatehouseWatchdogExpiry s) := by
  unfold execGatehouseWatchdogExpiry
  exact event_keepsMemories hs (State.raise_memoriesWf (State.memoriesWf_update hs))

theorem execGatehouseReturn_keepsMemories {s : State} (hs : s.memoriesWf = true) : KeepsMemories (execGatehouseReturn s) := by
  unfold execGatehouseReturn
  exact event_keepsMemories hs (State.answerRestarted_memoriesWf (State.endRecovery_memoriesWf (State.memoriesWf_update hs)))

theorem execGatehouseReturnTimeout_keepsMemories {s : State} (hs : s.memoriesWf = true) : KeepsMemories (execGatehouseReturnTimeout s) := by
  unfold execGatehouseReturnTimeout
  exact event_keepsMemories hs (State.internalRestart_memoriesWf hs)

theorem execRecoveryPeriodEnd_keepsMemories {kind unit : ℕ} {s : State} (hs : s.memoriesWf = true) :
    KeepsMemories (execRecoveryPeriodEnd kind unit s) := by
  unfold execRecoveryPeriodEnd
  exact event_keepsMemories hs (State.memoriesWf_ite (State.updComp_memoriesWf (State.memoriesWf_update hs)) (State.memoriesWf_update hs))

/-! ### FW_STAGE and FW_ACTIVATE (R591 to R595) -/

theorem execFwStage_keepsMemories {cells : Bytes} {host : HostImage} {s : State} (hs : s.memoriesWf = true) :
    KeepsMemories (execFwStage cells host s) := by
  unfold execFwStage
  dsimp only
  refine messageEvent_keepsMemories hs fun s seq hs => ?_
  split
  · exact State.refuse_memoriesWf _ _ _ _ _ _ (State.memoriesWf_update hs)
  · exact State.reply_memoriesWf _ _ _ _ (State.memoriesWf_update hs)

theorem activateEvent_keepsMemories {s : State} {cells : Bytes} {kind : Bool} {run : State → ℕ → State} (hs : s.memoriesWf = true)
    (hrun : ∀ t seq, t.memoriesWf = true → (run t seq).memoriesWf = true) : KeepsMemories (activateEvent s cells kind run) := by
  refine messageEvent_keepsMemories hs fun t seq ht => ?_
  split
  · exact State.refuse_memoriesWf _ _ _ _ _ _ ht
  · exact hrun _ _ ht

theorem execFwActivateNow_keepsMemories {cells : Bytes} {host : HostImage} {s : State} (hs : s.memoriesWf = true) :
    KeepsMemories (execFwActivateNow cells host s) := by
  unfold execFwActivateNow
  exact activateEvent_keepsMemories hs fun _ _ hs => State.memoriesWf_ite (State.refuse_memoriesWf _ _ _ _ _ _ hs) (State.memoriesWf_ite
      (State.refuseFull_memoriesWf hs) (State.memoriesWf_update hs))

theorem execFwActivateAtReset_keepsMemories {cells : Bytes} {host : HostImage} {s : State} (hs : s.memoriesWf = true) :
    KeepsMemories (execFwActivateAtReset cells host s) := by
  unfold execFwActivateAtReset
  exact activateEvent_keepsMemories hs fun _ _ hs => State.reply_memoriesWf _ _ _ _ (State.memoriesWf_update hs)

theorem State.restartOn_memoriesWf {s : State} {k : ℕ} (hs : s.memoriesWf = true) : (s.restartOn k).memoriesWf = true := hs

theorem execComponentImageSwitch_keepsMemories {comp : ℕ} {s : State} (hs : s.memoriesWf = true) :
    KeepsMemories (execComponentImageSwitch comp s) := by
  unfold execComponentImageSwitch
  exact event_keepsMemories hs (State.restartOn_memoriesWf (State.undo_memoriesWf hs))

theorem execComponentMoveTimeout_keepsMemories {comp : ℕ} {s : State} (hs : s.memoriesWf = true) :
    KeepsMemories (execComponentMoveTimeout comp s) := by
  unfold execComponentMoveTimeout
  exact event_keepsMemories hs (State.restartOn_memoriesWf (State.stopComponent_memoriesWf hs))

/-! ### Compaction (R62, R63, R156) -/

theorem execCompaction_keepsMemories {coll part : ℕ} {s : State} (hs : s.memoriesWf = true) : KeepsMemories (execCompaction coll part s) := by
  unfold execCompaction
  split
  · exact keepsMemories_next hs
  · exact event_keepsMemories hs (State.noteEligible_memoriesWf (State.layout_memoriesWf (State.updColl_memoriesWf hs)))

/-! ### Clustering with long sums (R192 to R194, R247) -/

theorem execClusteringIteration_keepsMemories {coll job : ℕ} {s : State} (hs : s.memoriesWf = true) :
    KeepsMemories (execClusteringIteration coll job s) := by
  unfold execClusteringIteration
  split
  · exact keepsMemories_next hs
  · split
    · exact keepsMemories_next hs
    · exact event_keepsMemories hs (State.updColl_memoriesWf hs)

/-! ### New generations (R42, R189, R194, R197, R445, R716) -/

theorem State.endStack_memoriesWf {s : State} {stack : ℕ} (hs : s.memoriesWf = true) : (s.endStack stack).memoriesWf = true := hs

theorem State.redoAll_memoriesWf {s : State} {coll : ℕ} (hs : s.memoriesWf = true) : (s.redoAll coll).memoriesWf = true := by
  unfold State.redoAll
  refine State.foldl_memoriesWf (fun s x hs => ?_) _ hs
  split
  · exact State.memoriesWf_ite (State.redo_memoriesWf hs) hs
  · exact hs

theorem execGenerationPublish_keepsMemories {coll job : ℕ} {s : State} (hs : s.memoriesWf = true) :
    KeepsMemories (execGenerationPublish coll job s) := by
  unfold execGenerationPublish
  split
  · exact keepsMemories_next hs
  · split
    · exact keepsMemories_next hs
    · exact event_keepsMemories hs (State.replyLater_memoriesWf (State.memoriesWf_ite (State.announce_memoriesWf (State.foldl_memoriesWf
          (fun _ _ hs => State.endStack_memoriesWf hs) _ (State.sendRecord_memoriesWf (State.layout_memoriesWf (State.redoAll_memoriesWf
          (State.memoriesWf_updateStore (State.updColl_memoriesWf hs))))))) (State.foldl_memoriesWf (fun _ _ hs => State.endStack_memoriesWf hs) _
          (State.sendRecord_memoriesWf (State.layout_memoriesWf (State.redoAll_memoriesWf (State.memoriesWf_updateStore
          (State.updColl_memoriesWf hs))))))))

/-! ### Loading after a mount (R408, R409) -/

theorem execCollectionLoadEnd_keepsMemories {coll : ℕ} {s : State} (hs : s.memoriesWf = true) : KeepsMemories (execCollectionLoadEnd coll s) := by
  unfold execCollectionLoadEnd
  split
  · exact keepsMemories_next hs
  · exact event_keepsMemories hs (State.send_memoriesWf _ _ (State.layout_memoriesWf (State.updColl_memoriesWf hs)))

/-! ### Rebalancing (R189) -/

theorem State.startJob_memoriesWf {s : State} {coll : ℕ} {u : Upkeep} (hs : s.memoriesWf = true) : (s.startJob coll u).memoriesWf = true := hs

theorem execRebalanceStart_keepsMemories {coll part : ℕ} {s : State} (hs : s.memoriesWf = true) : KeepsMemories (execRebalanceStart coll part s) := by
  unfold execRebalanceStart
  split
  · exact keepsMemories_next hs
  · split
    · exact keepsMemories_next hs
    · exact event_keepsMemories hs (State.startJob_memoriesWf hs)

/-! ### The UPKEEP message (chapter 16) -/

theorem upkeepEvent_keepsMemories {s : State} {cells : Bytes} {kind : ℕ} {run : State → ℕ → Collection → State} (hs : s.memoriesWf = true)
    (hrun : ∀ t seq c, t.memoriesWf = true → (run t seq c).memoriesWf = true) : KeepsMemories (upkeepEvent s cells kind run) := by
  refine messageEvent_keepsMemories hs fun t seq ht => ?_
  split
  · exact State.refuse_memoriesWf _ _ _ _ _ _ ht
  · exact State.memoriesWf_ite (State.refuse_memoriesWf _ _ _ _ _ _ ht) (hrun _ _ _ ht)

theorem execUpkeepCentroidRetraining_keepsMemories {cells : Bytes} {host : HostImage} {s : State} (hs : s.memoriesWf = true) :
    KeepsMemories (execUpkeepCentroidRetraining cells host s) := by
  unfold execUpkeepCentroidRetraining
  exact upkeepEvent_keepsMemories hs fun _ _ _ hs => State.startJob_memoriesWf hs

theorem execUpkeepQuantiserTraining_keepsMemories {cells : Bytes} {host : HostImage} {s : State} (hs : s.memoriesWf = true) :
    KeepsMemories (execUpkeepQuantiserTraining cells host s) := by
  unfold execUpkeepQuantiserTraining
  exact upkeepEvent_keepsMemories hs fun _ _ _ hs => State.memoriesWf_ite (State.refuse_memoriesWf _ _ _ _ _ _ hs) (State.memoriesWf_ite
      (State.refuse_memoriesWf _ _ _ _ _ _ hs) (State.startJob_memoriesWf hs))

theorem execUpkeepRebuild_keepsMemories {cells : Bytes} {host : HostImage} {s : State} (hs : s.memoriesWf = true) :
    KeepsMemories (execUpkeepRebuild cells host s) := by
  unfold execUpkeepRebuild
  dsimp only
  refine upkeepEvent_keepsMemories hs fun s seq c hs => ?_
  split
  · exact State.refuse_memoriesWf _ _ _ _ _ _ hs
  · exact State.startJob_memoriesWf hs

theorem execUpkeepPartitionMove_keepsMemories {cells : Bytes} {host : HostImage} {s : State} (hs : s.memoriesWf = true) :
    KeepsMemories (execUpkeepPartitionMove cells host s) := by
  unfold execUpkeepPartitionMove
  dsimp only
  refine upkeepEvent_keepsMemories hs fun s seq c hs => ?_
  split
  · exact State.refuse_memoriesWf _ _ _ _ _ _ hs
  · exact State.memoriesWf_ite (State.refuse_memoriesWf _ _ _ _ _ _ hs) (State.memoriesWf_ite (State.refuse_memoriesWf _ _ _ _ _ _ hs)
        (State.memoriesWf_ite (State.openEpoch_memoriesWf hs) (State.launch_memoriesWf (State.memoriesWf_update hs))))

theorem execUpkeepRebalance_keepsMemories {cells : Bytes} {host : HostImage} {s : State} (hs : s.memoriesWf = true) :
    KeepsMemories (execUpkeepRebalance cells host s) := by
  unfold execUpkeepRebalance
  dsimp only
  refine upkeepEvent_keepsMemories hs fun s seq c hs => ?_
  split
  · exact State.refuse_memoriesWf _ _ _ _ _ _ hs
  · split
    · exact State.refuse_memoriesWf _ _ _ _ _ _ hs
    · exact State.memoriesWf_ite (State.refuse_memoriesWf _ _ _ _ _ _ hs) (State.startJob_memoriesWf hs)

/-! ### Places in T1 (R307, R308, log 8) -/

theorem State.loadImage_memoriesWf {s : State} {b : Bytes} {coll : ℕ} {payloads : Bool} {x : State × Program} (hs : s.memoriesWf = true)
    (found : s.loadImage b coll payloads = some x) : x.1.memoriesWf = true := by
  obtain ⟨y, hy, rfl⟩ := Option.map_eq_some_iff.1 found
  exact State.memoriesWf_update (State.writeT1_memoriesWf _ _ _ (State.writeT1_memoriesWf _ _ _ (State.findSpread_memoriesWf hs hy)))

theorem execProgramLoad_keepsMemories {cells : Bytes} {host : HostImage} {s : State} (hs : s.memoriesWf = true) :
    KeepsMemories (execProgramLoad cells host s) := by
  refine messageEvent_keepsMemories hs fun t seq ht => ?_
  split
  · exact State.refuse_memoriesWf _ _ _ _ _ _ ht
  · split
    · exact State.refuse_memoriesWf _ _ _ _ _ _ ht
    · rename_i found
      split at found
      · cases found
      · exact State.reply_memoriesWf _ _ _ _ (State.loadImage_memoriesWf ht found)

theorem execProgramUnload_keepsMemories {cells : Bytes} {host : HostImage} {s : State} (hs : s.memoriesWf = true) :
    KeepsMemories (execProgramUnload cells host s) := by
  unfold execProgramUnload
  dsimp only
  refine messageEvent_keepsMemories hs fun s seq hs => ?_
  split
  · exact State.refuse_memoriesWf _ _ _ _ _ _ hs
  · exact State.memoriesWf_ite (State.refuse_memoriesWf _ _ _ _ _ _ hs) (State.reply_memoriesWf _ _ _ _ (State.freeRegions_memoriesWf
        (State.memoriesWf_update hs)))

/-! ### Starting teams (R261 to R263, R267, R314 to R316, R332) -/

theorem State.saveTeams_memoriesWf {s : State} {r : Run} {p : Program} {gone : List ℕ} (hs : s.memoriesWf = true) :
    (s.saveTeams r p gone).memoriesWf = true := by
  unfold State.saveTeams
  exact State.foldl_memoriesWf (fun _ _ hs => (State.memoriesWf_updateMem (State.updRun_memoriesWf hs))) _ hs

theorem State.moveTeams_memoriesWf {s : State} (hs : s.memoriesWf = true) : s.moveTeams.memoriesWf = true := by
  unfold State.moveTeams
  refine State.foldl_memoriesWf (fun s x hs => ?_) _ hs
  split
  · exact State.saveTeams_memoriesWf hs
  · exact hs

theorem execTeamStart_keepsMemories {run : ℕ} {placed : List (ℕ × ℕ)} {s : State} (hs : s.memoriesWf = true) :
    KeepsMemories (execTeamStart run placed s) := by
  unfold execTeamStart
  split
  · exact keepsMemories_next hs
  · split
    · exact keepsMemories_next hs
    · extract_lets waiting held ok cleared placing
      have hcleared : cleared.memoriesWf = true := by
        unfold cleared
        split
        · exact State.updCmd_memoriesWf (State.memoriesWf_ite hs (State.writeT1_memoriesWf _ _ _ hs))
        · exact hs
      have hplacing : placing.memoriesWf = true := State.interruptTests_memoriesWf (State.updRun_memoriesWf hcleared)
      refine event_keepsMemories hs ?_
      split
      · exact State.settled_memoriesWf hs (State.settleRun_memoriesWf (State.updRun_memoriesWf (State.wordRecord_memoriesWf hplacing)))
      · exact State.updRun_memoriesWf hplacing

/-! ### Transfers (R272, R283, R284, R306, R310, R388) -/

theorem State.transferRecord_memoriesWf {s : State} {r : Run} {t : Transfer} {f : Fmt} (hs : s.memoriesWf = true) :
    (s.transferRecord r t f).memoriesWf = true := by
  unfold State.transferRecord
  dsimp only
  split
  · exact State.memoriesWf_elim _ hs fun _ => State.wordRecord_memoriesWf hs
  · exact State.memoriesWf_elim _ hs fun _ => State.record_memoriesWf _ _ hs
  · exact hs

theorem execTransferComplete_keepsMemories {run transfer : ℕ} {host : HostImage} {s : State} (hs : s.memoriesWf = true) :
    KeepsMemories (execTransferComplete run transfer host s) := by
  unfold execTransferComplete
  split
  · exact keepsMemories_next hs
  · split
    · split
      · exact event_keepsMemories hs (State.settled_memoriesWf hs (State.announceBar_memoriesWf (State.settleRun_memoriesWf (State.memoriesWf_ite
            (State.updRun_memoriesWf (State.updRun_memoriesWf (State.transferRecord_memoriesWf hs))) (State.updRun_memoriesWf
            (State.updRun_memoriesWf (State.carryOut_memoriesWf hs)))))))
      · exact keepsMemories_next hs
    · exact keepsMemories_next hs

/-! ### The end of a run (R257, R305, R320) -/

theorem execCycleLimit_keepsMemories {run team : ℕ} {s : State} (hs : s.memoriesWf = true) : KeepsMemories (execCycleLimit run team s) := by
  unfold execCycleLimit
  split
  · exact keepsMemories_next hs
  · dsimp only
    split
    · exact event_keepsMemories hs (State.settled_memoriesWf hs (State.draw_memoriesWf (State.faultRun_memoriesWf hs)))
    · exact keepsMemories_next hs

theorem State.endEmbed_memoriesWf {s : State} {r : Run} {cid first count : ℕ} (hs : s.memoriesWf = true) :
    (s.endEmbed r cid first count).memoriesWf = true := by
  unfold State.endEmbed
  split
  · dsimp only
    split
    · exact State.complete_memoriesWf _ _ _ (State.dropWork_memoriesWf hs)
    · exact State.updMutation_memoriesWf hs
  · exact hs

theorem State.endRerank_memoriesWf {s : State} {r : Run} {cid member : ℕ} (hs : s.memoriesWf = true) :
    (s.endRerank r cid member).memoriesWf = true := by
  unfold State.endRerank
  split
  · exact hs
  · exact State.updCmd_memoriesWf hs

theorem execProgramEnd_keepsMemories {run : ℕ} {s : State} (hs : s.memoriesWf = true) : KeepsMemories (execProgramEnd run s) := by
  unfold execProgramEnd
  split
  · exact keepsMemories_next hs
  · split
    · exact keepsMemories_next hs
    · dsimp only
      refine event_keepsMemories hs ?_
      split
      · exact State.complete_memoriesWf _ _ _ (State.writeT1_memoriesWf _ _ _ (State.removeRun_memoriesWf hs))
      · exact State.endEmbed_memoriesWf (State.removeRun_memoriesWf hs)
      · exact State.endRerank_memoriesWf (State.removeRun_memoriesWf hs)

/-! ### Embedding batches and reranks (R171, R320) -/

theorem State.argTensors_memoriesWf {s : State} {l : List (ℕ × TensorDesc)} {x : State × List (ℕ × TensorDesc)} (hs : s.memoriesWf = true)
    (found : s.argTensors l = some x) : x.1.memoriesWf = true := by
  obtain ⟨y, hy, rfl⟩ := Option.map_eq_some_iff.1 found
  exact State.findSpread_memoriesWf hs hy

theorem execEmbedBatch_keepsMemories {cid first count : ℕ} {s : State} (hs : s.memoriesWf = true) :
    KeepsMemories (execEmbedBatch cid first count s) := by
  unfold execEmbedBatch
  split
  · exact keepsMemories_next hs
  · split
    · dsimp only
      split
      · exact keepsMemories_next hs
      · rename_i found
        exact event_keepsMemories hs (State.newRun_memoriesWf (State.writeT1_memoriesWf _ _ _ (State.writeT1_memoriesWf _ _ _
            (State.argTensors_memoriesWf hs found))))
    · exact keepsMemories_next hs

/-! ### What a rising stage adds (R105, R108, R316, R389, R635, R636) -/

theorem State.addStage1_memoriesWf {s : State} (hs : s.memoriesWf = true) : s.addStage1.memoriesWf = true := by
  unfold State.addStage1
  exact State.memoriesWf_update (State.foldl_memoriesWf (fun _ _ hs => (State.removeRun_memoriesWf (State.finishMoves_memoriesWf hs))) _ hs)

theorem State.addStage2_memoriesWf {s : State} (hs : s.memoriesWf = true) : s.addStage2.memoriesWf = true := by
  unfold State.addStage2
  exact State.endAll_memoriesWf hs

theorem State.addStage3_memoriesWf {s : State} (hs : s.memoriesWf = true) : s.addStage3.memoriesWf = true := by
  unfold State.addStage3
  exact State.endAll_memoriesWf hs

theorem State.flushJournal_memoriesWf {s : State} (hs : s.memoriesWf = true) : s.flushJournal.memoriesWf = true := by
  unfold State.flushJournal
  split
  · exact hs
  · refine State.foldl_memoriesWf (fun s x hs => ?_) _ hs
    dsimp only
    split
    · exact State.memoriesWf_ite hs (State.tryCommit_memoriesWf (State.updMutation_memoriesWf (State.memoriesWf_updateStore hs)))
    · exact hs

theorem State.addStage5_memoriesWf {s : State} (hs : s.memoriesWf = true) : s.addStage5.memoriesWf = true := by
  unfold State.addStage5
  exact State.endAll_memoriesWf (State.flushJournal_memoriesWf hs)

theorem State.addStages_memoriesWf {s : State} (hs : s.memoriesWf = true) : s.addStages.memoriesWf = true := by
  unfold State.addStages
  exact State.memoriesWf_update (State.memoriesWf_ite (State.addStage5_memoriesWf (State.memoriesWf_ite (State.addStage3_memoriesWf
      (State.memoriesWf_ite (State.addStage2_memoriesWf (State.memoriesWf_ite (State.addStage1_memoriesWf hs) hs)) (State.memoriesWf_ite
      (State.addStage1_memoriesWf hs) hs))) (State.memoriesWf_ite (State.addStage2_memoriesWf (State.memoriesWf_ite
      (State.addStage1_memoriesWf hs) hs)) (State.memoriesWf_ite (State.addStage1_memoriesWf hs) hs)))) (State.memoriesWf_ite
      (State.addStage3_memoriesWf (State.memoriesWf_ite (State.addStage2_memoriesWf (State.memoriesWf_ite (State.addStage1_memoriesWf hs) hs))
      (State.memoriesWf_ite (State.addStage1_memoriesWf hs) hs))) (State.memoriesWf_ite (State.addStage2_memoriesWf (State.memoriesWf_ite
      (State.addStage1_memoriesWf hs) hs)) (State.memoriesWf_ite (State.addStage1_memoriesWf hs) hs))))

theorem State.restage_memoriesWf {s : State} {old : ℕ} (hs : s.memoriesWf = true) : (s.restage old).memoriesWf = true := by
  unfold State.restage
  exact State.memoriesWf_ite (State.announce_memoriesWf (State.memoriesWf_update (State.memoriesWf_ite (State.memoriesWf_update
      (State.addStages_memoriesWf hs)) (State.addStages_memoriesWf hs)))) (State.memoriesWf_ite (State.memoriesWf_update
      (State.addStages_memoriesWf hs)) (State.addStages_memoriesWf hs))

/-! ### The ledger loop (R627 to R633, R639, R696, R727) -/

theorem State.thermalStep_memoriesWf {s : State} {die : ℤ} (hs : s.memoriesWf = true) : (s.thermalStep die).memoriesWf = true := by
  unfold State.thermalStep
  exact State.memoriesWf_ite (State.memoriesWf_update hs) (State.memoriesWf_ite (State.memoriesWf_ite (State.memoriesWf_update hs)
      (State.memoriesWf_update hs)) (State.memoriesWf_update hs))

theorem State.capStep_memoriesWf {s : State} {p : ℕ} (hs : s.memoriesWf = true) : (s.capStep p).memoriesWf = true := hs

theorem State.writeDefaultCap_memoriesWf {s : State} (hs : s.memoriesWf = true) : s.writeDefaultCap.memoriesWf = true := hs

theorem State.answerCaps_memoriesWf {s : State} (hs : s.memoriesWf = true) : s.answerCaps.memoriesWf = true := by
  unfold State.answerCaps
  exact State.foldl_memoriesWf (fun _ _ hs => (State.replyLater_memoriesWf (State.memoriesWf_ite (State.writeDefaultCap_memoriesWf hs) hs))) _
      (State.memoriesWf_update hs)

theorem State.smbUpdate_memoriesWf {s : State} {r : LoopReading} (hs : s.memoriesWf = true) : (s.smbUpdate r).memoriesWf = true := hs

theorem State.smbUnpowered_memoriesWf {s : State} {r : LoopReading} (hs : s.memoriesWf = true) : (s.smbUnpowered r).memoriesWf = true := hs

theorem execLedgerLoop_keepsMemories {r : LoopReading} {s : State} (hs : s.memoriesWf = true) : KeepsMemories (execLedgerLoop r s) := by
  unfold execLedgerLoop
  exact event_keepsMemories hs (State.memoriesWf_ite (State.smbUpdate_memoriesWf (State.answerCaps_memoriesWf (State.memoriesWf_update
      (State.memoriesWf_ite (State.restage_memoriesWf (State.capStep_memoriesWf (State.memoriesWf_ite (State.thermalStep_memoriesWf
      (State.memoriesWf_ite (State.memoriesWf_update (State.memoriesWf_update hs)) (State.memoriesWf_update hs))) (State.memoriesWf_ite
      (State.memoriesWf_update (State.memoriesWf_update hs)) (State.memoriesWf_update hs))))) (State.memoriesWf_ite (State.thermalStep_memoriesWf
      (State.memoriesWf_ite (State.memoriesWf_update (State.memoriesWf_update hs)) (State.memoriesWf_update hs))) (State.memoriesWf_ite
      (State.memoriesWf_update (State.memoriesWf_update hs)) (State.memoriesWf_update hs))))))) (State.smbUnpowered_memoriesWf
      (State.memoriesWf_update hs)))

theorem execPowerClamp_keepsMemories {mean : ℕ} {s : State} (hs : s.memoriesWf = true) : KeepsMemories (execPowerClamp mean s) := by
  unfold execPowerClamp
  exact event_keepsMemories hs (State.memoriesWf_ite (State.memoriesWf_update hs) (State.memoriesWf_update hs))

theorem execPowerCap_keepsMemories {cells : Bytes} {host : HostImage} {s : State} (hs : s.memoriesWf = true) :
    KeepsMemories (execPowerCap cells host s) := by
  unfold execPowerCap
  exact messageEvent_keepsMemories hs fun _ _ hs => State.memoriesWf_update hs

/-! ### Voltage and PWRBRK# (R632, R634, R637, R691) -/

theorem execVoltageStageRise_keepsMemories {millivolts : ℕ} {s : State} (hs : s.memoriesWf = true) :
    KeepsMemories (execVoltageStageRise millivolts s) := by
  unfold execVoltageStageRise
  exact event_keepsMemories hs (State.restage_memoriesWf (State.memoriesWf_update hs))

theorem execVoltageStageFall_keepsMemories {millivolts : ℕ} {s : State} (hs : s.memoriesWf = true) :
    KeepsMemories (execVoltageStageFall millivolts s) := by
  unfold execVoltageStageFall
  exact event_keepsMemories hs (State.restage_memoriesWf (State.memoriesWf_update hs))

theorem execPwrbrkAssert_keepsMemories {s : State} (hs : s.memoriesWf = true) : KeepsMemories (execPwrbrkAssert s) := by
  unfold execPwrbrkAssert
  exact event_keepsMemories hs (State.memoriesWf_ite (State.restage_memoriesWf (State.memoriesWf_update hs)) (State.memoriesWf_update hs))

theorem execPwrbrkDeassert_keepsMemories {s : State} (hs : s.memoriesWf = true) : KeepsMemories (execPwrbrkDeassert s) := by
  unfold execPwrbrkDeassert
  exact event_keepsMemories hs (State.memoriesWf_ite (State.restage_memoriesWf (State.memoriesWf_update hs)) (State.memoriesWf_update hs))

theorem execSupplyOutOfSpec_keepsMemories {millivolts : ℕ} {s : State} (hs : s.memoriesWf = true) :
    KeepsMemories (execSupplyOutOfSpec millivolts s) := by
  unfold execSupplyOutOfSpec
  exact event_keepsMemories hs (State.raise_memoriesWf hs)

/-! ### Temperatures (R640, R641) -/

theorem State.holdStage_memoriesWf {s : State} {sensor : Sensor} {stage : ℕ} (hs : s.memoriesWf = true) :
    (s.holdStage sensor stage).memoriesWf = true := hs

theorem execThermalThreshold_keepsMemories {sensor : Sensor} {temp : ℤ} {s : State} (hs : s.memoriesWf = true) :
    KeepsMemories (execThermalThreshold sensor temp s) := by
  unfold execThermalThreshold
  extract_lets _ flash held
  have hflash : flash.memoriesWf = true := by
    unfold flash
    split
    · exact State.memoriesWf_update hs
    · exact hs
  have hheld : held.memoriesWf = true := by
    unfold held
    split
    · exact State.memoriesWf_ite (State.holdStage_memoriesWf hflash) hflash
    · exact hflash
  exact event_keepsMemories hs (State.memoriesWf_ite (State.restage_memoriesWf hheld) hheld)

theorem execThermalStageEnd_keepsMemories {sensor : Sensor} {s : State} (hs : s.memoriesWf = true) :
    KeepsMemories (execThermalStageEnd sensor s) := by
  unfold execThermalStageEnd
  exact event_keepsMemories hs (State.memoriesWf_ite (State.restage_memoriesWf (State.memoriesWf_update hs)) (State.memoriesWf_update hs))

theorem execThermalLimit_keepsMemories {sensor : Sensor} {temp : ℤ} {s : State} (hs : s.memoriesWf = true) :
    KeepsMemories (execThermalLimit sensor temp s) := by
  unfold execThermalLimit
  exact event_keepsMemories hs (State.raise_memoriesWf hs)

/-! ### Clusters and dies asleep (R22, R333, R625, R626) -/

theorem execClusterSleep_keepsMemories {cluster : ℕ} {s : State} (hs : s.memoriesWf = true) : KeepsMemories (execClusterSleep cluster s) := by
  unfold execClusterSleep
  exact event_keepsMemories hs (State.memoriesWf_update hs)

theorem State.wakeCluster_memoriesWf {s : State} {cluster : ℕ} (hs : s.memoriesWf = true) : (s.wakeCluster cluster).memoriesWf = true := hs

theorem execClusterWake_keepsMemories {cluster : ℕ} {s : State} (hs : s.memoriesWf = true) : KeepsMemories (execClusterWake cluster s) := by
  unfold execClusterWake
  exact event_keepsMemories hs (State.wakeCluster_memoriesWf hs)

theorem execPrewake_keepsMemories {cluster : ℕ} {s : State} (hs : s.memoriesWf = true) : KeepsMemories (execPrewake cluster s) := by
  unfold execPrewake
  exact event_keepsMemories hs (State.wakeCluster_memoriesWf hs)

theorem execDieDeepSleep_keepsMemories {die : ℕ} {s : State} (hs : s.memoriesWf = true) : KeepsMemories (execDieDeepSleep die s) := by
  unfold execDieDeepSleep
  exact event_keepsMemories hs (State.memoriesWf_updateMem hs)

theorem execDieWake_keepsMemories {die : ℕ} {s : State} (hs : s.memoriesWf = true) : KeepsMemories (execDieWake die s) := by
  unfold execDieWake
  exact event_keepsMemories hs (State.memoriesWf_updateMem hs)

/-! ### The scan ledger (R80, R81, R84) -/

theorem State.chargeScan_memoriesWf {s : State} {stack bytes : ℕ} (hs : s.memoriesWf = true) : (s.chargeScan stack bytes).memoriesWf = true := hs

theorem State.releaseScan_memoriesWf {s : State} {coord stack bytes : ℕ} (hs : s.memoriesWf = true) :
    (s.releaseScan coord stack bytes).memoriesWf = true := hs

/-! ### Scan jobs (R84, R93, R148) -/

theorem State.beginPass_memoriesWf {s : State} {c : Collection} {n i part : ℕ} (hs : s.memoriesWf = true) :
    (s.beginPass c n i part).memoriesWf = true := by
  unfold State.beginPass
  split
  · exact hs
  · dsimp only
    split
    · exact State.updMember_memoriesWf hs
    · refine State.updMember_memoriesWf ?_
      split
      · exact State.memoriesWf_ite (State.releaseScan_memoriesWf (State.queueJob_memoriesWf hs)) (State.queueJob_memoriesWf hs)
      · exact State.queueJob_memoriesWf hs

theorem State.beginScan_memoriesWf {s : State} {c : Collection} {n i : ℕ} {parts : List ℕ} (hs : s.memoriesWf = true) :
    (s.beginScan c n i parts).memoriesWf = true := by
  unfold State.beginScan
  exact State.foldl_memoriesWf (fun _ _ hs => State.beginPass_memoriesWf hs) _ hs

/-! ### From stage to stage (R88, R94, R98, R119 to R123) -/

theorem State.fanRefine_memoriesWf {s : State} {c : Collection} {q : QueryWork} {g : Generation} {n : ℕ} (hs : s.memoriesWf = true) :
    (s.fanRefine c q g n).memoriesWf = true := by
  unfold State.fanRefine
  exact State.foldl_memoriesWf (fun _ _ hs => (State.foldl_memoriesWf (fun _ _ hs => (State.memoriesWf_ite (State.memoriesWf_update hs)
      (State.launch_memoriesWf hs))) _ (State.updMember_memoriesWf hs))) _ hs

theorem State.moveOn1_memoriesWf {s : State} {n : ℕ} (hs : s.memoriesWf = true) : (s.moveOn1 n).memoriesWf = true := by
  unfold State.moveOn1
  split
  · exact hs
  · split
    · exact State.memoriesWf_ite (State.updWork_memoriesWf hs) hs
    · exact State.memoriesWf_ite (State.memoriesWf_ite (State.fanRefine_memoriesWf (State.updWork_memoriesWf hs)) (State.updWork_memoriesWf hs)) hs
    · exact State.memoriesWf_ite (State.updWork_memoriesWf hs) hs
    · exact State.memoriesWf_ite (State.updWork_memoriesWf hs) hs
    · exact hs

theorem State.moveOn_memoriesWf {s : State} {n : ℕ} (hs : s.memoriesWf = true) : (s.moveOn n).memoriesWf = true := by
  unfold State.moveOn
  exact State.moveOn1_memoriesWf (State.moveOn1_memoriesWf (State.moveOn1_memoriesWf (State.moveOn1_memoriesWf hs)))

/-! ### Requests served for other coordinators (R337, R341, R618, R619) -/

theorem State.useNonce_memoriesWf {s : State} (hs : s.memoriesWf = true) : s.useNonce.memoriesWf = true := hs

theorem State.transits_memoriesWf {s : State} {c : Collection} {r : CollKey} {snap : ℕ} {l : List Entry} (hs : s.memoriesWf = true) :
    (s.transits c r snap l).1.memoriesWf = true := by
  refine State.foldl_fst_memoriesWf (fun x e hx => ?_) _ hs
  dsimp only
  split
  · exact hx
  · exact State.useNonce_memoriesWf hx

theorem State.answerIfDone_memoriesWf {s : State} {n : ℕ} (hs : s.memoriesWf = true) : (s.answerIfDone n).memoriesWf = true := by
  unfold State.answerIfDone
  split
  · exact hs
  · split
    · rename_i r _ _ _ c m _ _
      dsimp only
      have sealed {o : Option CollKey} {b : Bool} {l : List Entry} : (match o with
          | some k => if b then s.transits c k r.work.snapshot l else (s, [])
          | none => (s, [])).1.memoriesWf = true := by
        cases o with
        | none => exact hs
        | some k =>
          dsimp only
          split
          · exact State.transits_memoriesWf hs
          · exact hs
      exact State.memoriesWf_ite (State.memoriesWf_ite (State.answer_memoriesWf sealed) hs)
        (State.memoriesWf_ite (State.answer_memoriesWf sealed) hs)
    · exact hs

theorem State.progress_memoriesWf {s : State} {n : ℕ} (hs : s.memoriesWf = true) : (s.progress n).memoriesWf = true := by
  unfold State.progress
  exact State.memoriesWf_ite (State.moveOn_memoriesWf hs) (State.answerIfDone_memoriesWf hs)

/-! ### The walk (R80, R89 to R91, R196, R197, R448, R450) -/

theorem State.fanScan_memoriesWf {s : State} {c : Collection} {q : QueryWork} {m : Member} {n : ℕ} (hs : s.memoriesWf = true) :
    (s.fanScan c q m n).memoriesWf = true := by
  unfold State.fanScan
  exact State.foldl_memoriesWf (fun _ _ hs => (State.memoriesWf_ite (State.memoriesWf_update hs) (State.launch_memoriesWf hs))) _ hs

theorem State.walkEnd_memoriesWf {s : State} {c : Collection} {q : QueryWork} {g : Generation} {m : Member} {n : ℕ} (hs : s.memoriesWf = true) :
    (s.walkEnd c q g m n).memoriesWf = true := by
  unfold State.walkEnd
  dsimp only
  have walked {f : Member → Member} {word : Option ℕ} : ((word.elim s (s.poisonRecord n)).updMember n m.idx f).memoriesWf = true :=
    State.updMember_memoriesWf (State.memoriesWf_elim _ hs fun _ => State.poisonRecord_memoriesWf hs)
  exact State.memoriesWf_ite (State.endMember_memoriesWf walked) (State.memoriesWf_ite (State.endMember_memoriesWf walked)
    (State.memoriesWf_ite (State.fanScan_memoriesWf walked)
      (State.beginScan_memoriesWf (State.foldl_memoriesWf (fun _ _ hs => State.chargeScan_memoriesWf hs) _ walked))))

theorem execWalkEnd_keepsMemories {cid member : ℕ} {s : State} (hs : s.memoriesWf = true) : KeepsMemories (execWalkEnd cid member s) := by
  unfold execWalkEnd
  split
  · exact keepsMemories_next hs
  · split
    · split
      · exact event_keepsMemories hs (State.settled_memoriesWf hs (State.progress_memoriesWf (State.walkEnd_memoriesWf hs)))
      · exact keepsMemories_next hs
    · exact keepsMemories_next hs

/-! ### Lane passes (R92, R93, R138, R143 to R155) -/

theorem execLanePassStart_keepsMemories {lane : ℕ} {s : State} (hs : s.memoriesWf = true) : KeepsMemories (execLanePassStart lane s) := by
  unfold execLanePassStart
  split
  · exact keepsMemories_next hs
  · exact event_keepsMemories hs (State.startPass_memoriesWf hs)

theorem State.endEntry_memoriesWf {s : State} {p : LanePass} {e : PassEntry} (hs : s.memoriesWf = true) : (s.endEntry p e).memoriesWf = true := by
  unfold State.endEntry
  split
  · exact hs
  · split
    · exact hs
    · exact State.memoriesWf_ite (State.progress_memoriesWf (State.updMember_memoriesWf hs)) (State.memoriesWf_ite (State.beginPass_memoriesWf
          (State.updMember_memoriesWf hs)) (State.updMember_memoriesWf hs))

theorem State.endScan_memoriesWf {s : State} {p : LanePass} {rid tid : ℕ} (hs : s.memoriesWf = true) : (s.endScan p rid tid).memoriesWf = true := by
  unfold State.endScan
  split
  · exact hs
  · exact State.announceBar_memoriesWf (State.settleRun_memoriesWf (State.updRun_memoriesWf (State.foldl_memoriesWf
        (fun _ _ hs => State.updRun_memoriesWf hs) _ hs)))

theorem execLanePassEnd_keepsMemories {lane : ℕ} {s : State} (hs : s.memoriesWf = true) : KeepsMemories (execLanePassEnd lane s) := by
  unfold execLanePassEnd
  split
  · exact keepsMemories_next hs
  · dsimp only
    refine event_keepsMemories hs ?_
    split
    · exact State.memoriesWf_ite (State.memoriesWf_update hs) (State.endScan_memoriesWf (State.memoriesWf_update hs))
    · exact State.foldl_memoriesWf (fun _ _ hs => State.endEntry_memoriesWf hs) _ (State.memoriesWf_update hs)

theorem execLaneEccError_keepsMemories {lane address : ℕ} {s : State} (hs : s.memoriesWf = true) :
    KeepsMemories (execLaneEccError lane address s) := by
  unfold execLaneEccError
  split
  · exact keepsMemories_next hs
  · extract_lets _ dropped recorded ended
    have hrecorded : recorded.memoriesWf = true := State.record_memoriesWf _ _ (State.memoriesWf_update hs)
    refine keepsMemories_next (State.settled_memoriesWf hs ?_)
    unfold ended
    split
    · exact State.settleRun_memoriesWf (State.updRun_memoriesWf hrecorded)
    · exact State.foldl_memoriesWf (fun _ _ hs => State.endMember_memoriesWf hs) _ hrecorded

/-! ### Refinement (R95, R96, R402) -/

theorem State.earlyRead_memoriesWf {s t : State} {q : QueryWork} {reads : ℕ} (hs : s.memoriesWf = true) (found : s.earlyRead q reads = some t) :
    t.memoriesWf = true := by
  unfold State.earlyRead at found
  dsimp only at found
  split at found
  · obtain rfl := Option.some.inj found
    exact hs
  · split at found
    · obtain rfl := Option.some.inj found
      exact State.memoriesWf_update hs
    · cases found

theorem execRefineReadDone_keepsMemories {cid member id : ℕ} {s : State} (hs : s.memoriesWf = true) :
    KeepsMemories (execRefineReadDone cid member id s) := by
  unfold execRefineReadDone
  split
  · exact keepsMemories_next hs
  · split
    · exact event_keepsMemories hs (State.progress_memoriesWf (State.updMember_memoriesWf ((State.flashRead_memoriesWf _ _ _ _).trans
        (State.memoriesWf_getD (fun _ ht => State.earlyRead_memoriesWf hs ht) hs))))
    · exact keepsMemories_next hs

theorem State.refineLost_memoriesWf {s : State} {c : Cmd} {sector : ℕ} (hs : s.memoriesWf = true) : (s.refineLost c sector).memoriesWf = true := by
  unfold State.refineLost
  exact State.memoriesWf_updateStore (State.draw_memoriesWf (State.record_memoriesWf _ _ hs))

theorem execRefineReadTimeout_keepsMemories {cid : ℕ} {s : State} (hs : s.memoriesWf = true) : KeepsMemories (execRefineReadTimeout cid s) := by
  unfold execRefineReadTimeout
  split
  · exact keepsMemories_next hs
  · split
    · exact event_keepsMemories hs (State.settled_memoriesWf hs (State.progress_memoriesWf (State.foldl_memoriesWf
          (fun _ _ hs => State.endMember_memoriesWf hs) _ (State.foldl_memoriesWf (fun _ _ hs => State.refineLost_memoriesWf hs) _ hs))))
    · exact keepsMemories_next hs

/-! ### Rerank (R98, R319, R320, R335) -/

theorem State.rerankArgs_memoriesWf {s : State} {c : Collection} {q : QueryWork} {m : Member} {p : Program} {x : State × List (ℕ × TensorDesc)}
    (hs : s.memoriesWf = true) (found : s.rerankArgs c q m p = some x) : x.1.memoriesWf = true := by
  obtain ⟨y, hy, rfl⟩ := Option.map_eq_some_iff.1 found
  have write {u : State} {o : Option (ℕ × TensorDesc)} {b : Bytes} (hu : u.memoriesWf = true) :
      (match o with | some a => u.writeT1 a.2.address b | none => u).memoriesWf = true := by
    split
    · exact State.writeT1_memoriesWf _ _ _ hu
    · exact hu
  exact State.draw_memoriesWf (write (write (write (State.argTensors_memoriesWf hs hy))))

theorem State.rerankRoom_memoriesWf {s t : State} {q : QueryWork} (hs : s.memoriesWf = true) (found : s.rerankRoom q = some t) : t.memoriesWf = true
    := by
  unfold State.rerankRoom at found
  dsimp only at found
  split at found
  · obtain rfl := Option.some.inj found
    exact hs
  · split at found
    · obtain rfl := Option.some.inj found
      exact State.memoriesWf_update hs
    · cases found

theorem execRerankInvocation_keepsMemories {cid member : ℕ} {s : State} (hs : s.memoriesWf = true) :
    KeepsMemories (execRerankInvocation cid member s) := by
  unfold execRerankInvocation
  split
  · exact keepsMemories_next hs
  · split
    · exact keepsMemories_next hs
    · refine event_keepsMemories hs (State.memoriesWf_ite (State.progress_memoriesWf (State.updMember_memoriesWf hs))
        (State.memoriesWf_getD (fun t ht => ?_) hs))
      obtain ⟨u, hu, hrun⟩ := Option.bind_eq_some_iff.1 ht
      obtain ⟨x, hx, rfl⟩ := Option.map_eq_some_iff.1 hrun
      exact State.newRun_memoriesWf (State.rerankArgs_memoriesWf (State.rerankRoom_memoriesWf hs hu) hx)

/-! ### The final round (R100, R101, R103, R124 to R129, R548, R549, R616 to R618) -/

theorem State.region_memoriesWf {s : State} {c : Collection} {q : QueryWork} {m : Member} {f : Final} {x : State × Bytes} (hs : s.memoriesWf = true)
    (found : s.region c q m f = some x) : x.1.memoriesWf = true := by
  unfold State.region at found
  split at found
  · obtain rfl := Option.some.inj found
    exact hs
  · split at found
    · cases found
    · split at found
      · cases found
      · obtain rfl := Option.some.inj found
        exact State.draw_memoriesWf (State.useNonce_memoriesWf hs)

theorem State.finalMember_memoriesWf {s : State} {c : Cmd} {k : Collection} {q : QueryWork} {m : Member} (hs : s.memoriesWf = true) :
    (s.finalMember c k q m).memoriesWf = true := by
  unfold State.finalMember
  split
  · exact State.updMember_memoriesWf hs
  · rename_i found
    exact State.updMember_memoriesWf (State.memoriesWf_ite (State.region_memoriesWf hs found) (State.hostWrite_memoriesWf
        (State.region_memoriesWf hs found)))

theorem execQueryFinal_keepsMemories {cid : ℕ} {s0 : State} (hss0 : s0.memoriesWf = true) : KeepsMemories (execQueryFinal cid s0) := by
  unfold execQueryFinal
  dsimp only
  split
  · exact keepsMemories_next (State.moveOn_memoriesWf hss0)
  · split
    · exact event_keepsMemories (State.moveOn_memoriesWf hss0) (State.complete_memoriesWf _ _ _ (State.foldl_memoriesWf
          (fun _ _ hs => State.finalMember_memoriesWf hs) _ (State.moveOn_memoriesWf hss0)))
    · exact keepsMemories_next (State.moveOn_memoriesWf hss0)

/-! ### Limits (R77, R642) -/

theorem execQueryBoundExpiry_keepsMemories {cid : ℕ} {s : State} (hs : s.memoriesWf = true) : KeepsMemories (execQueryBoundExpiry cid s) := by
  unfold execQueryBoundExpiry
  split
  · exact keepsMemories_next hs
  · split
    · exact keepsMemories_next hs
    · exact event_keepsMemories hs (State.complete_memoriesWf _ _ _ (State.dropWork_memoriesWf hs))

theorem execWaitLimitExpiry_keepsMemories {cid : ℕ} {s : State} (hs : s.memoriesWf = true) : KeepsMemories (execWaitLimitExpiry cid s) := by
  unfold execWaitLimitExpiry
  split
  · exact keepsMemories_next hs
  · split
    · exact keepsMemories_next hs
    · exact event_keepsMemories hs (State.complete_memoriesWf _ _ _ hs)

/-! ### R75 -/

theorem State.chargeRefine_memoriesWf {s : State} {total per start : ℕ} (hs : s.memoriesWf = true) :
    (s.chargeRefine total per start).memoriesWf = true := hs

/-! ### The admission -/

theorem State.admitQuery_memoriesWf {s : State} {cmd : Cmd} {c : Collection} {q : QueryWork} {g : Generation} {snap : ℕ} (hs : s.memoriesWf = true) :
    (s.admitQuery cmd c q g snap).memoriesWf = true := by
  unfold State.admitQuery
  exact State.memoriesWf_ite (State.complete_memoriesWf _ _ _ (State.memoriesWf_ite (State.memoriesWf_ite (State.memoriesWf_update
      (State.updCmd_memoriesWf hs)) (State.chargeRefine_memoriesWf (State.memoriesWf_update (State.updCmd_memoriesWf hs)))) (State.memoriesWf_update
      (State.memoriesWf_ite (State.memoriesWf_update (State.updCmd_memoriesWf hs)) (State.chargeRefine_memoriesWf (State.memoriesWf_update
      (State.updCmd_memoriesWf hs))))))) (State.memoriesWf_ite (State.memoriesWf_ite (State.memoriesWf_update (State.updCmd_memoriesWf hs))
      (State.chargeRefine_memoriesWf (State.memoriesWf_update (State.updCmd_memoriesWf hs)))) (State.memoriesWf_update (State.memoriesWf_ite
      (State.memoriesWf_update (State.updCmd_memoriesWf hs)) (State.chargeRefine_memoriesWf (State.memoriesWf_update (State.updCmd_memoriesWf hs))))))

theorem State.examineAll_memoriesWf {s : State} (hs : s.memoriesWf = true) : s.examineAll.memoriesWf = true := by
  unfold State.examineAll
  refine State.foldl_memoriesWf (fun s x hs => ?_) _ hs
  split
  · exact State.complete_memoriesWf _ _ _ hs
  · exact hs

theorem State.admitOne_memoriesWf {x : State × Bool} {cmd : Cmd} (hx : x.1.memoriesWf = true) : (State.admitOne x cmd).1.memoriesWf = true := by
  obtain ⟨s, blocked⟩ := x
  unfold State.admitOne
  dsimp only
  split
  · exact hx
  · split
    · exact hx
    · split
      · exact hx
      · split
        · exact hx
        · exact State.admitQuery_memoriesWf hx

theorem State.admitRound_memoriesWf {s : State} (hs : s.memoriesWf = true) : s.admitRound.memoriesWf = true :=
  State.memoriesWf_ite (State.examineAll_memoriesWf hs)
    (State.foldl_fst_memoriesWf (fun _ _ hx => State.admitOne_memoriesWf hx) _ (State.examineAll_memoriesWf hs))

/-! ### Transfers received (R342, R434, R460) -/

theorem State.takeBulk_memoriesWf {s : State} {flow : Flow} (hs : s.memoriesWf = true) : (s.takeBulk flow).memoriesWf = true := by
  unfold State.takeBulk
  split
  · exact State.memoriesWf_elim _ hs fun _ => State.writeT1_memoriesWf _ _ _ hs
  · exact State.memoriesWf_elim _ hs fun _ => State.launch_memoriesWf hs
  · obtain ⟨hhost, hhbm, ht2, hstore⟩ := (State.memoriesWf_iff s).1 hs
    exact State.memoriesWf_ite ((State.memoriesWf_iff _).2 ⟨hhost, hhbm, Mem.wf_write _ _ _ ht2, hstore⟩) hs
  · exact State.takeIndex_memoriesWf hs
  · exact hs

theorem State.arrive_memoriesWf {s : State} {slot port : ℕ} {flow : Flow} (hs : s.memoriesWf = true) :
    (s.arrive slot port flow).memoriesWf = true := by
  unfold State.arrive
  exact State.memoriesWf_ite (State.takeBulk_memoriesWf hs) (State.memoriesWf_ite (State.wakeWatcher_memoriesWf (State.memoriesWf_update hs))
      (State.memoriesWf_update hs))

theorem transferEvent_keepsMemories {s : State} {slot port : ℕ} {flow : Flow} (hs : s.memoriesWf = true) :
    KeepsMemories (transferEvent s slot port flow) :=
  event_keepsMemories hs (State.arrive_memoriesWf hs)

theorem execFanOutTransferReceived_keepsMemories {port : ℕ} {flow : Flow} {s : State} (hs : s.memoriesWf = true) :
    KeepsMemories (execFanOutTransferReceived port flow s) := by
  unfold execFanOutTransferReceived
  exact transferEvent_keepsMemories hs

theorem execReturnTransferReceived_keepsMemories {port : ℕ} {flow : Flow} {s : State} (hs : s.memoriesWf = true) :
    KeepsMemories (execReturnTransferReceived port flow s) := by
  unfold execReturnTransferReceived
  exact transferEvent_keepsMemories hs

theorem execBulkTransferReceived_keepsMemories {port : ℕ} {flow : Flow} {s : State} (hs : s.memoriesWf = true) :
    KeepsMemories (execBulkTransferReceived port flow s) := by
  unfold execBulkTransferReceived
  exact transferEvent_keepsMemories hs

/-! ### Slots (R342, R417, R434, R436, R437) -/

theorem State.putFlits_memoriesWf {s : State} {p : ℕ} {slot : TtSlot} {e : List ℕ} {l : List Flit} (hs : s.memoriesWf = true) :
    (s.putFlits p slot e l).memoriesWf = true := hs

theorem State.sendHop_memoriesWf {k : Hop → ℕ} {s : State} {h : Hop} (hs : s.memoriesWf = true) : (State.sendHop k s h).memoriesWf = true := by
  unfold State.sendHop
  split
  · exact State.memoriesWf_update hs
  · exact State.memoriesWf_ite (State.memoriesWf_update hs) (State.memoriesWf_ite (State.memoriesWf_update (State.putFlits_memoriesWf
        (State.draw_memoriesWf hs))) (State.memoriesWf_update (State.putFlits_memoriesWf (State.draw_memoriesWf hs))))

theorem State.sendAgain_memoriesWf {s : State} {p : ℕ} (hs : s.memoriesWf = true) : (s.sendAgain p).memoriesWf = true := by
  unfold State.sendAgain
  dsimp only
  refine State.foldl_memoriesWf (fun s x hs => ?_) _ (State.updPort_memoriesWf hs)
  split
  · exact State.memoriesWf_ite (State.putFlits_memoriesWf hs) (State.updPort_memoriesWf hs)
  · exact hs

theorem State.slotReports_memoriesWf {s : State} {x1 : TtSlot} (hs : s.memoriesWf = true) : (s.slotReports x1).memoriesWf = true := hs

theorem State.openSlot_memoriesWf {s : State} {slot : ℕ} (hs : s.memoriesWf = true) : (s.openSlot slot).memoriesWf = true := by
  unfold State.openSlot
  exact State.foldl_memoriesWf (fun _ _ hs => (State.memoriesWf_ite (State.slotReports_memoriesWf hs) hs)) _ (State.foldl_memoriesWf
      (fun _ _ hs => State.sendHop_memoriesWf hs) _ (State.memoriesWf_update hs))

theorem execFanOutSlot_keepsMemories {s : State} (hs : s.memoriesWf = true) : KeepsMemories (execFanOutSlot s) := by
  unfold execFanOutSlot
  exact event_keepsMemories hs (State.openSlot_memoriesWf hs)

theorem execReturnSlot_keepsMemories {s : State} (hs : s.memoriesWf = true) : KeepsMemories (execReturnSlot s) := by
  unfold execReturnSlot
  exact event_keepsMemories hs (State.openSlot_memoriesWf hs)

/-! ### T2 transfers (R386, R387, R389, R460) -/

theorem State.launchAll_memoriesWf {s : State} {l : List (ℕ × Load)} (hs : s.memoriesWf = true) : (s.launchAll l).1.memoriesWf = true := by
  refine State.foldl_fst_memoriesWf (fun x y hx => ?_) _ hs
  dsimp only
  split
  · exact State.memoriesWf_updateMem (State.launch_memoriesWf hx)
  · exact State.launch_memoriesWf hx

theorem State.flyMove_memoriesWf {s : State} {c : Cmd} (hs : s.memoriesWf = true) : (s.flyMove c).memoriesWf = true := by
  unfold State.flyMove
  split
  · split
    · exact hs
    · dsimp only
      exact State.updCmd_memoriesWf (State.writeRows_memoriesWf (State.launchAll_memoriesWf (State.draw_memoriesWf hs)))
  · exact hs

theorem State.flyTransfer_memoriesWf {s : State} {r : Run} {t : Transfer} (hs : s.memoriesWf = true) : (s.flyTransfer r t).memoriesWf = true := by
  unfold State.flyTransfer
  dsimp only
  split
  · exact State.memoriesWf_ite hs (State.updRun_memoriesWf (State.launchAll_memoriesWf (State.memoriesWf_ite (State.draw_memoriesWf
        (State.carryOut_memoriesWf hs)) hs)))
  · exact hs

theorem State.flyAll_memoriesWf {s : State} (hs : s.memoriesWf = true) : s.flyAll.memoriesWf = true := by
  unfold State.flyAll
  exact State.foldl_memoriesWf (fun _ _ hs => (State.foldl_memoriesWf (fun _ _ hs => State.flyTransfer_memoriesWf hs) _ hs)) _
      (State.foldl_memoriesWf (fun _ _ hs => State.flyMove_memoriesWf hs) _ hs)

theorem State.releaseWait_memoriesWf {s : State} {w : Wait} (hs : s.memoriesWf = true) : (s.releaseWait w).memoriesWf = true := hs

theorem execBulkSlot_keepsMemories {s : State} (hs : s.memoriesWf = true) : KeepsMemories (execBulkSlot s) := by
  unfold execBulkSlot
  exact event_keepsMemories hs (State.releaseWait_memoriesWf (State.openSlot_memoriesWf (State.memoriesWf_ite hs (State.foldl_memoriesWf
      (fun _ _ hs => State.sendAgain_memoriesWf hs) _ (State.flyAll_memoriesWf hs)))))

theorem State.lineNow_memoriesWf {s : State} {type : ℕ} {body : Bytes} (hs : s.memoriesWf = true) : (s.lineNow type body).memoriesWf = true := hs

theorem State.heartbeat_memoriesWf {s : State} (hs : s.memoriesWf = true) : s.heartbeat.memoriesWf = true := by
  unfold State.heartbeat
  exact State.memoriesWf_ite (State.lineNow_memoriesWf hs) hs

theorem State.putControl_memoriesWf {s : State} {p : ℕ} {l : List Ctrl} (hs : s.memoriesWf = true) : (s.putControl p l).memoriesWf = true := by
  unfold State.putControl
  split
  · exact State.updPort_memoriesWf hs
  · exact hs

theorem execControlSlot_keepsMemories {s : State} (hs : s.memoriesWf = true) : KeepsMemories (execControlSlot s) := by
  unfold execControlSlot
  exact event_keepsMemories hs (State.memoriesWf_update (State.foldl_memoriesWf (fun _ _ hs => State.putControl_memoriesWf hs) _
      (State.heartbeat_memoriesWf hs)))

/-! ### Replay (R425, R426, R428) -/

theorem State.flitLost_memoriesWf {s : State} {x1 : Lost} (hs : s.memoriesWf = true) : (s.flitLost x1).memoriesWf = true := by
  unfold State.flitLost
  split
  · exact State.memoriesWf_ite (State.cutQueries_memoriesWf (State.train_memoriesWf (State.portDown_memoriesWf hs))) hs
  · exact State.memoriesWf_ite (State.endAll_memoriesWf hs) (State.launch_memoriesWf hs)
  · exact State.memoriesWf_ite (State.endAll_memoriesWf hs) (State.launch_memoriesWf hs)
  · exact hs

theorem State.flitFound_memoriesWf {s : State} {x1 : Lost} (hs : s.memoriesWf = true) : (s.flitFound x1).memoriesWf = true := by
  unfold State.flitFound
  split
  · exact State.foldl_memoriesWf (fun _ _ hs => (State.memoriesWf_ite (State.receive_memoriesWf hs) hs)) _ hs
  · exact State.memoriesWf_ite (State.arrive_memoriesWf hs) hs

theorem execReplaySlot_keepsMemories {s : State} (hs : s.memoriesWf = true) : KeepsMemories (execReplaySlot s) := by
  unfold execReplaySlot
  exact event_keepsMemories hs (State.settled_memoriesWf hs (State.foldl_memoriesWf (fun _ _ hs => (State.memoriesWf_ite
      (State.flitFound_memoriesWf hs) (State.flitLost_memoriesWf hs))) _ (State.memoriesWf_update (State.draw_memoriesWf hs))))

/-! ### Consumption of what came for this module (R339, R341, R342, R618, R619) -/

theorem State.takeAsk_memoriesWf {s : State} {h : Hop} {refine : Bool} {a : Ask} (hs : s.memoriesWf = true) :
    (s.takeAsk h refine a).memoriesWf = true := by
  unfold State.takeAsk
  dsimp only
  split
  · exact State.launch_memoriesWf hs
  · split
    · exact State.launch_memoriesWf hs
    · exact State.memoriesWf_ite (State.launch_memoriesWf hs) (State.memoriesWf_ite (State.launch_memoriesWf hs) (State.memoriesWf_update hs))

theorem State.takeReturn_memoriesWf {s : State} {flow : Flow} (hs : s.memoriesWf = true) : (s.takeReturn flow).memoriesWf = true := by
  unfold State.takeReturn
  split
  · exact hs
  · split
    · exact hs
    · split
      · exact State.progress_memoriesWf (State.updMember_memoriesWf hs)
      · exact State.progress_memoriesWf (State.updMember_memoriesWf hs)
      · exact State.endMember_memoriesWf hs
      · exact hs

theorem State.consumeHops_memoriesWf {s : State} (hs : s.memoriesWf = true) : s.consumeHops.memoriesWf = true := by
  unfold State.consumeHops
  dsimp only
  refine State.foldl_memoriesWf (fun s x hs => ?_) _ (State.memoriesWf_update hs)
  split
  · exact State.takeAsk_memoriesWf hs
  · exact State.takeAsk_memoriesWf hs
  · exact State.takeBulk_memoriesWf hs
  · exact State.takeReturn_memoriesWf hs

/-! ### Charging (R339, R340) -/

theorem State.enter_memoriesWf {s : State} {coord key n : ℕ} (hs : s.memoriesWf = true) : (s.enter coord key n).memoriesWf = true := by
  unfold State.enter
  exact State.memoriesWf_update (State.memoriesWf_ite (State.chargeScan_memoriesWf hs) (State.memoriesWf_update hs))

theorem State.turnAway_memoriesWf {s : State} {r : Request} {status : ℕ} (hs : s.memoriesWf = true) : (s.turnAway r status).memoriesWf = true := by
  unfold State.turnAway
  exact State.memoriesWf_ite (State.endMember_memoriesWf (State.memoriesWf_update hs)) (State.launch_memoriesWf (State.memoriesWf_update hs))

theorem State.beginRequest_memoriesWf {s : State} {r : Request} (hs : s.memoriesWf = true) : (s.beginRequest r).memoriesWf = true := by
  unfold State.beginRequest
  dsimp only
  split
  · split
    · exact State.memoriesWf_update (State.foldl_memoriesWf (fun _ _ hs => State.enter_memoriesWf hs) _ hs)
    · split
      · exact State.progress_memoriesWf (State.beginScan_memoriesWf (State.updMember_memoriesWf (State.memoriesWf_update (State.foldl_memoriesWf
            (fun _ _ hs => State.enter_memoriesWf hs) _ hs))))
      · exact State.updMember_memoriesWf (State.memoriesWf_update (State.foldl_memoriesWf (fun _ _ hs => State.enter_memoriesWf hs) _ hs))
  · split
    · exact State.progress_memoriesWf (State.memoriesWf_ite (State.memoriesWf_update (State.foldl_memoriesWf
          (fun _ _ hs => State.enter_memoriesWf hs) _ hs)) (State.beginScan_memoriesWf (State.memoriesWf_update (State.foldl_memoriesWf
          (fun _ _ hs => State.enter_memoriesWf hs) _ hs))))
    · exact State.memoriesWf_update (State.foldl_memoriesWf (fun _ _ hs => State.enter_memoriesWf hs) _ hs)

theorem State.sharePass_memoriesWf {s : State} {l : List Request} (hs : s.memoriesWf = true) : (s.sharePass l).memoriesWf = true := by
  unfold State.sharePass
  exact State.foldl_memoriesWf (fun _ _ hs => (State.memoriesWf_ite (State.beginRequest_memoriesWf hs) hs)) _ hs

theorem State.chargeRequests_memoriesWf {s : State} (hs : s.memoriesWf = true) : s.chargeRequests.memoriesWf = true := by
  unfold State.chargeRequests
  exact State.foldl_memoriesWf (fun _ _ hs => (State.memoriesWf_ite (State.beginRequest_memoriesWf hs) (State.turnAway_memoriesWf hs))) _
      (State.sharePass_memoriesWf (State.foldl_memoriesWf (fun _ _ hs => State.turnAway_memoriesWf hs) _ hs))

theorem State.dropStale_memoriesWf {s : State} (hs : s.memoriesWf = true) : s.dropStale.memoriesWf = true := hs

/-! ### Errors of HBM words (R377, R378) -/

theorem execHbmCorrected_keepsMemories {channel page address : ℕ} {s : State} (hs : s.memoriesWf = true) :
    KeepsMemories (execHbmCorrected channel page address s) := by
  unfold execHbmCorrected
  exact event_keepsMemories hs (State.memoriesWf_ite (State.settled_memoriesWf hs (State.record_memoriesWf _ _ (State.memoriesWf_update hs)))
      (State.memoriesWf_update hs))

theorem State.poison_memoriesWf {s : State} {words : List ℕ} (hs : s.memoriesWf = true) : (s.poison words).memoriesWf = true := hs

theorem execHbmUncorrectable_keepsMemories {channel page address : ℕ} {s : State} (hs : s.memoriesWf = true) :
    KeepsMemories (execHbmUncorrectable channel page address s) := by
  unfold execHbmUncorrectable
  exact event_keepsMemories hs (State.settled_memoriesWf hs (State.record_memoriesWf _ _ (State.poison_memoriesWf hs)))

/-! ### Relief pages and splice entries (R379 to R384) -/

theorem State.updSplice_memoriesWf {s : State} {stack num : ℕ} {f : Splice → Splice} (hs : s.memoriesWf = true) :
    (s.updSplice stack num f).memoriesWf = true := hs

theorem State.repaired_memoriesWf {s : State} {channel : ℕ} (hs : s.memoriesWf = true) : (s.repaired channel).memoriesWf = true := by
  unfold State.repaired
  exact State.record_memoriesWf _ _ hs

/-! ### Page retirement (R196 to R198, R379, R380, R666) -/

theorem State.endLost_memoriesWf {s : State} {coll : ℕ} (hs : s.memoriesWf = true) : (s.endLost coll).memoriesWf = true := by
  unfold State.endLost
  exact State.foldl_memoriesWf (fun _ _ hs => State.endMember_memoriesWf hs) _ hs

theorem State.loseStructures_memoriesWf {s : State} {c : Collection} {runs : List (ℕ × ℕ)} (hs : s.memoriesWf = true) :
    (s.loseStructures c runs).memoriesWf = true := by
  unfold State.loseStructures
  exact State.endLost_memoriesWf (State.memoriesWf_ite (State.updColl_memoriesWf hs) (State.startJob_memoriesWf (State.updColl_memoriesWf hs)))

theorem State.mapPage_memoriesWf {s : State} {r : ℕ × ℕ × ℕ} (hs : s.memoriesWf = true) : (s.mapPage r).memoriesWf = true := by
  unfold State.mapPage
  split
  exact State.replyLater_memoriesWf (State.memoriesWf_ite (State.record_memoriesWf _ _ (State.foldl_memoriesWf
      (fun _ _ hs => State.loseStructures_memoriesWf hs) _ (State.poison_memoriesWf (State.memoriesWf_updateMem hs)))) (State.endRecovery_memoriesWf
      (State.endRecovery_memoriesWf (State.record_memoriesWf _ _ (State.foldl_memoriesWf (fun _ _ hs => State.loseStructures_memoriesWf hs) _
      (State.poison_memoriesWf (State.memoriesWf_updateMem hs)))))))

theorem State.mapPages_memoriesWf {s : State} (hs : s.memoriesWf = true) : s.mapPages.memoriesWf = true := by
  unfold State.mapPages
  exact State.foldl_memoriesWf (fun _ _ hs => (State.mapPage_memoriesWf (State.memoriesWf_updateMem hs))) _ hs

theorem execRetirePage_keepsMemories {cells : Bytes} {host : HostImage} {s : State} (hs : s.memoriesWf = true) :
    KeepsMemories (execRetirePage cells host s) := by
  unfold execRetirePage
  exact messageEvent_keepsMemories hs fun _ _ hs => State.memoriesWf_ite (State.refuse_memoriesWf _ _ _ _ _ _ hs) (State.memoriesWf_ite
      (State.refuse_memoriesWf _ _ _ _ _ _ hs) (State.memoriesWf_updateMem hs))

/-! ### HBM_REPAIR (R669 to R672) -/

theorem repairEvent_keepsMemories {s : State} {cells : Bytes} {action : ℕ} {run : State → ℕ → State} (hs : s.memoriesWf = true)
    (hrun : ∀ t seq, t.memoriesWf = true → (run t seq).memoriesWf = true) : KeepsMemories (repairEvent s cells action run) :=
  messageEvent_keepsMemories hs fun _ _ ht => State.memoriesWf_ite (State.refuse_memoriesWf _ _ _ _ _ _ ht) (hrun _ _ ht)

theorem execHbmRepairStatus_keepsMemories {cells : Bytes} {host : HostImage} {s : State} (hs : s.memoriesWf = true) :
    KeepsMemories (execHbmRepairStatus cells host s) := by
  unfold execHbmRepairStatus
  exact repairEvent_keepsMemories hs fun _ _ hs => State.reply_memoriesWf _ _ _ _ hs

theorem State.beginSplice_memoriesWf {s : State} {m : Bytes} {action seq : ℕ} (hs : s.memoriesWf = true) :
    (s.beginSplice m action seq).memoriesWf = true := by
  unfold State.beginSplice
  dsimp only
  split
  · exact State.refuse_memoriesWf _ _ _ _ _ _ hs
  · exact State.memoriesWf_ite (State.refuse_memoriesWf _ _ _ _ _ _ hs) (State.memoriesWf_updateMem hs)

theorem execHbmRepairLaneRemap_keepsMemories {cells : Bytes} {host : HostImage} {s : State} (hs : s.memoriesWf = true) :
    KeepsMemories (execHbmRepairLaneRemap cells host s) := by
  unfold execHbmRepairLaneRemap
  exact repairEvent_keepsMemories hs fun _ _ hs => State.beginSplice_memoriesWf hs

theorem execHbmRepairRowReplacement_keepsMemories {cells : Bytes} {host : HostImage} {s : State} (hs : s.memoriesWf = true) :
    KeepsMemories (execHbmRepairRowReplacement cells host s) := by
  unfold execHbmRepairRowReplacement
  exact repairEvent_keepsMemories hs fun _ _ hs => State.beginSplice_memoriesWf hs

theorem execHbmRepairPostPackageRepair_keepsMemories {cells : Bytes} {host : HostImage} {s : State} (hs : s.memoriesWf = true) :
    KeepsMemories (execHbmRepairPostPackageRepair cells host s) := by
  unfold execHbmRepairPostPackageRepair
  dsimp only
  refine repairEvent_keepsMemories hs fun s seq hs => ?_
  split
  · exact State.refuse_memoriesWf _ _ _ _ _ _ hs
  · exact State.memoriesWf_ite (State.refuse_memoriesWf _ _ _ _ _ _ hs) (State.memoriesWf_ite (State.refuse_memoriesWf _ _ _ _ _ _ hs)
        (State.draw_memoriesWf (State.updSplice_memoriesWf hs)))

theorem execHbmRepairRelease_keepsMemories {cells : Bytes} {host : HostImage} {s : State} (hs : s.memoriesWf = true) :
    KeepsMemories (execHbmRepairRelease cells host s) := by
  unfold execHbmRepairRelease
  dsimp only
  refine repairEvent_keepsMemories hs fun s seq hs => ?_
  split
  · exact State.refuse_memoriesWf _ _ _ _ _ _ hs
  · exact State.memoriesWf_ite (State.refuse_memoriesWf _ _ _ _ _ _ hs) (State.updSplice_memoriesWf hs)

/-! ### The switch at a round start, and the release of the old run (R382, R384, R670, R672) -/

theorem State.switchSplice_memoriesWf {s : State} {x1 : Splice} (hs : s.memoriesWf = true) : (s.switchSplice x1).memoriesWf = true := by
  unfold State.switchSplice
  exact State.memoriesWf_ite (State.replyLater_memoriesWf (State.memoriesWf_updateMem hs)) (State.replyLater_memoriesWf
      (State.endRecovery_memoriesWf (State.endRecovery_memoriesWf (State.memoriesWf_ite (State.repaired_memoriesWf (State.memoriesWf_update
      (State.updSplice_memoriesWf hs))) (State.memoriesWf_update (State.updSplice_memoriesWf hs))))))

theorem State.switchSplices_memoriesWf {s : State} (hs : s.memoriesWf = true) : s.switchSplices.memoriesWf = true := by
  unfold State.switchSplices
  exact State.foldl_memoriesWf (fun _ _ hs => State.switchSplice_memoriesWf hs) _ hs

theorem execSpliceOldRunRelease_keepsMemories {stack entry : ℕ} {s : State} (hs : s.memoriesWf = true) :
    KeepsMemories (execSpliceOldRunRelease stack entry s) := by
  unfold execSpliceOldRunRelease
  split
  · exact keepsMemories_next hs
  · exact event_keepsMemories hs (State.memoriesWf_ite (State.memoriesWf_updateMem (State.updSplice_memoriesWf hs)) (State.updSplice_memoriesWf hs))

/-! ### The maintenance slot (R330, R331, R381, R382, R671) -/

theorem State.pprStep_memoriesWf {s : State} {x1 : Splice} (hs : s.memoriesWf = true) : (s.pprStep x1).memoriesWf = true := by
  unfold State.pprStep
  exact State.memoriesWf_ite (State.updSplice_memoriesWf hs) (State.replyLater_memoriesWf (State.repaired_memoriesWf (State.memoriesWf_updateMem
      (State.updSplice_memoriesWf hs))))

theorem State.trained_memoriesWf {s : State} {channel : ℕ} (hs : s.memoriesWf = true) : (s.trained channel).memoriesWf = true := by
  unfold State.trained
  dsimp only
  split
  · exact State.memoriesWf_ite (State.memoriesWf_updateMem (State.draw_memoriesWf (State.foldl_memoriesWf (fun _ _ hs => (State.repaired_memoriesWf
        (State.updSplice_memoriesWf hs))) _ hs))) (State.draw_memoriesWf (State.foldl_memoriesWf (fun _ _ hs => (State.repaired_memoriesWf
        (State.updSplice_memoriesWf hs))) _ hs))
  · exact State.draw_memoriesWf (State.foldl_memoriesWf (fun _ _ hs => (State.repaired_memoriesWf (State.updSplice_memoriesWf hs))) _ hs)

theorem State.retrainStep_memoriesWf {s : State} {channel : ℕ} (hs : s.memoriesWf = true) : (s.retrainStep channel).memoriesWf = true := by
  unfold State.retrainStep
  exact State.memoriesWf_ite (State.trained_memoriesWf (State.memoriesWf_updateMem (State.draw_memoriesWf hs))) (State.memoriesWf_updateMem
      (State.draw_memoriesWf hs))

theorem State.holdStep_memoriesWf {s : State} {channel : ℕ} (hs : s.memoriesWf = true) : (s.holdStep channel).memoriesWf = true := by
  unfold State.holdStep
  split
  · exact State.updSplice_memoriesWf hs
  · split
    · exact State.pprStep_memoriesWf hs
    · exact State.memoriesWf_ite (State.memoriesWf_updateMem (State.draw_memoriesWf hs)) (State.retrainStep_memoriesWf hs)

theorem State.housekeep_memoriesWf {s : State} (hs : s.memoriesWf = true) : s.housekeep.memoriesWf = true := by
  unfold State.housekeep
  dsimp only
  exact State.foldl_memoriesWf (fun _ _ hs => State.endRecovery_memoriesWf hs) _ (State.mediumBurst_memoriesWf (State.memoriesWf_updateStore
      (State.draw_memoriesWf hs)))

theorem execMaintenanceSlot_keepsMemories {held : List ℕ} {s : State} (hs : s.memoriesWf = true) : KeepsMemories (execMaintenanceSlot held s) := by
  unfold execMaintenanceSlot
  exact event_keepsMemories hs (State.settled_memoriesWf hs (State.memoriesWf_ite (State.housekeep_memoriesWf (State.foldl_memoriesWf
      (fun _ _ hs => State.holdStep_memoriesWf hs) _ (State.memoriesWf_updateMem hs))) (State.foldl_memoriesWf
      (fun _ _ hs => State.holdStep_memoriesWf hs) _ (State.memoriesWf_updateMem hs))))

theorem execPseudoChannelRefresh_keepsMemories {channel : ℕ} {resume : Bool} {s : State} (hs : s.memoriesWf = true) :
    KeepsMemories (execPseudoChannelRefresh channel resume s) := by
  unfold execPseudoChannelRefresh
  exact event_keepsMemories hs (State.memoriesWf_updateMem hs)

/-! ### Clusters and spare cores (R20, R21, R663 to R665) -/

theorem State.markFailing_memoriesWf {s : State} {cluster core : ℕ} (hs : s.memoriesWf = true) : (s.markFailing cluster core).memoriesWf = true := by
  unfold State.markFailing
  exact State.memoriesWf_ite hs (State.memoriesWf_ite (State.memoriesWf_update hs) (State.memoriesWf_update hs))

theorem State.stopOn_memoriesWf {s : State} {cluster : ℕ} (hs : s.memoriesWf = true) : (s.stopOn cluster).memoriesWf = true := by
  unfold State.stopOn
  exact State.foldl_memoriesWf (fun _ _ hs => (State.settleRun_memoriesWf (State.updRun_memoriesWf hs))) _ hs

theorem execCoreMemoryUncorrectable_keepsMemories {cluster core address : ℕ} {query : Option (ℕ × ℕ)} {s : State} (hs : s.memoriesWf = true) :
    KeepsMemories (execCoreMemoryUncorrectable cluster core address query s) := by
  unfold execCoreMemoryUncorrectable
  extract_lets u again _ noted recorded marked
  have hrecord : recorded.memoriesWf = true := State.record_memoriesWf _ _ (State.memoriesWf_update hs)
  have hmarked : marked.memoriesWf = true := State.memoriesWf_ite (State.markFailing_memoriesWf hrecord) hrecord
  refine event_keepsMemories hs (State.settled_memoriesWf hs ?_)
  split
  · exact State.memoriesWf_ite (State.endMember_memoriesWf hmarked) hmarked
  · exact State.stopOn_memoriesWf hmarked

theorem execCoreDatapathParity_keepsMemories {cluster core : ℕ} {s : State} (hs : s.memoriesWf = true) :
    KeepsMemories (execCoreDatapathParity cluster core s) := by
  unfold execCoreDatapathParity
  exact event_keepsMemories hs (State.markFailing_memoriesWf hs)

theorem State.retireCluster_memoriesWf {s : State} {cluster : ℕ} (hs : s.memoriesWf = true) : (s.retireCluster cluster).memoriesWf = true := by
  unfold State.retireCluster
  exact State.endRecovery_memoriesWf (State.foldl_memoriesWf (fun _ _ hs => State.endRecovery_memoriesWf hs) _ (State.memoriesWf_update hs))

theorem State.beginCoreRepair_memoriesWf {s : State} {r : ℕ × ℕ × ℕ} (hs : s.memoriesWf = true) : (s.beginCoreRepair r).memoriesWf = true := by
  unfold State.beginCoreRepair
  exact State.memoriesWf_ite hs (State.memoriesWf_ite (State.retireCluster_memoriesWf (State.record_memoriesWf _ _
      (State.dropFromWindows_memoriesWf hs))) (State.memoriesWf_update (State.record_memoriesWf _ _ (State.dropFromWindows_memoriesWf hs))))

theorem State.repairRound_memoriesWf {s : State} (hs : s.memoriesWf = true) : s.repairRound.memoriesWf = true := by
  unfold State.repairRound
  exact State.foldl_memoriesWf (fun _ _ hs => State.beginCoreRepair_memoriesWf hs) _ (State.foldl_memoriesWf (fun _ _ hs =>
      (State.endRecovery_memoriesWf (State.endRecovery_memoriesWf hs))) _ (State.memoriesWf_update hs))

theorem execSpareTestEnd_keepsMemories {cluster spare : ℕ} {passed : Bool} {s : State} (hs : s.memoriesWf = true) :
    KeepsMemories (execSpareTestEnd cluster spare passed s) := by
  unfold execSpareTestEnd
  split
  · exact keepsMemories_next hs
  · exact event_keepsMemories hs (State.memoriesWf_ite (State.memoriesWf_update hs) (State.memoriesWf_ite (State.retireCluster_memoriesWf
        (State.memoriesWf_update hs)) (State.memoriesWf_update hs)))

/-! ### Units of a self-test (R679) -/

theorem State.testRound_memoriesWf {s : State} (hs : s.memoriesWf = true) : s.testRound.memoriesWf = true := by
  unfold State.testRound
  exact State.memoriesWf_ite hs (State.memoriesWf_update (State.draw_memoriesWf (State.interruptTests_memoriesWf hs)))

/-! ### The turn of the round (R324, R422, R425) -/

theorem State.turn_memoriesWf {s : State} (hs : s.memoriesWf = true) : s.turn.memoriesWf = true := hs

/-! ### Switching timetables (R349, R350) -/

theorem State.switchStep_memoriesWf {s : State} (hs : s.memoriesWf = true) : s.switchStep.memoriesWf = true := by
  unfold State.switchStep
  exact State.memoriesWf_ite (State.switchRound_memoriesWf (State.memoriesWf_ite (State.memoriesWf_update hs) hs)) (State.memoriesWf_ite
      (State.memoriesWf_update hs) hs)

/-! ### Ports, routes and the leader (R430, R432, R453 to R458) -/

theorem State.routeStep_memoriesWf {s : State} (hs : s.memoriesWf = true) : s.routeStep.memoriesWf = true := hs

theorem State.timePorts_memoriesWf {s : State} (hs : s.memoriesWf = true) : s.timePorts.memoriesWf = true := by
  unfold State.timePorts
  exact State.foldl_memoriesWf (fun _ _ hs => (State.endRecovery_memoriesWf (State.updPort_memoriesWf hs))) _ hs

theorem State.followLeader_memoriesWf {s : State} (hs : s.memoriesWf = true) : s.followLeader.memoriesWf = true := by
  unfold State.followLeader
  exact State.memoriesWf_ite hs (State.memoriesWf_update hs)

/-! ### Lending and placement moves (R386, R448, R451) -/

theorem State.openLoans_memoriesWf {s : State} (hs : s.memoriesWf = true) : s.openLoans.memoriesWf = true := hs

theorem State.openMove_memoriesWf {s : State} {m : MoveOp} (hs : s.memoriesWf = true) : (s.openMove m).memoriesWf = true := hs

theorem State.sendClose_memoriesWf {s : State} {m : MoveOp} {both : ℕ} (hs : s.memoriesWf = true) : (s.sendClose m both).memoriesWf = true := hs

theorem State.moveStep_memoriesWf {s : State} {m : MoveOp} (hs : s.memoriesWf = true) : (s.moveStep m).memoriesWf = true := by
  unfold State.moveStep
  extract_lets r is m' _ drained opened copied _ sent closing closed dropped
  have hopened : opened.memoriesWf = true :=
    State.memoriesWf_ite (State.sendToBoth_memoriesWf (State.openMove_memoriesWf (State.memoriesWf_update hs))) (State.memoriesWf_update hs)
  have hsent : sent.memoriesWf = true := State.memoriesWf_ite (State.memoriesWf_update (State.sendCopy_memoriesWf hopened)) hopened
  have hclosing : closing.memoriesWf = true := by
    unfold closing
    split
    · exact State.memoriesWf_ite (State.sendClose_memoriesWf hsent) hsent
    · exact hsent
  have hclosed : closed.memoriesWf = true := State.memoriesWf_ite (State.closeEpoch_memoriesWf hclosing) hclosing
  exact State.memoriesWf_ite (State.replyLater_memoriesWf (State.memoriesWf_update
    (State.memoriesWf_ite (State.dropCopy_memoriesWf hclosed) hclosed))) hclosed

theorem State.shedMoves_memoriesWf {s : State} (hs : s.memoriesWf = true) : s.shedMoves.memoriesWf = true := by
  unfold State.shedMoves
  exact State.endAll_memoriesWf hs

theorem State.moveRound_memoriesWf {s : State} (hs : s.memoriesWf = true) : s.moveRound.memoriesWf = true := by
  unfold State.moveRound
  exact State.foldl_memoriesWf (fun _ _ hs => State.moveStep_memoriesWf hs) _ hs

/-! ### Shedding and ledgers (R81, R354 to R357, R636) -/

theorem State.planStep_memoriesWf {s : State} (hs : s.memoriesWf = true) : s.planStep.memoriesWf = true := hs

theorem State.drainLedgers_memoriesWf {s : State} (hs : s.memoriesWf = true) : s.drainLedgers.memoriesWf = true := hs

/-! ### ROUND_START -/

theorem State.roundBegin_memoriesWf {s : State} (hs : s.memoriesWf = true) : s.roundBegin.memoriesWf = true := by
  unfold State.roundBegin
  exact State.chargeRequests_memoriesWf (State.dropStale_memoriesWf (State.consumeHops_memoriesWf (State.releaseWait_memoriesWf
      (State.mapPages_memoriesWf (State.switchSplices_memoriesWf (State.moveTeams_memoriesWf (State.testRound_memoriesWf
      (State.repairRound_memoriesWf (State.drainLedgers_memoriesWf (State.shedMoves_memoriesWf (State.planStep_memoriesWf
      (State.moveRound_memoriesWf (State.openLoans_memoriesWf (State.cutQueries_memoriesWf (State.followLeader_memoriesWf
      (State.timePorts_memoriesWf (State.cutLoans_memoriesWf (State.routeStep_memoriesWf (State.switchStep_memoriesWf
      (State.turn_memoriesWf hs))))))))))))))))))))

theorem State.progressAll_memoriesWf {s : State} (hs : s.memoriesWf = true) : s.progressAll.memoriesWf = true := by
  unfold State.progressAll
  exact State.foldl_memoriesWf (fun _ _ hs => State.progress_memoriesWf hs) _ hs

theorem execRoundStart_keepsMemories {s : State} (hs : s.memoriesWf = true) : KeepsMemories (execRoundStart s) := by
  unfold execRoundStart
  exact event_keepsMemories hs (State.settled_memoriesWf hs (State.blurAllows_memoriesWf (State.admitRound_memoriesWf (State.progressAll_memoriesWf
      (State.roundBegin_memoriesWf hs)))))

/-! ### SELFTEST (R678 to R680) -/

theorem State.selftestReply_memoriesWf {s : State} {seq : ℕ} (hs : s.memoriesWf = true) : (s.selftestReply seq).memoriesWf = true := by
  unfold State.selftestReply
  exact State.reply_memoriesWf _ _ _ _ (State.draw_memoriesWf hs)

theorem selftestEvent_keepsMemories {s : State} {cells : Bytes} {action : ℕ} {run : State → ℕ → State} (hs : s.memoriesWf = true)
    (hrun : ∀ t seq, t.memoriesWf = true → (run t seq).memoriesWf = true) : KeepsMemories (selftestEvent s cells action run) :=
  messageEvent_keepsMemories hs hrun

theorem execSelftestStart_keepsMemories {cells : Bytes} {host : HostImage} {s : State} (hs : s.memoriesWf = true) :
    KeepsMemories (execSelftestStart cells host s) := by
  unfold execSelftestStart
  exact selftestEvent_keepsMemories hs fun _ _ hs => State.memoriesWf_ite (State.refuse_memoriesWf _ _ _ _ _ _ hs) (State.selftestReply_memoriesWf
      (State.memoriesWf_update hs))

theorem execSelftestAbort_keepsMemories {cells : Bytes} {host : HostImage} {s : State} (hs : s.memoriesWf = true) :
    KeepsMemories (execSelftestAbort cells host s) := by
  unfold execSelftestAbort
  exact selftestEvent_keepsMemories hs fun _ _ hs => State.selftestReply_memoriesWf (State.memoriesWf_ite (State.memoriesWf_update
      (State.releaseTests_memoriesWf hs)) hs)

theorem execSelftestStatus_keepsMemories {cells : Bytes} {host : HostImage} {s : State} (hs : s.memoriesWf = true) :
    KeepsMemories (execSelftestStatus cells host s) := by
  unfold execSelftestStatus
  exact selftestEvent_keepsMemories hs fun _ _ hs => State.selftestReply_memoriesWf hs

theorem State.pageFailed_memoriesWf {s : State} {p : ℕ × ℕ} (hs : s.memoriesWf = true) : (s.pageFailed p).memoriesWf = true := by
  unfold State.pageFailed
  exact State.draw_memoriesWf (State.record_memoriesWf _ _ hs)

theorem execSelftestEnd_keepsMemories {failCores failPages : List (ℕ × ℕ)} {failBlocks : List ℕ} {otherFailures : ℕ} {s : State} (hs : s.memoriesWf = true) :
    KeepsMemories (execSelftestEnd failCores failPages failBlocks otherFailures s) := by
  unfold execSelftestEnd
  exact event_keepsMemories hs (State.settled_memoriesWf hs (State.record_memoriesWf _ _ (State.memoriesWf_update (State.releaseTests_memoriesWf
      (State.foldl_memoriesWf (fun _ _ hs => State.pageFailed_memoriesWf hs) _ (State.foldl_memoriesWf (fun _ _ hs => State.markFailing_memoriesWf
      hs) _ hs))))))

/-! ### FORMAT (R390 to R392, R681, R682) -/

theorem formatEvent_keepsMemories {s : State} {cells : Bytes} {convert : Bool} {bad : List (Bool × ℕ)} {run : State → ℕ → State}
    (hs : s.memoriesWf = true) (hrun : ∀ t seq, t.memoriesWf = true → (run t seq).memoriesWf = true) : KeepsMemories
    (formatEvent s cells convert bad run) :=
  messageEvent_keepsMemories hs fun _ _ ht => State.memoriesWf_ite (State.refuse_memoriesWf _ _ _ _ _ _ ht) (hrun _ _ ht)

theorem execFormatConvert_keepsMemories {cells : Bytes} {host : HostImage} {s : State} (hs : s.memoriesWf = true) :
    KeepsMemories (execFormatConvert cells host s) := by
  unfold execFormatConvert
  exact formatEvent_keepsMemories hs fun _ _ hs => State.memoriesWf_ite (State.refuse_memoriesWf _ _ _ _ _ _ hs) (State.memoriesWf_updateStore hs)

theorem execFormatConversionEnd_keepsMemories {s : State} (hs : s.memoriesWf = true) : KeepsMemories (execFormatConversionEnd s) := by
  unfold execFormatConversionEnd
  split
  · exact keepsMemories_next hs
  · exact event_keepsMemories hs (State.replyLater_memoriesWf (State.memoriesWf_updateStore hs))

theorem execFormat_keepsMemories {cells : Bytes} {host : HostImage} {s : State} (hs : s.memoriesWf = true) :
    KeepsMemories (execFormat cells host s) := by
  unfold execFormat
  exact formatEvent_keepsMemories hs fun _ _ hs => State.memoriesWf_ite (State.refuse_memoriesWf _ _ _ _ _ _ hs) (State.memoriesWf_ite
      (State.writeFormat_memoriesWf (State.memoriesWf_updateStore hs)) (State.foldl_memoriesWf (fun _ _ hs => State.beginDrop_memoriesWf hs) _
      (State.memoriesWf_updateStore (State.memoriesWf_updateStore hs))))

/-! ### SANITIZE (R622, R683, R684) -/

theorem State.answerGone_memoriesWf {s : State} {c : Collection} (hs : s.memoriesWf = true) : (s.answerGone c).memoriesWf = true := by
  unfold State.answerGone
  exact State.replyLater_memoriesWf (State.foldl_memoriesWf (fun _ _ hs => State.refuseLater_memoriesWf hs) _ (State.foldl_memoriesWf
      (fun _ _ hs => State.replyLater_memoriesWf hs) _ hs))

theorem State.cryptoErase_memoriesWf {s : State} {mode pattern msg : ℕ} (hs : s.memoriesWf = true) :
    (s.cryptoErase mode pattern msg).memoriesWf = true := by
  have ended : ((s.rings.cmds.filter fun c => !c.finished).foldl (fun s c =>
      match c.sanitised with
      | some status => (s.dropWork c).complete c.cid (.of status)
      | none => s) s).memoriesWf = true := by
    refine State.foldl_memoriesWf (fun s c hs => ?_) _ hs
    split
    · exact State.complete_memoriesWf _ _ _ (State.dropWork_memoriesWf hs)
    · exact hs
  obtain ⟨hhost, hhbm, ht2, -⟩ := (State.memoriesWf_iff _).1 ended
  refine State.refuseLater_memoriesWf (State.foldl_memoriesWf (fun _ _ hs => State.answerGone_memoriesWf hs) _ ?_)
  exact (State.memoriesWf_iff _).2 ⟨hhost, hhbm, ht2, rfl⟩

theorem execSanitize_keepsMemories {cells : Bytes} {host : HostImage} {s : State} (hs : s.memoriesWf = true) :
    KeepsMemories (execSanitize cells host s) := by
  unfold execSanitize
  exact messageEvent_keepsMemories hs fun _ _ hs => State.memoriesWf_ite (State.refuse_memoriesWf _ _ _ _ _ _ hs) (State.cryptoErase_memoriesWf hs)

theorem execSanitizeEnd_keepsMemories {badBlocks : ℕ} {s : State} (hs : s.memoriesWf = true) : KeepsMemories (execSanitizeEnd badBlocks s) := by
  obtain ⟨hhost, -, ht2, hstore⟩ := (State.memoriesWf_iff s).1 hs
  unfold execSanitizeEnd
  split
  · exact keepsMemories_next hs
  · refine event_keepsMemories hs ?_
    split
    · exact State.replyLater_memoriesWf ((State.memoriesWf_iff _).2 ⟨hhost, rfl, ht2, hstore⟩)
    · exact State.send_memoriesWf _ _ ((State.memoriesWf_iff _).2 ⟨hhost, rfl, ht2, hstore⟩)

/-! ### Reads of the flash that fail (R96, R399, R401) -/

theorem State.relocateAt_memoriesWf {s : State} {area sector : ℕ} (hs : s.memoriesWf = true) : (s.relocateAt area sector).memoriesWf = true := hs

theorem State.noteFailure_memoriesWf {s : State} {sector : ℕ} (hs : s.memoriesWf = true) : (s.noteFailure sector).memoriesWf = true := by
  unfold State.noteFailure
  exact State.draw_memoriesWf (State.record_memoriesWf _ _ hs)

theorem State.hostReadFailed_memoriesWf {s : State} {sector : ℕ} (hs : s.memoriesWf = true) : (s.hostReadFailed sector).memoriesWf = true := by
  unfold State.hostReadFailed
  exact State.memoriesWf_ite (State.memoriesWf_ite (State.draw_memoriesWf (State.relocateAt_memoriesWf (State.memoriesWf_updateStore hs)))
      (State.noteFailure_memoriesWf (State.relocateAt_memoriesWf (State.memoriesWf_updateStore hs)))) (State.foldl_memoriesWf (fun _ _ hs =>
      (State.complete_memoriesWf _ _ _ (State.flashFailure_memoriesWf hs))) _ (State.relocateAt_memoriesWf (State.memoriesWf_updateStore hs)))

theorem execFlashReadFailed_keepsMemories {sector : ℕ} {reader : FlashReader} {s : State} (hs : s.memoriesWf = true) :
    KeepsMemories (execFlashReadFailed sector reader s) := by
  unfold execFlashReadFailed
  split
  · exact event_keepsMemories hs (State.settled_memoriesWf hs (State.hostReadFailed_memoriesWf hs))
  · exact event_keepsMemories hs (State.settled_memoriesWf hs (State.noteFailure_memoriesWf (State.relocateAt_memoriesWf hs)))
  · split
    · exact keepsMemories_next hs
    · exact event_keepsMemories hs (State.settled_memoriesWf hs (State.progress_memoriesWf (State.endMember_memoriesWf (State.draw_memoriesWf
          (State.record_memoriesWf _ _ (State.relocateAt_memoriesWf hs))))))

/-! ### The step -/

/-- Each command of the block keeps the memories canonical. -/
theorem exec_keepsMemories {s : State} (hs : s.memoriesWf = true) (i : Instr) : KeepsMemories (exec i s) := by
  cases i with
  | nop ring desc host => exact execNop_keepsMemories (host := host) hs
  | query ring desc host => exact execQuery_keepsMemories (host := host) hs
  | queryBatch ring desc host => exact execQueryBatch_keepsMemories (host := host) hs
  | insert ring desc host => exact execInsert_keepsMemories (host := host) hs
  | delete ring desc host => exact execDelete_keepsMemories (host := host) hs
  | setAttr ring desc host => exact execSetAttr_keepsMemories (host := host) hs
  | embedInsert ring desc host => exact execEmbedInsert_keepsMemories (host := host) hs
  | storeRead ring desc host => exact execStoreRead_keepsMemories (host := host) hs
  | storeWrite ring desc host => exact execStoreWrite_keepsMemories (host := host) hs
  | storeTrim ring desc host => exact execStoreTrim_keepsMemories (host := host) hs
  | runProgram ring desc host => exact execRunProgram_keepsMemories (host := host) hs
  | moveTensor ring desc host => exact execMoveTensor_keepsMemories (host := host) hs
  | abort ring desc host => exact execAbort_keepsMemories (host := host) hs
  | fence ring desc host => exact execFence_keepsMemories (host := host) hs
  | fenceComplete => exact execFenceComplete_keepsMemories hs
  | pad cells host => exact execPad_keepsMemories (host := host) hs
  | unframedCell cells host => exact execUnframedCell_keepsMemories (host := host) hs
  | hello cells host => exact execHello_keepsMemories (host := host) hs
  | caps cells host => exact execCaps_keepsMemories (host := host) hs
  | tether cells host => exact execTether_keepsMemories (host := host) hs
  | tetherExpiry => exact execTetherExpiry_keepsMemories hs
  | ringCreate cells host => exact execRingCreate_keepsMemories (host := host) hs
  | ringDelete cells host => exact execRingDelete_keepsMemories (host := host) hs
  | ringDeleteComplete => exact execRingDeleteComplete_keepsMemories hs
  | arbSet cells host => exact execArbSet_keepsMemories (host := host) hs
  | collectionCreate cells host => exact execCollectionCreate_keepsMemories (host := host) hs
  | collectionDrop cells host => exact execCollectionDrop_keepsMemories (host := host) hs
  | collectionDropComplete => exact execCollectionDropComplete_keepsMemories hs
  | collectionState cells host => exact execCollectionState_keepsMemories (host := host) hs
  | upkeepCentroidRetraining cells host => exact execUpkeepCentroidRetraining_keepsMemories (host := host) hs
  | upkeepQuantiserTraining cells host => exact execUpkeepQuantiserTraining_keepsMemories (host := host) hs
  | upkeepRebuild cells host => exact execUpkeepRebuild_keepsMemories (host := host) hs
  | upkeepPartitionMove cells host => exact execUpkeepPartitionMove_keepsMemories (host := host) hs
  | upkeepRebalance cells host => exact execUpkeepRebalance_keepsMemories (host := host) hs
  | keyImport cells host => exact execKeyImport_keepsMemories (host := host) hs
  | keyDestroy cells host => exact execKeyDestroy_keepsMemories (host := host) hs
  | keyDestroyComplete => exact execKeyDestroyComplete_keepsMemories hs
  | attestQuote cells host => exact execAttestQuote_keepsMemories (host := host) hs
  | attestCertificateChain cells host => exact execAttestCertificateChain_keepsMemories (host := host) hs
  | fwStage cells host => exact execFwStage_keepsMemories (host := host) hs
  | fwActivateNow cells host => exact execFwActivateNow_keepsMemories (host := host) hs
  | fwActivateAtReset cells host => exact execFwActivateAtReset_keepsMemories (host := host) hs
  | componentImageSwitch => exact execComponentImageSwitch_keepsMemories hs
  | programLoad cells host => exact execProgramLoad_keepsMemories (host := host) hs
  | programUnload cells host => exact execProgramUnload_keepsMemories (host := host) hs
  | timetableLoadStage cells host => exact execTimetableLoadStage_keepsMemories (host := host) hs
  | timetableLoadPropose cells host => exact execTimetableLoadPropose_keepsMemories (host := host) hs
  | groupJoin cells host => exact execGroupJoin_keepsMemories (host := host) hs
  | lendMemoryOffer cells host => exact execLendMemoryOffer_keepsMemories (host := host) hs
  | lendMemoryBorrow cells host => exact execLendMemoryBorrow_keepsMemories (host := host) hs
  | lendMemoryEnd cells host => exact execLendMemoryEnd_keepsMemories (host := host) hs
  | powerCap cells host => exact execPowerCap_keepsMemories (host := host) hs
  | selftestStart cells host => exact execSelftestStart_keepsMemories (host := host) hs
  | selftestAbort cells host => exact execSelftestAbort_keepsMemories (host := host) hs
  | selftestStatus cells host => exact execSelftestStatus_keepsMemories (host := host) hs
  | selftestEnd => exact execSelftestEnd_keepsMemories hs
  | formatConvert cells host => exact execFormatConvert_keepsMemories (host := host) hs
  | formatConversionEnd => exact execFormatConversionEnd_keepsMemories hs
  | format cells host => exact execFormat_keepsMemories (host := host) hs
  | sanitize cells host => exact execSanitize_keepsMemories (host := host) hs
  | sanitizeEnd => exact execSanitizeEnd_keepsMemories hs
  | retirePage cells host => exact execRetirePage_keepsMemories (host := host) hs
  | hbmRepairStatus cells host => exact execHbmRepairStatus_keepsMemories (host := host) hs
  | hbmRepairLaneRemap cells host => exact execHbmRepairLaneRemap_keepsMemories (host := host) hs
  | hbmRepairRowReplacement cells host => exact execHbmRepairRowReplacement_keepsMemories (host := host) hs
  | hbmRepairPostPackageRepair cells host => exact execHbmRepairPostPackageRepair_keepsMemories (host := host) hs
  | hbmRepairRelease cells host => exact execHbmRepairRelease_keepsMemories (host := host) hs
  | configRecordRead cells host => exact execConfigRecordRead_keepsMemories (host := host) hs
  | configRecordWrite cells host => exact execConfigRecordWrite_keepsMemories (host := host) hs
  | serviceSessionOpen cells host => exact execServiceSessionOpen_keepsMemories (host := host) hs
  | serviceSessionClose cells host => exact execServiceSessionClose_keepsMemories (host := host) hs
  | serviceSessionExpiry => exact execServiceSessionExpiry_keepsMemories hs
  | logRead cells host => exact execLogRead_keepsMemories (host := host) hs
  | nopInstruction => exact execNopInstruction_keepsMemories hs
  | sets => exact execSets_keepsMemories hs
  | adds => exact execAdds_keepsMemories hs
  | muls => exact execMuls_keepsMemories hs
  | setb => exact execSetb_keepsMemories hs
  | loop => exact execLoop_keepsMemories hs
  | bar => exact execBar_keepsMemories hs
  | waitr => exact execWaitr_keepsMemories hs
  | endCore => exact execEndCore_keepsMemories hs
  | waitm => exact execWaitm_keepsMemories hs
  | moveInstruction => exact execMoveInstruction_keepsMemories hs
  | scan => exact execScan_keepsMemories hs
  | tclr => exact execTclr_keepsMemories hs
  | tadd => exact execTadd_keepsMemories hs
  | tsave => exact execTsave_keepsMemories hs
  | tload => exact execTload_keepsMemories hs
  | mma => exact execMma_keepsMemories hs
  | vop => exact execVop_keepsMemories hs
  | outInstruction => exact execOutInstruction_keepsMemories hs
  | accm => exact execAccm_keepsMemories hs
  | selInit => exact execSelInit_keepsMemories hs
  | selFeed => exact execSelFeed_keepsMemories hs
  | selRead => exact execSelRead_keepsMemories hs
  | cycleLimit => exact execCycleLimit_keepsMemories hs
  | teamStart => exact execTeamStart_keepsMemories hs
  | programEnd => exact execProgramEnd_keepsMemories hs
  | transferComplete run transfer host => exact execTransferComplete_keepsMemories (host := host) hs
  | moveTensorDone cid host => exact execMoveTensorDone_keepsMemories (host := host) hs
  | detach => exact execDetach_keepsMemories hs
  | adminEnable => exact execAdminEnable_keepsMemories hs
  | nudge => exact execNudge_keepsMemories hs
  | registerWrite => exact execRegisterWrite_keepsMemories hs
  | stagedFieldBoundary => exact execStagedFieldBoundary_keepsMemories hs
  | smbCapWrite => exact execSmbCapWrite_keepsMemories hs
  | smbusWriteWord => exact execSmbusWriteWord_keepsMemories hs
  | flr => exact execFlr_keepsMemories hs
  | hotReset => exact execHotReset_keepsMemories hs
  | d3hotEntry => exact execD3hotEntry_keepsMemories hs
  | d0Return => exact execD0Return_keepsMemories hs
  | busMasterEnableClear => exact execBusMasterEnableClear_keepsMemories hs
  | msixPendingSend => exact execMsixPendingSend_keepsMemories hs
  | hostReadFailed => exact execHostReadFailed_keepsMemories hs
  | ptmCapture => exact execPtmCapture_keepsMemories hs
  | doorbellWatch host => exact execDoorbellWatch_keepsMemories (host := host) hs
  | watcherSleep host => exact execWatcherSleep_keepsMemories (host := host) hs
  | completionCoalesceTimeout => exact execCompletionCoalesceTimeout_keepsMemories hs
  | roundStart => exact execRoundStart_keepsMemories hs
  | waitLimitExpiry => exact execWaitLimitExpiry_keepsMemories hs
  | spliceOldRunRelease => exact execSpliceOldRunRelease_keepsMemories hs
  | switchAbortDeadline => exact execSwitchAbortDeadline_keepsMemories hs
  | controlSlot => exact execControlSlot_keepsMemories hs
  | fanOutSlot => exact execFanOutSlot_keepsMemories hs
  | returnSlot => exact execReturnSlot_keepsMemories hs
  | bulkSlot => exact execBulkSlot_keepsMemories hs
  | replaySlot => exact execReplaySlot_keepsMemories hs
  | maintenanceSlot => exact execMaintenanceSlot_keepsMemories hs
  | pseudoChannelRefresh => exact execPseudoChannelRefresh_keepsMemories hs
  | walkEnd => exact execWalkEnd_keepsMemories hs
  | lanePassStart => exact execLanePassStart_keepsMemories hs
  | lanePassEnd => exact execLanePassEnd_keepsMemories hs
  | laneEccError => exact execLaneEccError_keepsMemories hs
  | refineReadDone => exact execRefineReadDone_keepsMemories hs
  | refineReadTimeout => exact execRefineReadTimeout_keepsMemories hs
  | rerankInvocation => exact execRerankInvocation_keepsMemories hs
  | queryFinal => exact execQueryFinal_keepsMemories hs
  | queryBoundExpiry => exact execQueryBoundExpiry_keepsMemories hs
  | mutationAdmission => exact execMutationAdmission_keepsMemories hs
  | embedBatch => exact execEmbedBatch_keepsMemories hs
  | lastPartIssue => exact execLastPartIssue_keepsMemories hs
  | journalPartOnMedium => exact execJournalPartOnMedium_keepsMemories hs
  | holderWriteDone => exact execHolderWriteDone_keepsMemories hs
  | groupCommitCompletion => exact execGroupCommitCompletion_keepsMemories hs
  | storeCompletion => exact execStoreCompletion_keepsMemories hs
  | flashReadFailed => exact execFlashReadFailed_keepsMemories hs
  | compaction => exact execCompaction_keepsMemories hs
  | rebalanceStart => exact execRebalanceStart_keepsMemories hs
  | clusteringIteration => exact execClusteringIteration_keepsMemories hs
  | generationPublish => exact execGenerationPublish_keepsMemories hs
  | routeGraphCopyBackDone => exact execRouteGraphCopyBackDone_keepsMemories hs
  | collectionLoadEnd => exact execCollectionLoadEnd_keepsMemories hs
  | hbmCorrected => exact execHbmCorrected_keepsMemories hs
  | hbmUncorrectable => exact execHbmUncorrectable_keepsMemories hs
  | lendWindowClose => exact execLendWindowClose_keepsMemories hs
  | coreMemoryUncorrectable => exact execCoreMemoryUncorrectable_keepsMemories hs
  | coreDatapathParity => exact execCoreDatapathParity_keepsMemories hs
  | spareTestEnd => exact execSpareTestEnd_keepsMemories hs
  | compartmentFault => exact execCompartmentFault_keepsMemories hs
  | componentHeartbeatTimeout => exact execComponentHeartbeatTimeout_keepsMemories hs
  | kioskHalt => exact execKioskHalt_keepsMemories hs
  | componentRestartEnd => exact execComponentRestartEnd_keepsMemories hs
  | kioskRestartEnd => exact execKioskRestartEnd_keepsMemories hs
  | lodgeWatchdogExpiry => exact execLodgeWatchdogExpiry_keepsMemories hs
  | lodgeReturn => exact execLodgeReturn_keepsMemories hs
  | gatehouseWatchdogExpiry => exact execGatehouseWatchdogExpiry_keepsMemories hs
  | gatehouseReturn => exact execGatehouseReturn_keepsMemories hs
  | gatehouseReturnTimeout => exact execGatehouseReturnTimeout_keepsMemories hs
  | recoveryPeriodEnd => exact execRecoveryPeriodEnd_keepsMemories hs
  | componentMoveTimeout => exact execComponentMoveTimeout_keepsMemories hs
  | ledgerLoop => exact execLedgerLoop_keepsMemories hs
  | powerClamp => exact execPowerClamp_keepsMemories hs
  | voltageStageRise => exact execVoltageStageRise_keepsMemories hs
  | voltageStageFall => exact execVoltageStageFall_keepsMemories hs
  | pwrbrkAssert => exact execPwrbrkAssert_keepsMemories hs
  | pwrbrkDeassert => exact execPwrbrkDeassert_keepsMemories hs
  | supplyOutOfSpec => exact execSupplyOutOfSpec_keepsMemories hs
  | powerLoss => exact execPowerLoss_keepsMemories hs
  | thermalThreshold => exact execThermalThreshold_keepsMemories hs
  | thermalStageEnd => exact execThermalStageEnd_keepsMemories hs
  | thermalLimit => exact execThermalLimit_keepsMemories hs
  | thermalCutOff => exact execThermalCutOff_keepsMemories hs
  | cmisHighAlarm => exact execCmisHighAlarm_keepsMemories hs
  | perstAssert => exact execPerstAssert_keepsMemories hs
  | perstDeassert => exact execPerstDeassert_keepsMemories hs
  | startupStepEnd => exact execStartupStepEnd_keepsMemories hs
  | startupStepTimeout => exact execStartupStepTimeout_keepsMemories hs
  | startupHold => exact execStartupHold_keepsMemories hs
  | linkUp => exact execLinkUp_keepsMemories hs
  | dieDeepSleep => exact execDieDeepSleep_keepsMemories hs
  | dieWake => exact execDieWake_keepsMemories hs
  | clusterWake => exact execClusterWake_keepsMemories hs
  | prewake => exact execPrewake_keepsMemories hs
  | cageModuleInserted => exact execCageModuleInserted_keepsMemories hs
  | cageModuleRemoved => exact execCageModuleRemoved_keepsMemories hs
  | trainingTimeout => exact execTrainingTimeout_keepsMemories hs
  | trainingRetry => exact execTrainingRetry_keepsMemories hs
  | blockLock => exact execBlockLock_keepsMemories hs
  | blockLockLoss => exact execBlockLockLoss_keepsMemories hs
  | lostBlock => exact execLostBlock_keepsMemories hs
  | linkHello => exact execLinkHello_keepsMemories hs
  | timeSync => exact execTimeSync_keepsMemories hs
  | heartbeat => exact execHeartbeat_keepsMemories hs
  | moduleLost => exact execModuleLost_keepsMemories hs
  | switchPropose => exact execSwitchPropose_keepsMemories hs
  | switchAccept => exact execSwitchAccept_keepsMemories hs
  | switchRefuse => exact execSwitchRefuse_keepsMemories hs
  | switchAbort => exact execSwitchAbort_keepsMemories hs
  | shedStage => exact execShedStage_keepsMemories hs
  | barrier => exact execBarrier_keepsMemories hs
  | commit => exact execCommit_keepsMemories hs
  | epochOpen => exact execEpochOpen_keepsMemories hs
  | epochReady => exact execEpochReady_keepsMemories hs
  | epochClose => exact execEpochClose_keepsMemories hs
  | placementCopyDone => exact execPlacementCopyDone_keepsMemories hs
  | lend => exact execLend_keepsMemories hs
  | portDown => exact execPortDown_keepsMemories hs
  | portUp => exact execPortUp_keepsMemories hs
  | leave => exact execLeave_keepsMemories hs
  | leader => exact execLeader_keepsMemories hs
  | timeParentTimeout => exact execTimeParentTimeout_keepsMemories hs
  | leaderSearchTimeout => exact execLeaderSearchTimeout_keepsMemories hs
  | groupFormationTimeout => exact execGroupFormationTimeout_keepsMemories hs
  | fanOutTransferReceived => exact execFanOutTransferReceived_keepsMemories hs
  | returnTransferReceived => exact execReturnTransferReceived_keepsMemories hs
  | bulkTransferReceived => exact execBulkTransferReceived_keepsMemories hs
  | powerGood => exact execPowerGood_keepsMemories hs
  | holdInputRecovered => exact execHoldInputRecovered_keepsMemories hs
  | flrCompletion => exact execFlrCompletion_keepsMemories hs
  | pmeStatusClear => exact execPmeStatusClear_keepsMemories hs
  | clusterSleep => exact execClusterSleep_keepsMemories hs
  | portsMeasuredReport => exact execPortsMeasuredReport_keepsMemories hs
  | invalidOpcodeDescriptor ring desc host => exact execInvalidOpcodeDescriptor_keepsMemories (host := host) hs
  | unknownMessageType cells host => exact execUnknownMessageType_keepsMemories (host := host) hs
  | hostPortInternalError => exact execHostPortInternalError_keepsMemories hs

/-- Settles O5: with a command in front by the lemma of its row, with an empty queue by that of the idle tick. -/
theorem stepKeepsMemoriesCanonical : Obligations.StepKeepsMemoriesCanonical := by
  intro s t hs ht
  unfold step at ht
  split at ht
  · obtain rfl := Host.Outcome.next.inj ht
    exact State.idle_memoriesWf hs
  · exact exec_keepsMemories (State.memoriesWf_update hs) _ t ht

end Sys2Proof.Machine
end

section
/-!
PROOFS. The fetch of descriptors (chapter 15): what a granted descriptor becomes, per row, and what an ABORT does to its target.
-/

namespace Sys2Proof.Machine

/-! ### A descriptor without a fault -/

section
variable {s : State} {r : SubRing} {op : Nat} {desc : Bytes} {host : HostImage}

/-- A descriptor whose own checks fail completes at once. -/
theorem State.fetchWith_fault {e : Result} {body : CmdBody} {admitted : Bool} (h : s.commonFault r op desc = none) :
    s.fetchWith r op desc (some e) body admitted = s.fetchDone r op desc e := by
  simp only [State.fetchWith, h]

theorem State.mutationShed_none (hsan : s.store.sanitise = none) (hstage : s.power.applied < 3) : s.mutationShed = none := by
  simp only [State.mutationShed, hsan, Option.isSome_none, Bool.false_eq_true, if_false, ge_iff_le, Nat.not_le.2 hstage]

/-- A mutation that passes its checks is taken under the next mutation_id. -/
theorem State.fetchMutation_ok {m : Mutation} (h : s.commonFault r op desc = none) (hshed : s.mutationShed = none) :
    s.fetchMutation r op desc none m
      = { s.take r (headerOf op desc) (.mutation m) false with store.nextMutation := s.store.nextMutation + 1 } := by
  simp only [State.fetchMutation, h, hshed]

/-- A mutation whose own checks fail completes at once. -/
theorem State.fetchMutation_fault {e : Result} {m : Mutation} (h : s.commonFault r op desc = none) :
    s.fetchMutation r op desc (some e) m = s.fetchDone r op desc e := by
  simp only [State.fetchMutation, h, State.fetchWith_fault h]

/-- A DELETE or SET_ATTR of a usable collection that passes its checks is taken with its batch's entries. -/
theorem State.fetchIds_ok {k : MutKind} {c : Collection} (hc : s.usable (field desc 8 2) = some c) (h : s.commonFault r op desc = none)
    (hshed : s.mutationShed = none) (hids : (s.idsFault c k desc host).1 = none) :
    s.fetchIds r op k desc host
      = { s.take r (headerOf op desc) (.mutation (s.newMutation k (s.idsFault c k desc host).2 [])) false with
          store.nextMutation := s.store.nextMutation + 1 } := by
  simp only [State.fetchIds, hc, hids, State.fetchMutation_ok h hshed]

/-- A store command that passes its checks is taken. -/
theorem State.fetchStore_ok {k : StoreKind} (h : s.commonFault r op desc = none) (hk : s.storeFault k desc = none) :
    s.fetchStore r op k desc host = s.take r (headerOf op desc)
      (.store { kind := k, dataAddr := field desc 0x10 8, first := field desc 0x18 8, count := field desc 0x20 4, issued := 0
                data := if k = .write then hostRead host (field desc 0x10 8) (field desc 0x20 4 * 4096) else [] })
      (s.serves Component.store0 && s.serves Component.store1) := by
  simp only [State.fetchStore, hk, State.fetchWith_ok h]

end

/-! ### Shelter mode -/

/-- R661: in shelter mode a descriptor that passes R12 to R14 ends with SHELTER, except a NOP, an ABORT or a FENCE. -/
theorem State.commonFault_of_shelter {s : State} {r : SubRing} {op : Nat} {d : Bytes} (hshelter : s.regs.shelter = true)
    (hhdr : headerFault op d = none) (hd : r.doomed.contains r.fetches = false) (hnop : op ≠ 0x00) (habort : op ≠ 0x50) (hfence : op ≠ 0x51) :
    s.commonFault r op d = some (.of 10) := by
  simp only [State.commonFault, hd, hhdr, Bool.false_eq_true, if_false]
  simp [firstBad, hshelter, hnop, habort, hfence]

/-- Settles O11: SHELTER is one of the faults that every descriptor meets, so no row makes its own checks. -/
theorem shelterEndsDescriptors : Obligations.ShelterEndsDescriptors := by
  intro s ring desc host r op i hr hi hg hshelter hhdr hd hnop habort hfence
  exact exec_descriptorRow_common hr hi hg (State.commonFault_of_shelter hshelter hhdr hd hnop habort hfence)

/-! ### Queries, store commands and fences -/

/-- Settles O6: each row is the fetch with its own faults and its own work. -/
theorem fetchedWorkIsTaken : Obligations.FetchedWorkIsTaken := by
  intro s ring desc host r hr
  refine ⟨fun hg hc hq => ?_, fun hg hc hq => ?_, fun hg hc hk => ?_, fun hg hc hk => ?_, fun hg hc hk => ?_, fun hg hc => ?_⟩
  · exact (fetchEvent_grants hr hg).trans (congrArg _ (by rw [hq, State.fetchWith_ok hc]))
  · exact (fetchEvent_grants hr hg).trans (congrArg _ (by rw [hq, State.fetchWith_ok hc]))
  · exact (fetchEvent_grants hr hg).trans (congrArg _ (State.fetchStore_ok hc hk))
  · exact (fetchEvent_grants hr hg).trans (congrArg _ (State.fetchStore_ok hc hk))
  · exact (fetchEvent_grants hr hg).trans (congrArg _ (State.fetchStore_ok hc hk))
  · exact (fetchEvent_grants hr hg).trans (congrArg _ (State.fetchWith_ok hc))

/-! ### Mutations -/

/-- Settles O7: each row is the fetch of a new mutation with its batch's fault and entries. -/
theorem fetchedMutationsAreTaken : Obligations.FetchedMutationsAreTaken := by
  intro s ring desc host r c hr hc hsan hstage
  have hshed : s.mutationShed = none := State.mutationShed_none hsan hstage
  refine ⟨fun hg hcom hins => ?_, fun hg hcom hids => ?_, fun hg hcom hids => ?_, fun hg hcom => ?_⟩
  · refine ⟨s.newMutation .insert ((s.insertFault c desc host).2.map (·.entry c)) []
      (c.keysOf ((s.insertFault c desc host).2.filterMap (·.env))), rfl, rfl, rfl, rfl, (fetchEvent_grants hr hg).trans (congrArg _ ?_)⟩
    simp only [hc, hins, State.fetchMutation_ok hcom hshed]
  · exact ⟨s.newMutation .delete (s.idsFault c .delete desc host).2 [], rfl, rfl, rfl, rfl,
      (fetchEvent_grants hr hg).trans (congrArg _ (State.fetchIds_ok hc hcom hshed hids))⟩
  · exact ⟨s.newMutation .setAttr (s.idsFault c .setAttr desc host).2 [], rfl, rfl, rfl, rfl,
      (fetchEvent_grants hr hg).trans (congrArg _ (State.fetchIds_ok hc hcom hshed hids))⟩
  · -- EMBED_INSERT: the entries are those of its chunks, still without vectors
    let chunks := (s.embedFault c desc host).2.map c.chunkOf
    refine ⟨s.newMutation .embed (chunks.map fun k =>
      { id := k.id, attr := k.attr, vec := none, payload := if k.keep then some (k.plain.take 4096) else none, record := none }) chunks
      (c.keysOf (s.embedFault c desc host).2), rfl, rfl, rfl, rfl, (fetchEvent_grants hr hg).trans (congrArg _ ?_)⟩
    simp only [hc]
    cases hfault : (s.embedFault c desc host).1 with
    | none => exact State.fetchMutation_ok hcom hshed
    | some e => exact State.fetchMutation_fault hcom

/-! ### Tensor work -/

/-- Settles O8: both rows take the descriptor where neither the common checks nor their own find a fault. -/
theorem fetchedTensorWorkIsTaken : Obligations.FetchedTensorWorkIsTaken := by
  intro s ring desc host r hr
  refine ⟨fun hg hc hm => ?_, fun p args t hg hc hrun hp hargs ht => ?_⟩
  · exact (fetchEvent_grants hr hg).trans (congrArg _ (by simp only [hc, hm]))
  · have hhandle : p.handle = field desc 0x10 4 := by simpa using List.find?_some hp
    subst ht hargs
    refine (fetchEvent_grants hr hg).trans (congrArg _ ?_)
    simp only [hc, hrun, hp, hhandle, beq_iff_eq]
    cases s.runsFor (field desc 0x10 4) with
    | true => rfl
    | false => rfl

/-! ### NOP, ABORT and the descriptors that fail -/

/-- A descriptor of another version or an unlisted opcode, which no ABORT has caught, completes at its fetch. -/
theorem execInvalidOpcodeDescriptor_done {s : State} {ring : Nat} {desc : Bytes} {host : HostImage} {r : SubRing} (hr : s.sq? ring = some r)
    (hsup : s.supported = true) (hfetch : s.mayFetch ring (byteAt desc 0) = true)
    (hbad : byteAt desc 1 % 16 ≠ 1 ∨ opcodes.contains (byteAt desc 0) = false) (hd : r.doomed.contains r.fetches = false) :
    execInvalidOpcodeDescriptor ring desc host s = .next (s.fetchDone r (byteAt desc 0) desc
      (if byteAt desc 1 % 16 = 1 then .invalid 1 noItem else .of 4)) := by
  have hok : (s.mayFetch ring (byteAt desc 0) && (byteAt desc 1 % 16 != 1 || !opcodes.contains (byteAt desc 0))) = true := by
    obtain hv | hop := hbad
    · simp [hfetch, hv]
    · rw [hfetch, hop, Bool.not_false, Bool.or_true, Bool.and_true]
  simp only [execInvalidOpcodeDescriptor, hr, hd, hok, asked, hsup, event, Bool.false_eq_true, if_false, if_true]
  split <;> simp_all

section
variable {s : State} {ring tag : Nat} {host : HostImage} {c : Cmd}

/-- An ABORT whose ring has an outstanding command with the tag acts on that command. -/
theorem State.abortTarget_fetched
    (hc : (s.rings.cmds.find? fun c => c.ring == ring && c.hdr.tag == tag && !c.unreachable && !c.finished) = some c) :
    s.abortTarget ring tag host = s.abortFetched c host := by
  simp only [State.abortTarget, hc]

/-- An ABORT that finds its tag neither outstanding nor among the descriptors still to fetch. -/
theorem State.abortTarget_unknown {r : SubRing} (hr : s.sq? ring = some r)
    (hc : (s.rings.cmds.find? fun c => c.ring == ring && c.hdr.tag == tag && !c.unreachable && !c.finished) = none)
    (htags : ∀ x ∈ unfetchedTags host r (s.readTail host r), x.2 ≠ tag) :
    s.abortTarget ring tag host = (s, if r.recent.contains tag = true then 2 else 3, 0) := by
  have hnone : ((unfetchedTags host r (s.readTail host r)).find? fun x => x.2 == tag && !r.doomed.contains x.1) = none := by
    rw [List.find?_eq_none]
    intro x hx
    simp [htags x hx]
  simp only [State.abortTarget, hc, hr, hnone]

end

/-- Settles O9: NOP and the failing descriptors complete at their fetch, and an ABORT by the body of the command that it finds. -/
theorem immediateDescriptorsComplete : Obligations.ImmediateDescriptorsComplete := by
  intro s ring desc host r hr
  refine ⟨fun hg hc => ?_, fun hsup hfetch hop hv hd => ?_, fun hsup hfetch hv hd => ?_, fun t u hg hc ht hu => ?_, fun tag c hc => ?_,
    fun tag hc htags => State.abortTarget_unknown hr hc htags⟩
  · exact (fetchEvent_grants hr hg).trans (congrArg _ (State.fetchWith_fault hc))
  · refine (execInvalidOpcodeDescriptor_done (host := host) hr hsup hfetch (.inr hop) hd).trans ?_
    rw [if_pos hv]
    rfl
  · refine (execInvalidOpcodeDescriptor_done (host := host) hr hsup hfetch (.inl hv) hd).trans ?_
    rw [if_neg hv]
    rfl
  · subst ht hu
    exact (fetchEvent_grants hr hg).trans (congrArg _ (by simp only [hc]))
  · rw [State.abortTarget_fetched hc]
    refine ⟨fun q f hb => ?_, fun m w hb hadm => ?_, fun m hb hadm hissued => ?_, fun m hb hstarted => ?_, fun hb => ?_⟩
    · obtain hb | hb := hb <;> simp only [State.abortFetched, hb]
    · obtain hb | hb := hb <;> simp [State.abortFetched, hb, hadm]
    · simp [State.abortFetched, hb, hadm, hissued]
    · simp [State.abortFetched, hb, hstarted]
    · simp only [State.abortFetched, hb]

end Sys2Proof.Machine
end

section
/-!
PROOFS. What leaves the shelter flag as it was: answers, completions, and all that entering shelter mode does. A step whose effect leaves the
flag alone is settled as it stands.
-/

namespace Sys2Proof.Machine

/-! ### What the frames keep -/

theorem State.mailOnly.shelter {s t : State} (h : s.mailOnly t) : t.regs.shelter = s.regs.shelter := by
  unfold State.mailOnly at h
  rw [h]

theorem State.endOnly.shelter {s t : State} (h : s.endOnly t) : t.regs.shelter = s.regs.shelter := by
  unfold State.endOnly at h
  rw [h]

theorem State.endOnly.storeHost {s t : State} (h : s.endOnly t) : t.store.host = s.store.host := by
  unfold State.endOnly at h
  rw [h]

theorem State.recordOnly.storeHost {s t : State} (h : s.recordOnly t) : t.store.host = s.store.host := by
  unfold State.recordOnly at h
  rw [h]

/-- A run of steps that each keep what a function reads keeps it. -/
theorem foldl_keeps {α β γ : Type} (p : α → γ) {f : α → β → α} (hf : ∀ a b, p (f a b) = p a) (l : List β) (a : α) : p (l.foldl f a) = p a := by
  induction l generalizing a with
  | nil => rfl
  | cons b l ih => exact (ih (f a b)).trans (hf a b)

theorem State.foldl_shelter {α : Type} {f : State → α → State} (hf : ∀ s a, (f s a).regs.shelter = s.regs.shelter) (l : List α) (s : State) :
    (l.foldl f s).regs.shelter = s.regs.shelter :=
  foldl_keeps (fun s => s.regs.shelter) hf l s

/-! ### Answers and completions -/

section
variable (s : State)

@[simp] theorem State.hostWrite_shelter (a : Nat) (b : Bytes) : (s.hostWrite a b).regs.shelter = s.regs.shelter := rfl

@[simp] theorem State.send_shelter (m : OutMsg) : (s.send m).regs.shelter = s.regs.shelter := (State.send_mailOnly s m).shelter

@[simp] theorem State.flushMail_shelter : s.flushMail.regs.shelter = s.regs.shelter := (State.flushMail_mailOnly s).shelter

@[simp] theorem State.reply_shelter (type seq : Nat) (b : Bytes) : (s.reply type seq b).regs.shelter = s.regs.shelter :=
  (State.reply_mailOnly s type seq b).shelter

@[simp] theorem State.refuse_shelter (type seq code off reason : Nat) : (s.refuse type seq code off reason).regs.shelter = s.regs.shelter :=
  (State.refuse_mailOnly s type seq code off reason).shelter

@[simp] theorem State.replyLater_shelter (type : Nat) (seq : Option Nat) (b : Bytes) :
    (s.replyLater type seq b).regs.shelter = s.regs.shelter :=
  (State.replyLater_mailOnly s type seq b).shelter

@[simp] theorem State.refuseLater_shelter (type : Nat) (seq : Option Nat) (code off reason : Nat) :
    (s.refuseLater type seq code off reason).regs.shelter = s.regs.shelter :=
  (State.refuseLater_mailOnly s type seq code off reason).shelter

@[simp] theorem State.takeMessage_shelter (f : MsgForm) (cells : Bytes) : (s.takeMessage f cells).regs.shelter = s.regs.shelter := rfl

@[simp] theorem State.complete_shelter (cid : Nat) (r : Result) : (s.complete cid r).regs.shelter = s.regs.shelter :=
  (State.complete_endOnly s cid r).shelter

end

/-! ### Memories and runs -/

/-- Two states differ at most in what the work of a command touches: runs and passes, the bytes of the memories and where the store keeps
them, the barriers of the group and the free values drawn. -/
def State.workOnly (s t : State) : Prop :=
  t = { s with comp := t.comp, host := t.host, free := t.free
               mem := { s.mem with hbm := t.mem.hbm, t2 := t.mem.t2, poison := t.mem.poison, regions := t.mem.regions }
               store := { s.store with host := t.store.host, failing := t.store.failing, relocate := t.store.relocate
                                       placed := t.store.placed, blocks := t.store.blocks }
               group := { s.group with barriers := t.group.barriers, barred := t.group.barred } }

theorem State.workOnly.rfl' (s : State) : s.workOnly s := rfl

theorem State.workOnly.trans {s t u : State} (h : s.workOnly t) (k : t.workOnly u) : s.workOnly u := by
  unfold State.workOnly at *
  rw [k, h]

theorem State.workOnly.shelter {s t : State} (h : s.workOnly t) : t.regs.shelter = s.regs.shelter := by
  unfold State.workOnly at h
  rw [h]

theorem State.foldl_workOnly {α : Type} {f : State → α → State} (hf : ∀ s a, State.workOnly s (f s a)) (l : List α) (s : State) :
    s.workOnly (l.foldl f s) := by
  induction l generalizing s with
  | nil => exact State.workOnly.rfl' s
  | cons a l ih => exact (hf s a).trans (ih _)

section
variable (s : State)

theorem State.flashProgram_workOnly (area first n : Nat) : s.workOnly (s.flashProgram area first n) := by
  unfold State.flashProgram
  split <;> rfl

theorem State.markSector_workOnly (area sector : Nat) : s.workOnly (s.markSector area sector) := by
  unfold State.markSector
  split <;> rfl

theorem State.flashRead_workOnly (area first n : Nat) : s.workOnly (s.flashRead area first n) := by
  unfold State.flashRead
  refine State.workOnly.trans ?_ (State.foldl_workOnly (fun _ _ => State.markSector_workOnly _ _ _) _ _)
  rfl

theorem State.tierWrite_workOnly (tier a : Nat) (b : Bytes) : s.workOnly (s.tierWrite tier a b) := by
  unfold State.tierWrite
  split <;> rfl

theorem State.readMedium_workOnly (tier : Nat) (l : List (Nat × Nat)) : s.workOnly (s.readMedium tier l) := by
  unfold State.readMedium
  split
  · exact State.foldl_workOnly (fun s k => State.flashRead_workOnly s 0 k 1) _ _
  · rfl

theorem State.coverAll_workOnly (tier : Nat) (l : List (Nat × Nat)) : s.workOnly (s.coverAll tier l) := by
  unfold State.coverAll
  split
  · rfl
  · refine State.workOnly.trans ?_ (State.foldl_workOnly (fun s k => State.flashProgram_workOnly s 0 k 1) _ _)
    rfl
  · rfl

theorem State.carryOut_workOnly (r : Run) (t : Transfer) (f g : Fmt) (h : HostImage) : s.workOnly (s.carryOut r t f g h) := by
  unfold State.carryOut
  extract_lets read codes s1 s2
  have hs1 : s.workOnly s1 := by
    refine State.foldl_workOnly (fun s x => ?_) _ _
    dsimp only
    split
    · rfl
    · exact State.tierWrite_workOnly _ _ _ _
  have hs2 : s.workOnly s2 := by
    unfold s2
    split
    · exact hs1
    · exact hs1.trans (State.readMedium_workOnly _ _ _)
  split
  · exact hs2
  · exact hs2.trans (State.coverAll_workOnly _ _ _)

theorem State.draw_workOnly (n : Nat) : s.workOnly (s.draw n) := rfl

theorem State.finishMoves_workOnly (r : Run) (h : HostImage) : s.workOnly (s.finishMoves r h) := by
  unfold State.finishMoves
  refine State.foldl_workOnly (fun s t => ?_) _ _
  split
  · split
    · rfl
    · exact (State.carryOut_workOnly _ _ _ _ _ _).trans (State.draw_workOnly _ _)
  · rfl

theorem State.wipeTokens_workOnly (r : Run) : s.workOnly (s.wipeTokens r) := by
  unfold State.wipeTokens
  split
  · refine State.foldl_workOnly (fun s a => ?_) _ _
    rfl
  · rfl

theorem State.leaveBarriers_workOnly (r : Run) : s.workOnly (s.leaveBarriers r) := by
  unfold State.leaveBarriers
  split <;> rfl

theorem State.freeRegions_workOnly : s.workOnly s.freeRegions := by
  unfold State.freeRegions
  split <;> rfl

theorem State.zeroRegions_workOnly (l : List Nat) : s.workOnly (s.zeroRegions l) := by
  unfold State.zeroRegions
  dsimp only
  split <;> rfl

theorem State.removeRun_workOnly (rid : Nat) : s.workOnly (s.removeRun rid) := by
  unfold State.removeRun
  extract_lets s1 runs passes
  have hs1 : s.workOnly s1 :=
    State.foldl_workOnly (fun s r => (State.wipeTokens_workOnly s r).trans (State.leaveBarriers_workOnly _ r)) _ _
  refine State.workOnly.trans ?_ (State.freeRegions_workOnly _)
  unfold State.workOnly at *
  rw [hs1]

theorem State.dropRuns_workOnly (cid : Nat) : s.workOnly (s.dropRuns cid) := by
  unfold State.dropRuns
  exact State.foldl_workOnly (fun s r => (State.finishMoves_workOnly s r []).trans (State.removeRun_workOnly _ _)) _ _

theorem State.dropPasses_workOnly (cid : Nat) : s.workOnly (s.dropPasses cid) := rfl

/-- Dropping a command's work leaves the collections but for what the command has not committed to them. -/
theorem State.dropWork_workOnly (c : Cmd) : ∃ t : State, (t = s ∨ t = s.dropUncommitted c.cid) ∧ t.workOnly (s.dropWork c) := by
  unfold State.dropWork
  split
  · exact ⟨s, .inl rfl, (State.dropPasses_workOnly _ _).trans (State.dropRuns_workOnly _ _)⟩
  · exact ⟨_, .inr rfl, State.dropRuns_workOnly _ _⟩
  · exact ⟨s, .inl rfl, State.dropRuns_workOnly _ _⟩
  · exact ⟨s, .inl rfl, rfl⟩

theorem State.dropWork_shelter (c : Cmd) : (s.dropWork c).regs.shelter = s.regs.shelter := by
  obtain ⟨t, rfl | rfl, ht⟩ := s.dropWork_workOnly c
  · exact ht.shelter
  · exact ht.shelter

/-! ### Entering shelter mode -/

theorem State.endAll_shelter (p : Cmd → Bool) (r : Result) : (s.endAll p r).regs.shelter = s.regs.shelter := by
  unfold State.endAll
  exact State.foldl_shelter (fun s c => (State.complete_shelter _ _ _).trans (State.dropWork_shelter s c)) _ _

theorem State.closeLoans_shelter (p : Loan → Bool) : (s.closeLoans p).regs.shelter = s.regs.shelter := by
  unfold State.closeLoans
  exact (State.foldl_shelter (fun _ _ => State.refuseLater_shelter _ _ _ _ _ _) _ _).trans
    ((State.freeRegions_workOnly _).shelter.trans (State.zeroRegions_workOnly _ _).shelter)

theorem State.leaveGroup_shelter : s.leaveGroup.regs.shelter = s.regs.shelter := by
  unfold State.leaveGroup
  split
  · rfl
  · exact (State.closeLoans_shelter _ _).trans (State.refuseLater_shelter _ _ _ _ _ _)

theorem State.shelterEntry_shelter : s.shelterEntry.regs.shelter = s.regs.shelter := by
  unfold State.shelterEntry
  exact (State.leaveGroup_shelter _).trans (State.endAll_shelter _ _ _)

/-- A settled step whose flag is as before has not entered shelter mode. -/
theorem State.settled_of_same {t : State} (h : (s.settled t).regs.shelter = s.regs.shelter) : s.settled t = t := by
  refine State.settled_same ?_
  unfold State.settled at h
  split at h
  · rwa [State.shelterEntry_shelter] at h
  · exact h

end

end Sys2Proof.Machine
end

section
/-!
PROOFS. What laying out a collection's structures may touch (chapter 11): the places in T1 and in the index area, and of each collection
only its segments, tombstone chunks and generations.
-/

namespace Sys2Proof.Machine

/-! ### The relation -/

/-- A collection without the structures that are laid out. -/
def Collection.bare (c : Collection) : Collection := { c with segs := [], chunks := [], gens := [] }

/-- Two states differ at most in what laying out touches: memory, flash blocks and placed sectors, free values drawn, and the structures
that the collections lay out. -/
def State.layoutOnly (s t : State) : Prop :=
  t = { s with colls := t.colls, mem := t.mem, free := t.free, store := { s.store with blocks := t.store.blocks, placed := t.store.placed } }
    ∧ t.colls.map Collection.bare = s.colls.map Collection.bare

theorem State.layoutOnly.rfl' (s : State) : s.layoutOnly s := ⟨rfl, rfl⟩

theorem State.layoutOnly.trans {s t u : State} (h : s.layoutOnly t) (k : t.layoutOnly u) : s.layoutOnly u := by
  obtain ⟨hst, hbare⟩ := h
  obtain ⟨htu, hbare'⟩ := k
  refine ⟨?_, hbare'.trans hbare⟩
  rw [htu, hst]

theorem State.foldl_layoutOnly {α : Type} {f : State → α → State} (hf : ∀ s a, State.layoutOnly s (f s a)) (l : List α) (s : State) :
    s.layoutOnly (l.foldl f s) := by
  induction l generalizing s with
  | nil => exact State.layoutOnly.rfl' s
  | cons a l ih => exact (hf s a).trans (ih _)

/-! ### The operations -/

/-- A change of the structures that one collection lays out. -/
theorem State.updColl_layoutOnly (s : State) (id : Nat) {f : Collection → Collection} (hf : ∀ c, (f c).bare = c.bare) :
    s.layoutOnly (s.updColl id f) := by
  refine ⟨rfl, ?_⟩
  rw [State.updColl, updWhere, List.map_map]
  refine List.map_congr_left fun c _ => ?_
  rw [Function.comp_apply]
  split
  · exact hf c
  · rfl

theorem State.flashProgram_layoutOnly (s : State) (area first n : Nat) : s.layoutOnly (s.flashProgram area first n) := by
  unfold State.flashProgram
  split
  · exact State.layoutOnly.rfl' s
  · exact ⟨rfl, rfl⟩

theorem State.openRegion_layoutOnly {s t : State} {stack : Option Nat} {num : Nat} (found : s.openRegion stack num = some t) :
    s.layoutOnly t := by
  obtain ⟨units, -, rfl⟩ := Option.map_eq_some_iff.1 found
  exact ⟨rfl, rfl⟩

theorem State.openRun_layoutOnly {k r : Nat} {s t : State} (found : State.openRun k r s = some t) : s.layoutOnly t := by
  induction k generalizing r s with
  | zero =>
    obtain rfl := Option.some.inj found
    exact State.layoutOnly.rfl' s
  | succ k ih =>
    obtain ⟨u, hu, ht⟩ := Option.bind_eq_some_iff.1 found
    exact (State.openRegion_layoutOnly hu).trans (ih ht)

theorem State.findSpread_layoutOnly {s : State} {align n : Nat} {x : State × Nat} (found : s.findSpread align n = some x) : s.layoutOnly x.1 := by
  unfold State.findSpread at found
  dsimp only at found
  split at found
  · obtain rfl := Option.some.inj found
    exact State.layoutOnly.rfl' s
  · obtain ⟨r, -, hr⟩ := Option.bind_eq_some_iff.1 found
    obtain ⟨u, hu, rfl⟩ := Option.map_eq_some_iff.1 hr
    exact State.openRun_layoutOnly hu

theorem State.findStack_layoutOnly {s : State} {stack home n : Nat} {x : State × Nat} (found : s.findStack stack home n = some x) :
    s.layoutOnly x.1 := by
  unfold State.findStack at found
  split at found
  · obtain rfl := Option.some.inj found
    exact State.layoutOnly.rfl' s
  · split at found
    · obtain rfl := Option.some.inj found
      exact State.layoutOnly.rfl' s
    · split at found
      · cases found
      · rename_i opened
        obtain ⟨r, -, hr⟩ := Option.bind_eq_some_iff.1 opened
        obtain ⟨a, -, rfl⟩ := Option.map_eq_some_iff.1 found
        exact State.openRegion_layoutOnly hr

theorem State.freeRegions_layoutOnly (s : State) : s.layoutOnly s.freeRegions := by
  unfold State.freeRegions
  split
  · exact ⟨rfl, rfl⟩
  · exact State.layoutOnly.rfl' s

theorem State.setSeg_layoutOnly (s : State) (id i : Nat) (g : Segment) : s.layoutOnly (s.setSeg id i g) :=
  State.updColl_layoutOnly s id fun _ => rfl

/-- The full vectors of a segment programmed where sectors are found, or left. -/
theorem State.flashWhere_layoutOnly (s : State) (g : Segment) (o : Option Nat) (n : Nat) (g' : Nat → Segment) :
    s.layoutOnly (match (generalizing := false) o with
      | none => (s, g)
      | some k => (s.flashProgram 1 k n, g' k)).1 := by
  cases o with
  | none => exact State.layoutOnly.rfl' s
  | some k => exact State.flashProgram_layoutOnly s 1 k n

theorem State.layFlash_layoutOnly (s : State) (id i : Nat) : s.layoutOnly (s.layFlash id i) := by
  unfold State.layFlash
  split
  · exact State.layoutOnly.rfl' s
  · dsimp only
    have full {o : Option Nat} {n : Nat} {g : Segment} {g' : Nat → Segment} := State.flashWhere_layoutOnly s g o n g'
    split
    · exact full.trans (State.setSeg_layoutOnly _ _ _ _)
    · exact ((full.trans (State.setSeg_layoutOnly _ _ _ _)).trans (State.flashProgram_layoutOnly _ _ _ _)).trans (State.setSeg_layoutOnly _ _ _ _)

theorem State.laySeg_layoutOnly (s : State) (id i : Nat) : s.layoutOnly (s.laySeg id i) := by
  unfold State.laySeg
  split
  · exact State.layoutOnly.rfl' s
  · split
    · exact State.layoutOnly.rfl' s
    · split
      · exact State.layoutOnly.rfl' s
      · rename_i found
        have placed {g : Segment} := (State.findStack_layoutOnly found).trans (State.setSeg_layoutOnly _ id i g)
        dsimp only
        split
        · exact placed
        · split
          · exact placed
          · rename_i foundRefs
            exact (placed.trans (State.findStack_layoutOnly foundRefs)).trans (State.setSeg_layoutOnly _ _ _ _)

theorem State.layChunk_layoutOnly (s : State) (id i : Nat) : s.layoutOnly (s.layChunk id i) := by
  unfold State.layChunk
  split
  · exact State.layoutOnly.rfl' s
  · split
    · exact State.layoutOnly.rfl' s
    · split
      · exact State.layoutOnly.rfl' s
      · rename_i found
        exact (State.findStack_layoutOnly found).trans (State.updColl_layoutOnly _ _ fun _ => rfl)

theorem State.layGraph_layoutOnly (s : State) (id i : Nat) : s.layoutOnly (s.layGraph id i) := by
  unfold State.layGraph
  split
  · exact State.layoutOnly.rfl' s
  · dsimp only
    refine State.layoutOnly.trans ?_ (State.foldl_layoutOnly (fun s k => ?_) _ _)
    · split
      · exact State.layoutOnly.rfl' s
      · split
        · exact State.layoutOnly.rfl' s
        · rename_i found
          exact (State.findSpread_layoutOnly found).trans (State.updColl_layoutOnly _ _ fun _ => rfl)
    · split
      · exact State.layoutOnly.rfl' s
      · split
        · exact State.layoutOnly.rfl' s
        · rename_i found
          exact (State.findSpread_layoutOnly found).trans (State.updColl_layoutOnly _ _ fun _ => rfl)

theorem State.layColl_layoutOnly (s : State) (id : Nat) : s.layoutOnly (s.layColl id) := by
  unfold State.layColl
  extract_lets synced count graphs segs
  have hsynced : s.layoutOnly synced := State.updColl_layoutOnly s id fun _ => rfl
  have hgraphs : s.layoutOnly graphs := hsynced.trans (State.foldl_layoutOnly (fun s i => s.layGraph_layoutOnly id i) _ _)
  have hsegs : s.layoutOnly segs :=
    hgraphs.trans (State.foldl_layoutOnly (fun s i => (s.layFlash_layoutOnly id i).trans (State.laySeg_layoutOnly _ id i)) _ _)
  exact hsegs.trans (State.foldl_layoutOnly (fun s i => s.layChunk_layoutOnly id i) _ _)

/-- Laying out everything touches only places and the structures that are placed. -/
theorem State.layout_layoutOnly (s : State) : s.layoutOnly s.layout := by
  unfold State.layout
  refine State.layoutOnly.trans (State.foldl_layoutOnly (fun s c => ?_) _ _) (State.freeRegions_layoutOnly _)
  split
  · exact State.layoutOnly.rfl' s
  · exact State.layColl_layoutOnly s c.cid

/-! ### What it keeps -/

section
variable {s t : State} (h : s.layoutOnly t)
include h

theorem State.layoutOnly.rings_eq : t.rings = s.rings := by rw [h.1]
theorem State.layoutOnly.regs_eq : t.regs = s.regs := by rw [h.1]
theorem State.layoutOnly.group_eq : t.group = s.group := by rw [h.1]

/-- Each collection is as before beside what is laid out. -/
theorem State.layoutOnly.coll_bare {c : Collection} (hc : c ∈ t.colls) : ∃ k ∈ s.colls, c.bare = k.bare := by
  have hmem : c.bare ∈ s.colls.map Collection.bare := h.2 ▸ List.mem_map_of_mem hc
  obtain ⟨k, hk, hbare⟩ := List.mem_map.1 hmem
  exact ⟨k, hk, hbare.symm⟩

end

end Sys2Proof.Machine
end

section
/-!
PROOFS. How commands end (chapters 11, 14 and 15): a store command's effect on its sectors, and fences, expiries and tensor moves.
-/

namespace Sys2Proof.Machine

/-! ### A command under way -/

/-- A command that an identifier finds has that identifier and is not finished. -/
theorem State.cmd?_some {s : State} {cid : Nat} {c : Cmd} (hc : s.cmd? cid = some c) : c.cid = cid ∧ c.finished = false := by
  simpa using List.find?_some hc

theorem Cmd.mutation?_of {c : Cmd} {m : Mutation} (hb : c.body = .mutation m) : c.mutation? = some m := by
  simp only [Cmd.mutation?, hb]

theorem Cmd.query?_of {c : Cmd} {q : QueryWork} (hb : c.body = .query q) : c.query? = some q := by
  simp only [Cmd.query?, hb]

/-! ### The host area under a store command -/

section
variable (s : State) (w : StoreWork) (n : Nat) (reach : Bool)

theorem State.flashProgram_storeHost (area first n : Nat) : (s.flashProgram area first n).store.host = s.store.host := by
  unfold State.flashProgram
  split <;> rfl

theorem State.markSector_storeHost (area sector : Nat) : (s.markSector area sector).store.host = s.store.host := by
  unfold State.markSector
  split <;> rfl

theorem State.flashRead_storeHost (area first n : Nat) : (s.flashRead area first n).store.host = s.store.host := by
  unfold State.flashRead
  exact foldl_keeps (fun s : State => s.store.host) (fun _ _ => State.markSector_storeHost _ _ _) _ _

theorem State.storeApply_write_storeHost (hw : w.kind = .write) :
    (s.storeApply w n reach).store.host = Mem.write s.store.host (w.first * 4096) (w.data.take (n * 4096)) := by
  simp only [State.storeApply, hw, State.flashProgram_storeHost]

theorem State.storeApply_trim_storeHost (hw : w.kind = .trim) :
    (s.storeApply w n reach).store.host = Mem.clear s.store.host (w.first * 4096) (n * 4096) := by
  simp only [State.storeApply, hw, State.flashDrop]

theorem State.storeApply_read_storeHost (hw : w.kind = .read) : (s.storeApply w n reach).store.host = s.store.host := by
  simp only [State.storeApply, hw]
  split
  · exact State.flashRead_storeHost _ _ _ _
  · exact State.flashRead_storeHost _ _ _ _

/-- What a store command's first sectors leave in the host area. -/
theorem State.storeApply_get (hwf : s.memoriesWf = true) (hlen : w.data.length = n * 4096 ∨ w.kind ≠ .write) (j : Nat) :
    Mem.get (s.storeApply w n reach).store.host j =
      if w.kind ≠ .read ∧ w.first * 4096 ≤ j ∧ j < (w.first + n) * 4096 then
        (if w.kind = .write then w.data.getD (j - w.first * 4096) 0 else 0)
      else Mem.get s.store.host j := by
  have hhost : Mem.wf s.store.host = true := ((State.memoriesWf_iff s).1 hwf).2.2.2
  have hend : (w.first + n) * 4096 = w.first * 4096 + n * 4096 := Nat.add_mul _ _ _
  cases hkind : w.kind with
  | write =>
    have hdata : w.data.length = n * 4096 := hlen.resolve_right (not_not_intro hkind)
    rw [State.storeApply_write_storeHost s w n reach hkind, Mem.get_write _ _ _ _ hhost, List.take_of_length_le hdata.le, hdata, hend]
    simp
  | trim =>
    rw [State.storeApply_trim_storeHost s w n reach hkind, Mem.get_clear, hend]
    simp
  | read =>
    rw [State.storeApply_read_storeHost s w n reach hkind]
    simp

end

/-! ### STORE_COMPLETION -/

section
variable {s : State} {cid : Nat} {c : Cmd} {w : StoreWork} (hc : s.cmd? cid = some c) (hb : c.body = .store w) (hadm : c.admitted = true)
  (hheld : c.held = none) (hup : s.storesUp = true)
include hc hb hadm hheld hup

/-- A store command whose sectors decode, or need not, takes effect. -/
theorem execStoreCompletion_done (hok : w.kind ≠ .read ∨ s.sectorFails (w.first * 4096) (w.count * 4096) = false) :
    execStoreCompletion cid s
      = .next ((s.storeApply w w.count (!c.unreachable)).complete cid { Result.of 0 with b := w.count }) := by
  have hfails : (decide (w.kind = .read) && s.sectorFails (w.first * 4096) (w.count * 4096)) = false := by
    obtain hkind | hsectors := hok
    · simp [hkind]
    · rw [hsectors, Bool.and_false]
  simp only [execStoreCompletion, hc, hb, hadm, hheld, hup, hfails, Option.isNone_none, Bool.and_self, event_true, Bool.false_eq_true, if_false]

/-- A read over a sector that fails. -/
theorem execStoreCompletion_failed (hkind : w.kind = .read) (hfails : s.sectorFails (w.first * 4096) (w.count * 4096) = true) :
    execStoreCompletion cid s = .next (s.settled ((s.flashFailure c
      ((s.store.failing.find? fun k => w.first ≤ k && k < w.first + w.count).getD w.first)).complete cid (.of 8))) := by
  simp only [execStoreCompletion, hc, hb, hadm, hheld, hup, hkind, hfails, decide_true, Option.isNone_none, Bool.and_self, event_true, if_true]

end

theorem State.flashFailure_storeHost (s : State) (c : Cmd) (sector : Nat) : (s.flashFailure c sector).store.host = s.store.host :=
  (State.record_recordOnly s _).storeHost

/-- Settles O13: the row's two outcomes. -/
theorem storeCommandsComplete : Obligations.StoreCommandsComplete := fun _ _ _ _ hc hb hadm hheld hup =>
  ⟨execStoreCompletion_done hc hb hadm hheld hup, execStoreCompletion_failed hc hb hadm hheld hup⟩

/-- Settles O14: by the effect where the command completes, and by the record's and the completion's frames where a read fails. -/
theorem storeCommandsChangeTheirSectors : Obligations.StoreCommandsChangeTheirSectors := by
  intro s t cid c w hc hb hadm hheld hup hwf hlen hexec hflag j
  by_cases hok : w.kind ≠ .read ∨ s.sectorFails (w.first * 4096) (w.count * 4096) = false
  · have ht := (execStoreCompletion_done hc hb hadm hheld hup hok).symm.trans hexec
    obtain rfl := Host.Outcome.next.inj ht
    rw [(State.complete_endOnly _ _ _).storeHost]
    exact State.storeApply_get s w w.count _ hwf hlen j
  · obtain ⟨hkind, hfails⟩ : w.kind = .read ∧ s.sectorFails (w.first * 4096) (w.count * 4096) = true := by
      simpa only [not_or, not_not, Bool.not_eq_false] using hok
    have ht := (execStoreCompletion_failed hc hb hadm hheld hup hkind hfails).symm.trans hexec
    obtain rfl := Host.Outcome.next.inj ht
    rw [State.settled_of_same s hflag, (State.complete_endOnly _ _ _).storeHost, State.flashFailure_storeHost]
    simp [hkind]

/-! ### Fences, expiries, commits and tensor moves -/

/-- Settles O15: each row's guard holds and its effect is the completion. -/
theorem commandsEnd : Obligations.CommandsEnd := by
  intro s cid host c hc
  refine ⟨fun f hb hover hheld => ?_, fun q hb hadm hwait => ?_, fun q at0 hb hadm hbound hlodge htick => ?_,
    fun m seq hb hcommitted hround hheld => ?_, fun m u hb hstarted hheld hup hfails ht2 hu => ?_⟩
  · simp only [exec, execFenceComplete, hc, hb, hover, hheld, Option.isNone_none, Bool.and_self, event_true]
  · simp only [exec, execWaitLimitExpiry, hc, Cmd.query?_of hb, hadm, hwait, Bool.not_false, Bool.and_self, event_true]
  · simp only [exec, execQueryBoundExpiry, hc, Cmd.query?_of hb, hadm, ge_iff_le, hbound, hlodge, htick, Option.any_some, decide_true,
      Bool.and_self, event_true]
  · simp only [exec, execGroupCommitCompletion, hc, Cmd.mutation?_of hb, hcommitted, ge_iff_le, hround, hheld, Option.isNone_none, decide_true,
      Bool.and_self, event_true, mutationDone]
  · have hguard : (!m.namesT2 || false || (s.flownOver m.flown && !s.t2Shed [m.src, m.dst])) = true := by
      obtain hno | ⟨hflown, hshed⟩ := ht2
      · simp [hno]
      · simp [hflown, hshed]
    subst hu
    simp only [exec, execMoveTensorDone, hc, hb, hstarted, hheld, hup, hguard, hfails, Option.isNone_none, Bool.and_self, event_true,
      Bool.false_eq_true, if_false]
    cases c.unreachable && m.dst.tier == 4 with
    | true => rfl
    | false => rfl

end Sys2Proof.Machine
end

section
/-!
PROOFS. The journal's order (chapter 6): the admission of a mutation, its last part, its holders, and its commit.
-/

namespace Sys2Proof.Machine

/-! ### Admission -/

section
variable {s : State} {cid : Nat} {c : Cmd} {m : Mutation} {k : Collection}

theorem State.wantsAdmission_of (hc : s.cmd? cid = some c) (hk : s.usable c.hdr.collection = some k) (hload : k.load = .loaded)
    (hadm : c.admitted = false) (hheld : c.held = none) (hready : m.ready = true)
    (hearlier : s.earlier c (fun x y => !x.admitted && y.ready) = false) : s.wantsAdmission c m = true := by
  simp [State.wantsAdmission, hadm, (State.cmd?_some hc).2, hheld, hready, hk, hload, hearlier]

/-- A mutation that may be admitted is admitted where its collection has a sequence and its writes have room. -/
theorem execMutationAdmission_admits (hc : s.cmd? cid = some c) (hb : c.body = .mutation m) (hk : s.usable c.hdr.collection = some k)
    (hwants : s.wantsAdmission c m = true) (hserves : s.serves Component.store0 = true) (hlodge : s.fw.lodge = .up)
    (hstage : s.power.applied < 3) (hshelter : s.regs.shelter = false) (hjoin : s.group.joining = none) (hsan : s.store.sanitise = none)
    (hroom : s.journalRoom (m.sectorsFrom (s.partSize m.kind) 0) = true) (hawaited : s.roomAwaited cid = false) :
    execMutationAdmission cid s = .next
      (if k.latest ≥ 0xFFFFFFFFFFFFFFFE ∨ ((m.kind = .insert ∨ m.kind = .embed) ∧ (s.admitMutation c m k).fits k.cid = false)
       then s.complete cid (.of 5) else s.admitMutation c m k) := by
  simp only [execMutationAdmission, hc, Cmd.mutation?_of hb, hk, hwants, hserves, hlodge, hstage, hshelter, hjoin, hsan, hroom, hawaited,
    Option.isNone_none, beq_self_eq_true, decide_true, Bool.not_false, Bool.and_self, event_true]
  simp

end

/-! ### The last part -/

section
variable {s : State} {cid : Nat} {c : Cmd} {m : Mutation} {k : Collection}

theorem State.redo_same (hbase : m.base = k.latest) (hgen : m.gen = k.lastGen) : s.redo c m k = s := by
  simp [State.redo, hbase, hgen]

theorem State.holdersWait_of (hc : s.cmd? cid = some c) (hb : c.body = .mutation m) : s.holdersWait cid = !m.holdersLeft.isEmpty := by
  simp [State.holdersWait, hc, Cmd.mutation?_of hb]

theorem State.issueLast_of (hc : s.cmd? cid = some c) (hb : c.body = .mutation m) :
    s.issueLast cid = { s.updMutation cid (fun m => { m with issued := m.parts }) with
      store.journal := s.store.journal ++ [s.journalPart c m (m.parts - 1)] } := by
  simp only [State.issueLast, hc, Cmd.mutation?_of hb]

/-- The last part of a mutation that nothing before it holds back. -/
theorem execLastPartIssue_issues (hc : s.cmd? cid = some c) (hb : c.body = .mutation m) (hk : s.coll? c.hdr.collection = some k)
    (hheld : c.held = none) (hup : s.compUp Component.store0 = true) (hadm : c.admitted = true) (hm : m.admitted = true)
    (hparts : m.issued + 1 = m.parts)
    (hothers : (s.rings.cmds.any fun x => x.hdr.collection == c.hdr.collection
      && (x.mutation?.any fun y => y.closing || (y.out && x.cid != cid))) = false)
    (hearlier : s.earlier c (fun _ y => y.committed.isNone) = false) :
    execLastPartIssue cid s = .next (if k.latest ≥ 0xFFFFFFFFFFFFFFFE then s.noSequence c m
      else if (if m.sent = true then s.redo c m k else (s.redo c m k).sendData cid).holdersWait cid = true
        then (if m.sent = true then s.redo c m k else (s.redo c m k).sendData cid)
        else (if m.sent = true then s.redo c m k else (s.redo c m k).sendData cid).issueLast cid) := by
  simp only [execLastPartIssue, hc, Cmd.mutation?_of hb, hk, hheld, hup, hadm, hm, hparts, hothers, hearlier, Option.isNone_none,
    beq_self_eq_true, Bool.not_false, Bool.and_self, event_true]

end

/-- Settles O16: by the guards of the three rows; a last part whose holders have written is issued on the state as it stands. -/
theorem mutationsAdvance : Obligations.MutationsAdvance := by
  intro s cid c m k hc hb hk hheld hup
  refine ⟨fun hadm hready hserves hlodge hload hstage hshelter hjoin hsan hroom hawaited hearlier => ?_,
    fun hadm hm hparts hothers hearlier hcoll => ?_, fun holder hm hholder => ?_⟩
  · exact execMutationAdmission_admits hc hb hk (State.wantsAdmission_of hc hk hload hadm hheld hready hearlier) hserves hlodge hstage hshelter
      hjoin hsan hroom hawaited
  · have hissue := execLastPartIssue_issues hc hb hcoll hheld hup hadm hm hparts hothers hearlier
    refine ⟨fun u hlatest hu => ?_, fun hlatest hbase hgen hsent hleft => ?_, fun hlatest => ?_⟩
    · subst hu
      exact hissue.trans (congrArg _ (if_neg (Nat.not_le.2 hlatest)))
    · refine hissue.trans (congrArg _ ?_)
      rw [if_neg (Nat.not_le.2 hlatest), if_pos hsent, State.redo_same hbase hgen, State.holdersWait_of hc hb, hleft, State.issueLast_of hc hb]
      rfl
    · exact hissue.trans (congrArg _ (if_pos hlatest))
  · simp only [exec, execHolderWriteDone, hc, Cmd.mutation?_of hb, hm, hholder, Bool.and_self, event_true]

/-! ### What a rewrite of a collection keeps -/

section
variable (c : Collection)

/-- The identity and the latest sequence of a collection. -/
def Collection.named : Nat × Nat := (c.cid, c.latest)

theorem Collection.named_of_bare {c k : Collection} (h : c.bare = k.bare) : c.named = k.named := by
  have hnamed : c.bare.named = k.bare.named := congrArg Collection.named h
  exact hnamed

theorem Collection.writeSlots_named (owner gen : Nat) (seq : Option Nat) (news : List NewSlot) :
    (c.writeSlots owner gen seq news).named = c.named := by
  unfold Collection.writeSlots
  refine foldl_keeps Collection.named (fun c p => foldl_keeps Collection.named (fun c k => ?_) _ _) _ _
  dsimp only
  split <;> rfl

theorem Collection.writeMutation_named (owner : Nat) (m : Mutation) (olds : List Slot) : (c.writeMutation owner m olds).1.named = c.named := by
  unfold Collection.writeMutation
  split
  · rfl
  · dsimp only
    split
    · rfl
    · exact Collection.writeSlots_named _ _ _ _ _
    · exact Collection.writeSlots_named _ _ _ _ _

theorem Collection.rewrite_named (owner : Nat) (m : Mutation) : (c.rewrite owner m).1.named = c.named := by
  unfold Collection.rewrite
  split
  · rfl
  · exact Collection.writeMutation_named _ _ _ _

/-- The writes of a commit leave the collection's identity and take its next sequence. -/
theorem Collection.commitWrites_named (owner now : Nat) (m : Mutation) :
    (c.commitWrites owner now m).1.named = (c.cid, c.latest + 1) := by
  unfold Collection.commitWrites
  split
  rename_i c1 counts hwrites
  have hnamed : c1.named = c.named := by
    split at hwrites
    · rw [(Prod.mk.inj hwrites).1]
    · rw [← Collection.rewrite_named c owner m, hwrites]
  obtain ⟨hcid, hlatest⟩ := Prod.mk.inj hnamed
  exact congrArg₂ (fun a b => (a, b + 1)) hcid hlatest

end

/-! ### The end of a command -/

theorem State.signal_rings (s : State) (v : Nat) : (s.signal v).rings = s.rings := by
  rw [State.signal_eq]

theorem State.coalesce_cmds (s : State) (n : Nat) : (s.coalesce n).rings.cmds = s.rings.cmds := by
  unfold State.coalesce
  split
  · rfl
  · split
    · rw [State.signal_rings]
      rfl
    · rfl

theorem State.writeEntry_cmds (s : State) (q : CmpRing) (r : Result) (tag sq : Nat) : (s.writeEntry q r tag sq).rings.cmds = s.rings.cmds := by
  unfold State.writeEntry
  exact State.coalesce_cmds _ _

theorem State.stage_rings (s : State) (c : Cmd) (r : Result) : (s.stage c r).rings = s.rings := by
  unfold State.stage
  dsimp only
  split
  · split <;> rfl
  · split <;> rfl

theorem State.journalDone_rings (s : State) (c : Cmd) : (s.journalDone c).rings = s.rings := by
  unfold State.journalDone
  split <;> rfl

/-- Posting a completion drops its command and no other. -/
theorem State.post_cmds (s : State) (c : Cmd) (r : Result) : (s.post c r).rings.cmds = (s.dropCmd c.cid).rings.cmds := by
  unfold State.post
  dsimp only
  split
  · rw [State.stage_rings, State.journalDone_rings]
  · split
    · rw [State.stage_rings, State.journalDone_rings]
    · rw [State.writeEntry_cmds]
      exact congrArg (·.cmds) (State.journalDone_rings _ _)

/-- A command marked finished is under way no more. -/
theorem State.cmd?_finished (s : State) (cid : Nat) : (s.updCmd cid fun c => { c with finished := true }).cmd? cid = none := by
  unfold State.cmd? State.updCmd updWhere
  rw [List.find?_eq_none]
  intro c hc
  obtain ⟨d, -, rfl⟩ := List.mem_map.1 hc
  split <;> simp_all

/-- A completed command is under way no more, whether its entry is posted or waits for the ring service. -/
theorem State.cmd?_complete (s : State) (cid : Nat) (r : Result) : (s.complete cid r).cmd? cid = none := by
  unfold State.complete
  split
  next hc => exact hc
  next c hc =>
    dsimp only
    split
    · rw [State.cmd?, State.post_cmds, ← (State.cmd?_some hc).1]
      exact State.cmd?_dropCmd _ _
    · exact State.cmd?_finished _ _

/-! ### The commit -/

/-- The collections of an identity have a latest sequence. -/
def State.latestOf (s : State) (id latest : Nat) : Prop := ∀ x ∈ s.colls, x.cid = id → x.latest = latest

theorem State.latestOf_updColl (s : State) {id latest : Nat} {f : Collection → Collection} (hf : ∀ c, (f c).latest = latest) :
    (s.updColl id f).latestOf id latest := by
  intro x hx hid
  obtain ⟨y, -, rfl⟩ := List.mem_map.1 hx
  by_cases hy : (y.cid == id) = true
  · rw [if_pos hy]
    exact hf y
  · rw [if_neg hy] at hid
    exact absurd (beq_iff_eq.2 hid) hy

theorem State.latestOf_layout {s : State} {id latest : Nat} (h : s.latestOf id latest) : s.layout.latestOf id latest := by
  intro x hx hid
  obtain ⟨y, hy, hbare⟩ := (State.layout_layoutOnly s).coll_bare hx
  obtain ⟨hcid, hlatest⟩ := Prod.mk.inj (Collection.named_of_bare hbare)
  exact hlatest.trans (h y hy (hcid.symm.trans hid))

/-- A change of a collection beside its identity and its latest sequence. -/
theorem State.latestOf_updColl_named {s : State} {id latest n : Nat} {f : Collection → Collection} (hf : ∀ c, (f c).named = c.named)
    (h : s.latestOf id latest) : (s.updColl n f).latestOf id latest := by
  intro x hx hid
  obtain ⟨y, hy, rfl⟩ := List.mem_map.1 hx
  have hnamed : (if (y.cid == n) = true then f y else y).named = y.named := by
    split
    · exact hf y
    · rfl
  obtain ⟨hcid, hlatest⟩ := Prod.mk.inj hnamed
  exact hlatest.trans (h y hy (hcid.symm.trans hid))

theorem State.noteEligible_latestOf {s : State} {id latest n : Nat} (h : s.latestOf id latest) : (s.noteEligible n).latestOf id latest := by
  refine State.latestOf_updColl_named (fun c => ?_) h
  split <;> rfl

theorem State.announce_colls (s : State) (type : Nat) (body : Bytes) : (s.announce type body).colls = s.colls := by
  unfold State.announce
  split <;> rfl

theorem State.complete_colls (s : State) (cid : Nat) (r : Result) : (s.complete cid r).colls = s.colls := by
  rw [State.complete_endOnly s cid r]

/-- A commit raises its collection's latest sequence by one, and in a group of one its command is over. -/
theorem State.commitMutation_effect (s : State) (c : Cmd) (m : Mutation) (k : Collection) :
    (s.commitMutation c m k).latestOf k.cid (k.latest + 1) ∧ (s.groupMember = false → (s.commitMutation c m k).cmd? c.cid = none) := by
  unfold State.commitMutation
  split
  rename_i k1 counts hwrites
  extract_lets seq s1 s2 _ s3
  have hk1 : k1.latest = k.latest + 1 := by
    have hnamed := Collection.commitWrites_named k c.cid s.clock.groupTime m
    rw [hwrites] at hnamed
    exact (Prod.mk.inj hnamed).2
  have hs1 : s1.latestOf k.cid (k.latest + 1) := State.latestOf_layout (State.latestOf_updColl s fun _ => hk1)
  have hs3 : s3.latestOf k.cid (k.latest + 1) := by
    unfold s3
    split <;> exact State.noteEligible_latestOf hs1
  have hgroup : s3.group = s.group := by
    have hlaid := (State.layout_layoutOnly (s.updColl k.cid fun _ => k1)).group_eq
    unfold s3
    split <;> exact hlaid
  by_cases hmember : s3.groupMember = true
  · rw [if_pos hmember]
    refine ⟨fun x hx hid => ?_, fun halone => ?_⟩
    · exact hs3 x (State.announce_colls s3 _ _ ▸ hx) hid
    · have hsame : s3.groupMember = s.groupMember := congrArg (fun g : Group => decide (g.size > 1)) hgroup
      rw [hsame, halone] at hmember
      exact absurd hmember Bool.false_ne_true
  · rw [if_neg hmember]
    exact ⟨fun x hx hid => hs3 x (State.complete_colls s3 _ _ ▸ hx) hid, fun _ => State.cmd?_complete _ _ _⟩

section
variable {s : State} {cid : Nat} {c : Cmd} {m : Mutation} {k : Collection} (hc : s.cmd? cid = some c) (hb : c.body = .mutation m)
  (hk : s.coll? c.hdr.collection = some k)
include hc hb hk

/-- Nothing commits before its last part is on the medium and its holders have written. -/
theorem State.tryCommit_waits (hwaits : m.lastOnMedium = false ∨ m.holdersLeft ≠ []) : s.tryCommit cid = s := by
  have hguard : (m.lastOnMedium && m.holdersLeft.isEmpty && m.committed.isNone) = false := by
    obtain hlast | hleft := hwaits
    · simp [hlast]
    · simp [hleft]
  simp only [State.tryCommit, hc, Cmd.mutation?_of hb, hk, hguard, Bool.false_eq_true, if_false]

theorem State.tryCommit_commits (hlast : m.lastOnMedium = true) (hleft : m.holdersLeft = []) (hcom : m.committed = none)
    (hlatest : k.latest < 0xFFFFFFFFFFFFFFFE) : s.tryCommit cid = s.commitMutation c m k := by
  simp only [State.tryCommit, hc, Cmd.mutation?_of hb, hk, hlast, hleft, hcom, List.isEmpty_nil, Option.isNone_none, Bool.and_self, if_true,
    ge_iff_le, Nat.not_le.2 hlatest, if_false]

end

/-- A mutation whose record changes stays the work of its command. -/
theorem State.cmd?_updMutation {s : State} {cid : Nat} {c : Cmd} {m : Mutation} (hc : s.cmd? cid = some c) (hb : c.body = .mutation m)
    (f : Mutation → Mutation) : (s.updMutation cid f).cmd? cid = some { c with body := .mutation (f m) } := by
  refine (State.cmd?_updCmd s cid _ fun x => ?_).trans ?_
  · split <;> exact ⟨rfl, rfl⟩
  · rw [hc, Option.map_some, hb]

/-- A mutation of which one more part is on the medium. -/
def Mutation.withPart (m : Mutation) (part : Nat) : Mutation :=
  { m with onMedium := m.onMedium ++ [part], lastOnMedium := m.lastOnMedium || part + 1 == m.parts }

/-- Settles O17: the part is noted on its command's mutation, and the commit goes by the mutation's new record. -/
theorem lastPartCommits : Obligations.LastPartCommits := by
  intro s u part c m k noted hfind hb hc hk hm hpart hfresh hup hcom hlast hnoted hu
  have hcmd : u.cmd? c.cid = some { c with body := .mutation (m.withPart part) } := by
    rw [hu]
    exact State.cmd?_updMutation hc hb _
  have hcoll : u.coll? c.hdr.collection = some k := by
    rw [hu]
    exact hk
  refine ⟨?_, fun hwaits => ⟨?_, ?_, ?_⟩, fun hparts hleft hlatest => ?_⟩
  · subst hu hnoted
    simp only [exec, execJournalPartOnMedium, hfind, Cmd.mutation?_of hb, hm, hpart, hfresh, hup, decide_true, Bool.not_false, Bool.and_self,
      event_true]
  · exact State.tryCommit_waits hcmd rfl hcoll (hwaits.imp (fun hparts => by simp [Mutation.withPart, hlast, hparts]) id)
  · rw [hu]
    rfl
  · rw [hu]
    rfl
  · have hcommit := State.tryCommit_commits hcmd rfl hcoll (by simp [Mutation.withPart, hparts]) hleft hcom hlatest
    obtain ⟨hrises, hover⟩ := State.commitMutation_effect u { c with body := .mutation (m.withPart part) } (m.withPart part) k
    rw [hcommit]
    refine ⟨hrises, fun halone => hover ?_⟩
    rw [hu]
    exact halone

end Sys2Proof.Machine
end

section
/-!
PROOFS. The step, and what reset leaves (log 1; chapters 14 and 18).
-/

namespace Sys2Proof.Machine

/-- Settles O1: the step's second case. -/
theorem stepRunsFrontCommand : Obligations.StepRunsFrontCommand := by
  intro c rest s hpending
  simp only [step, hpending]

/-- Settles O2: the step's first case. -/
theorem emptyQueuePassesOneTick : Obligations.EmptyQueuePassesOneTick := by
  intro s hpending
  simp only [step, hpending, State.idle]

/-- Settles O3: each field of the reset state is read off. -/
theorem resetLeavesNoWork : Obligations.ResetLeavesNoWork :=
  ⟨rfl, rfl, rfl, rfl, rfl, rfl, rfl, rfl, rfl, rfl, rfl, rfl, rfl, rfl, rfl, rfl, rfl, rfl, rfl, rfl, rfl, rfl, rfl⟩

/-- Settles O4: the memories of the reset state are empty. -/
theorem resetMemoriesCanonical : Obligations.ResetMemoriesCanonical :=
  (State.memoriesWf_iff State.reset).2 ⟨rfl, rfl, rfl, rfl⟩

end Sys2Proof.Machine
end

section
/-!
PROOFS. Configuration records (R673, R674): a write goes to the copy that is not in force, and its seq is the higher one.
-/

namespace Sys2Proof.Machine

/-! ### Which copy is in force -/

section
variable {r : CfgRecord}

theorem CfgRecord.inForce_copyA (ha : r.validA = true) (h : r.validB = true → r.seqB ≤ r.seqA) : r.inForce = some (r.seqA, r.bodyA) := by
  cases hb : r.validB with
  | false => simp [CfgRecord.inForce, ha, hb]
  | true => simp [CfgRecord.inForce, ha, hb, h hb]

theorem CfgRecord.inForce_copyB (hb : r.validB = true) (h : r.validA = true → r.seqA < r.seqB) : r.inForce = some (r.seqB, r.bodyB) := by
  cases ha : r.validA with
  | false => simp [CfgRecord.inForce, ha, hb]
  | true => simp [CfgRecord.inForce, ha, hb, Nat.not_le.2 (h ha)]

/-- A record in force lies in copy A or in copy B, and a write goes to the other. -/
theorem CfgRecord.inForce_cases {q : Nat} {old : Bytes} (h : r.inForce = some (q, old))
    (hseq : r.validA = true → r.validB = true → r.seqA ≠ r.seqB) :
    (r.validA = true ∧ r.seqA = q ∧ r.bodyA = old ∧ ∀ seq body, r.write seq body = { r with seqB := seq, validB := true, bodyB := body })
      ∨ (r.validB = true ∧ r.seqB = q ∧ r.bodyB = old
        ∧ ∀ seq body, r.write seq body = { r with seqA := seq, validA := true, bodyA := body }) := by
  unfold CfgRecord.inForce at h
  split at h
  next hA =>
    obtain ⟨ha, hcmp⟩ : r.validA = true ∧ (r.validB = false ∨ r.seqB ≤ r.seqA) := by simpa using hA
    obtain ⟨hq, hold⟩ : r.seqA = q ∧ r.bodyA = old := by simpa using h
    have hother : (!r.validA || (r.validB && decide (r.seqA ≤ r.seqB))) = false := by
      cases hb : r.validB with
      | false => simp [ha]
      | true =>
        have hne := hseq ha hb
        have hle := hcmp.resolve_left (by simp [hb])
        simp only [ha, Bool.not_true, Bool.true_and, Bool.false_or, decide_eq_false_iff_not]
        omega
    exact .inl ⟨ha, hq, hold, fun seq body => by simp only [CfgRecord.write, hother, Bool.false_eq_true, if_false]⟩
  next hA =>
    split at h
    next hb =>
      obtain ⟨hq, hold⟩ : r.seqB = q ∧ r.bodyB = old := by simpa using h
      have hother : (!r.validA || (r.validB && decide (r.seqA ≤ r.seqB))) = true := by
        cases ha : r.validA with
        | false => rfl
        | true =>
          have hlt : r.seqA < r.seqB := by simpa [ha, hb] using hA
          simp [hb, hlt.le]
      exact .inr ⟨hb, hq, hold, fun seq body => by simp only [CfgRecord.write, hother, if_true]⟩
    next => cases h

end

/-- Settles O33: the copy not in force takes the write, and its seq is above that of the copy in force. -/
theorem writtenRecordIsInForce : Obligations.WrittenRecordIsInForce := by
  intro r q seq old body hforce hlt hseq
  obtain ⟨ha, hq, hold, hwrite⟩ | ⟨hb, hq, hold, hwrite⟩ := r.inForce_cases hforce hseq
  · rw [hwrite]
    exact ⟨CfgRecord.inForce_copyB rfl fun _ => hq ▸ hlt, .inl ⟨ha, hq, hold⟩⟩
  · rw [hwrite]
    exact ⟨CfgRecord.inForce_copyA rfl fun _ => hq ▸ hlt.le, .inr ⟨hb, hq, hold⟩⟩

end Sys2Proof.Machine
end

section
/-!
PROOFS. The stages of a query on a module (chapters 3 and 5).
-/

namespace Sys2Proof.Machine

/-! ### A pass that starts is started and filled -/

/-- The pass at a place, if there is one, is started and its images are filled. -/
def State.passRuns (s : State) (i : Nat) : Prop := ∀ x, s.comp.passes[i]? = some x → x.started = true ∧ x.filled = true

theorem getElem?_updAt {α : Type} (l : List α) (i j : Nat) (f : α → α) :
    (updAt i f l)[j]? = if i = j then l[j]?.map f else l[j]? := by
  rw [updAt, List.getElem?_modify]
  split
  · rfl
  · simp

theorem getElem?_updWhere {α : Type} (p : α → Bool) (f : α → α) (l : List α) (i : Nat) :
    (updWhere p f l)[i]? = l[i]?.map fun x => if p x then f x else x := by
  rw [updWhere, List.getElem?_map]

/-- A pass whose images are filled. -/
theorem State.fillPass_filled {s : State} {i : Nat} {x : LanePass} (hx : (s.fillPass i).comp.passes[i]? = some x) : x.filled = true := by
  unfold State.fillPass at hx
  split at hx
  next hnone => rw [hnone] at hx; cases hx
  next p hp =>
    simp only [getElem?_updAt, getElem?_updWhere, if_true, Option.map_map] at hx
    obtain ⟨y, -, rfl⟩ := Option.map_eq_some_iff.1 hx
    rfl

/-- Filling a pass takes no images from one that is started. -/
theorem State.fillPass_passRuns {s : State} {i j : Nat} (h : s.passRuns i) : (s.fillPass j).passRuns i := by
  intro x hx
  unfold State.fillPass at hx
  split at hx
  · exact h x hx
  · dsimp only at hx
    rw [getElem?_updAt, getElem?_updWhere] at hx
    cases hy : s.comp.passes[i]? with
    | none => simp [hy] at hx
    | some y =>
      obtain ⟨hstarted, hfilled⟩ := h y hy
      simp only [hy, Option.map_some, hstarted, Bool.not_true, Bool.and_false, Bool.false_and, Bool.false_eq_true, if_false] at hx
      split at hx
      · obtain rfl := Option.some.inj hx
        exact ⟨rfl, rfl⟩
      · obtain rfl := Option.some.inj hx
        exact ⟨hstarted, hfilled⟩

theorem State.fillAhead_passRuns {s : State} {lane i : Nat} (h : s.passRuns i) : (s.fillAhead lane i).passRuns i := by
  unfold State.fillAhead
  split
  · exact h
  · split
    · split
      · exact State.fillPass_passRuns h
      · exact h
    · exact h

/-- R137, R138: a pass begins with its images filled. -/
theorem State.startPass_passRuns (s : State) (lane i : Nat) : (s.startPass lane i).passRuns i := by
  unfold State.startPass
  extract_lets s1 bulk _ _ s2
  have hs1 : ∀ x, s1.comp.passes[i]? = some x → x.filled = true := by
    intro x hx
    unfold s1 at hx
    split at hx
    next hall => simpa [hx] using hall
    next => exact State.fillPass_filled hx
  refine State.fillAhead_passRuns fun x hx => ?_
  rw [show s2.comp.passes[i]? = s1.comp.passes[i]?.map fun p => { p with started := true, bulkRead := p.bulkRead + bulk } from by
    simp only [s2, getElem?_updAt, if_true]] at hx
  obtain ⟨y, hy, rfl⟩ := Option.map_eq_some_iff.1 hx
  exact ⟨rfl, hs1 y hy⟩

/-! ### The rows -/

/-- The search that the rerank row makes for its query, its member and its program. -/
theorem execRerankInvocation_of {s : State} {cid member : Nat} {c : Cmd} {q : QueryWork} {k : Collection} {m : Member} {p : Program}
    {image : Timetable} {base : Nat} (hc : s.cmd? cid = some c) (hb : c.body = .query q) (hk : s.coll? c.hdr.collection = some k)
    (hm : q.member? member = some m) (hp : s.program? q.plan.rerank = some p) (hphase : q.phase = .rerank) (hstatus : m.status = none)
    (hreranked : m.reranked = none) (hskipped : m.rerankSkipped = false) (hrunning : s.reranking cid member = false) (hstage : s.power.applied = 0)
    (himage : s.imageFor q.admitRound = (image, base)) (hopens : image.rerankAt (image.place base s.clock.round) = true) :
    execRerankInvocation cid member s = event s ((m.toRerank q.plan.refine).isEmpty
        || ((s.rerankRoom q).bind fun s => (s.rerankArgs k q m p).map fun x => x.1.newRun p (.rerank cid member) p.seed x.2).isSome)
      (if (m.toRerank q.plan.refine).isEmpty = true then (s.updMember cid member ({ · with reranked := some [] })).progress cid
        else ((s.rerankRoom q).bind fun s => (s.rerankArgs k q m p).map fun x => x.1.newRun p (.rerank cid member) p.seed x.2).getD s) := by
  simp only [execRerankInvocation, hc, Cmd.query?_of hb, hk, hm, hp, hphase, hstatus, hreranked, hskipped, hrunning, hstage, himage, hopens,
    Option.bind_some, Option.map_some, Option.isNone_none, beq_self_eq_true, Bool.not_false, Bool.and_self, Bool.true_and]

/-- Settles O18: each row's guard holds; a rerank invocation by whether candidates are left. -/
theorem queriesAdvance : Obligations.QueriesAdvance := by
  intro s
  refine ⟨fun cid member c q k g m hc hb hk hg hm hphase hstatus hprobes hclamp => ?_, fun lane i p hnext hp hroom hclamp hidle => ?_,
    fun lane p hp hpaused => ?_, fun cid member c q k m p image base hc hb hk hm hp hphase hstatus hreranked hskipped hrunning hstage himage hopens => ?_,
    fun cid c q k t hc hb hk hphase ht => ?_⟩
  · simp only [exec, execWalkEnd, hc, Cmd.query?_of hb, hk, hg, hm, hphase, hstatus, hprobes, hclamp, Option.isNone_none, List.isEmpty_nil,
      beq_self_eq_true, Bool.not_false, Bool.and_self, event_true]
  · refine ⟨?_, State.startPass_passRuns s lane i⟩
    simp only [exec, execLanePassStart, hnext, hp, Option.any_some, hroom, hclamp, hidle, Bool.not_false, Bool.and_self, event_true]
  · refine ⟨fun hprogram => ?_, fun run transfer hprogram => ⟨fun hread => ?_, fun hread => ?_⟩⟩
    · simp only [exec, execLanePassEnd, hp, hpaused, hprogram, Bool.not_false, event_true]
    · simp only [exec, execLanePassEnd, hp, hpaused, hprogram, Nat.not_lt.2 hread, if_false, Bool.not_false, event_true]
    · simp only [exec, execLanePassEnd, hp, hpaused, hprogram, hread, if_true, Bool.not_false, event_true, updWhere, Bool.and_eq_true, beq_iff_eq]
  · have hrow := execRerankInvocation_of hc hb hk hm hp hphase hstatus hreranked hskipped hrunning hstage himage hopens
    refine ⟨fun hnone => ?_, fun u v args hsome hroom hargs => ?_⟩
    · refine hrow.trans ?_
      rw [hnone]
      rfl
    · have hleft : (m.toRerank q.plan.refine).isEmpty = false := by simpa using hsome
      refine hrow.trans ?_
      rw [hleft, hroom, Option.bind_some, hargs]
      rfl
  · subst ht
    simp only [exec, execQueryFinal, hc, Cmd.query?_of hb, hk, hphase, beq_self_eq_true, event_true]

/-- Settles O19: the read is charged to a module's own round, and the member takes the distance or counts its NaR. -/
theorem refineReadsJoin : Obligations.RefineReadsJoin := by
  intro s early cid member id part place coll q k m g e slot hw hk hm hg hleft hslot hphase hstatus hasked hcharged hearly
  simp only [exec, execRefineReadDone, hw, hk, hm, hg, hleft, hslot, hphase, hstatus, hasked, hcharged, hearly, Option.bind_some, Option.map_some,
    Option.getD_some, Option.isSome_some, Option.isNone_none, beq_self_eq_true, Bool.not_false, Bool.and_self, event_true, beq_iff_eq]

end Sys2Proof.Machine
end

section
/-!
PROOFS. The mailbox service, framing and HELLO, and the messages that act on rings (chapters 14 and 16).
-/

namespace Sys2Proof.Machine

/-! ### What a taken message answers -/

/-- A field check finds nothing where no field is bad. -/
theorem fieldAt_none {l : List (Bool × Nat)} (h : ∀ x ∈ l, x.1 = false) : fieldAt l = none := by
  rw [fieldAt, Option.map_eq_none_iff, List.find?_eq_none]
  intro x hx
  rw [h x hx]
  exact Bool.false_ne_true

/-- A message that the device takes, whose fields are good and whose effect leaves the shelter flag alone, has its effect. -/
theorem messageEvent_acts {s t : State} {f : MsgForm} {cells : Bytes} {reserved : List (Nat × Nat × Nat)} {bad : Option Nat}
    {run : State → Nat → State} (h : s.takes f cells reserved = true) (hbad : bad = none) (hrun : run (s.takeMessage f cells) (seqOf cells) = t)
    (hflag : t.regs.shelter = s.regs.shelter) : messageEvent s f cells reserved true bad run = .next t := by
  rw [messageEvent_takes h hbad, hrun, State.settled_same hflag]

/-- An answer on a state with the flag of the state before. -/
theorem State.reply_flag {s t : State} (h : t.regs.shelter = s.regs.shelter) (type seq : Nat) (b : Bytes) :
    (t.reply type seq b).regs.shelter = s.regs.shelter :=
  (State.reply_shelter t type seq b).trans h

theorem State.refuse_flag {s t : State} (h : t.regs.shelter = s.regs.shelter) (type seq code off reason : Nat) :
    (t.refuse type seq code off reason).regs.shelter = s.regs.shelter :=
  (State.refuse_shelter t type seq code off reason).trans h

/-- An answer to a message that is still waited for. -/
theorem State.replyLater_awaited {s : State} {seq : Nat} (h : (s.mail.awaiting.any fun a => a.seq == seq) = true) (type : Nat) (b : Bytes) :
    s.replyLater type (some seq) b = s.reply type seq b := by
  simp only [State.replyLater, h, if_true]

section
variable (s : State) (f : MsgForm) (cells : Bytes)

@[simp] theorem State.takeMessage_sq? (n : Nat) : (s.takeMessage f cells).sq? n = s.sq? n := rfl
@[simp] theorem State.takeMessage_cq? (n : Nat) : (s.takeMessage f cells).cq? n = s.cq? n := rfl
@[simp] theorem State.takeMessage_rings : (s.takeMessage f cells).rings = s.rings := rfl
@[simp] theorem State.takeMessage_outstanding (n : Nat) : (s.takeMessage f cells).outstanding n = s.outstanding n := rfl

end

/-! ### Rings -/

/-- Settles O23: each message's fields are good, and its effect is the one named. -/
theorem ringMessagesAct : Obligations.RingMessagesAct := by
  intro s cells host
  refine ⟨fun hkind htakes hfields hsq hcq => ?_, fun hkind htakes hfields hcq => ?_, fun r hn hkind htakes hsq hmsg => ?_,
    fun hn hkind htakes hcq hused => ?_, fun ring seq r hsq hmsg hout hup hawaited => ?_, fun htakes hweights => ?_⟩
  · refine messageEvent_acts (by simpa [hkind, MsgForm.ringCreate] using htakes) hfields ?_ (State.reply_flag rfl _ _ _)
    simp only [hkind, State.takeMessage_sq?, State.takeMessage_cq?, hsq, Option.isNone_eq_false_iff.2 hcq, beq_self_eq_true, if_true,
      Option.isSome_none, Bool.false_eq_true, if_false]
    rfl
  · refine messageEvent_acts (by simpa [hkind, MsgForm.ringCreate] using htakes) hfields ?_ (State.reply_flag rfl _ _ _)
    simp only [hkind, State.takeMessage_cq?, hcq, Option.isSome_none, Bool.false_eq_true, if_false, Nat.reduceBEq]
    rfl
  · refine messageEvent_acts htakes (fieldAt_none (by simp [hn, hkind])) ?_ ?_
    · simp only [hkind, State.takeMessage_sq?, State.takeMessage_outstanding, hsq, hmsg, beq_self_eq_true, if_true, Option.isSome_none,
        Bool.false_eq_true, if_false]
      rfl
    · split
      · rfl
      · exact State.reply_flag rfl _ _ _
  · refine messageEvent_acts htakes (fieldAt_none (by simp [hn, hkind])) ?_ (State.reply_flag rfl _ _ _)
    simp only [hkind, State.takeMessage_cq?, State.takeMessage_rings, Option.isNone_eq_false_iff.2 hcq, hused, Bool.or_self, Bool.false_eq_true,
      if_false, Nat.reduceBEq]
    rfl
  · simp only [exec, execRingDeleteComplete, hsq, hmsg, hout, hup, Option.isSome_some, Bool.not_false, Bool.and_self, event_true]
    exact congrArg _ (State.replyLater_awaited (s := s.removeSq ring) hawaited 0x11 [])
  · refine messageEvent_acts htakes (fieldAt_none ?_) rfl (State.reply_flag rfl _ _ _)
    intro x hx
    obtain ⟨i, hi, rfl⟩ := List.mem_map.1 hx
    have hlt : i < 4 := List.mem_range.1 hi
    simp [hlt, hweights i hlt]

/-! ### Bytes of a record -/

@[simp] theorem length_toLe (n v : Nat) : (toLe n v).length = n := by
  induction n generalizing v with
  | zero => rfl
  | succ n ih => rw [toLe, List.length_cons, ih]

@[simp] theorem length_zeros (n : Nat) : (zeros n).length = n := List.length_replicate

theorem ErrRec.length_detail (r : ErrRec) : r.detail.length = 16 := by
  unfold ErrRec.detail
  dsimp only
  split <;> simp

/-- R651: a record takes 64 bytes. -/
theorem ErrRec.length_bytes (r : ErrRec) : r.bytes.length = 64 := by
  simp [ErrRec.bytes, r.length_detail]

/-- Records of one length that have room fit. -/
theorem fitting_all {k : Nat} {l : List Bytes} (hl : ∀ b ∈ l, b.length = k) {n room : Nat} (hn : l.length ≤ n) (hroom : k * l.length ≤ room) :
    fitting n room l = l := by
  induction l generalizing n room with
  | nil => cases n <;> rfl
  | cons b l ih =>
    obtain ⟨n, rfl⟩ : ∃ m, n = m + 1 := ⟨n - 1, by simp at hn; omega⟩
    have hb : b.length = k := hl b List.mem_cons_self
    rw [List.length_cons, Nat.mul_succ] at hroom
    rw [fitting, hb, if_pos (by omega), ih (fun x hx => hl x (List.mem_cons_of_mem _ hx)) (by simpa using hn) (by omega)]

/-! ### Becoming untethered -/

/-- The host's side of the block: registers, the tether's cause, the mailbox, the service session, the clock, and which rings there are. -/
structure HostSide where
  regs : Regs
  cause : Nat
  mail : Mailbox
  session : Option Nat
  clock : Clock
  sqs : List Nat
  cqs : List Nat

/-- What a completion and dropped work leave as it was. -/
def State.hostSide (s : State) : HostSide :=
  ⟨s.regs, s.tether.cause, s.mail, s.keys.session, s.clock, s.rings.sqs.map (·.num), s.rings.cqs.map (·.num)⟩

theorem map_num_updWhere {α : Type} {num : α → Nat} (p : α → Bool) {f : α → α} (hf : ∀ x, num (f x) = num x) (l : List α) :
    (updWhere p f l).map num = l.map num := by
  rw [updWhere, List.map_map]
  refine List.map_congr_left fun x _ => ?_
  rw [Function.comp_apply]
  split
  · exact hf x
  · rfl

section
variable (s : State)

theorem State.updSq_hostSide (n : Nat) {f : SubRing → SubRing} (hf : ∀ r, (f r).num = r.num) : (s.updSq n f).hostSide = s.hostSide := by
  simp only [State.hostSide, State.updSq, map_num_updWhere _ hf]

theorem State.updCq_hostSide (n : Nat) {f : CmpRing → CmpRing} (hf : ∀ q, (f q).num = q.num) : (s.updCq n f).hostSide = s.hostSide := by
  simp only [State.hostSide, State.updCq, map_num_updWhere _ hf]

theorem State.hostWrite_hostSide (a : Nat) (b : Bytes) : (s.hostWrite a b).hostSide = s.hostSide := rfl

theorem State.signal_hostSide (v : Nat) : (s.signal v).hostSide = s.hostSide := by
  rw [State.signal_eq]
  rfl

theorem State.coalesce_hostSide (n : Nat) : (s.coalesce n).hostSide = s.hostSide := by
  unfold State.coalesce
  split
  · rfl
  · split
    · exact (State.signal_hostSide _ _).trans (State.updCq_hostSide s n (by intro q; rfl))
    · rfl

theorem State.writeEntry_hostSide (q : CmpRing) (r : Result) (tag sq : Nat) : (s.writeEntry q r tag sq).hostSide = s.hostSide := by
  unfold State.writeEntry
  exact ((State.coalesce_hostSide _ _).trans (State.updCq_hostSide _ _ (by intro q; rfl))).trans (State.hostWrite_hostSide _ _ _)

theorem State.stage_hostSide (c : Cmd) (r : Result) : (s.stage c r).hostSide = s.hostSide := by
  unfold State.stage
  dsimp only
  split
  · split <;> rfl
  · split <;> rfl

theorem State.journalDone_hostSide (c : Cmd) : (s.journalDone c).hostSide = s.hostSide := by
  unfold State.journalDone
  split <;> rfl

theorem State.post_hostSide (c : Cmd) (r : Result) : (s.post c r).hostSide = s.hostSide := by
  have hdrop : ((s.dropCmd c.cid).journalDone c).hostSide = s.hostSide := State.journalDone_hostSide _ _
  unfold State.post
  dsimp only
  split
  · exact (State.stage_hostSide _ _ _).trans hdrop
  · split
    · exact (State.stage_hostSide _ _ _).trans hdrop
    · exact ((State.writeEntry_hostSide _ _ _ _ _).trans (State.updSq_hostSide _ _ (by intro r; rfl))).trans hdrop

theorem State.endQuery_hostSide (c : Cmd) (r : Result) : (s.endQuery c r).1.hostSide = s.hostSide := by
  unfold State.endQuery
  split
  · dsimp only
    split
    · refine foldl_keeps State.hostSide (fun s m => ?_) _ _
      dsimp only
      split
      · rfl
      · exact State.hostWrite_hostSide _ _ _
    · rfl
  · rfl

theorem State.complete_hostSide (cid : Nat) (r : Result) : (s.complete cid r).hostSide = s.hostSide := by
  unfold State.complete
  split
  · rfl
  · dsimp only
    split
    · exact (State.post_hostSide _ _ _).trans (State.endQuery_hostSide _ _ _)
    · exact State.endQuery_hostSide _ _ _

theorem State.dropWork_hostSide (c : Cmd) : (s.dropWork c).hostSide = s.hostSide := by
  obtain ⟨t, rfl | rfl, ht⟩ := s.dropWork_workOnly c
  · rw [ht]
    rfl
  · rw [ht]
    rfl

theorem State.endAll_hostSide (p : Cmd → Bool) (r : Result) : (s.endAll p r).hostSide = s.hostSide := by
  unfold State.endAll
  exact foldl_keeps State.hostSide (fun s c => (State.complete_hostSide _ _ _).trans (State.dropWork_hostSide s c)) _ _

end

/-- What an untether leaves of the host's side (R525, R579, R668). -/
theorem State.untether_hostSide {s : State} (h : s.regs.untethered = false) (cause : Nat) :
    (s.untether cause).hostSide =
      { regs := { s.regs with untethered := true, adminReady := false }, cause
        mail := { s.mail with toHead := 0, toTail := 0, fromHead := 0, fromTail := 0, awaiting := []
                              queue := s.mail.queue.filter (fun m => m.flags ≥ 2), badWord := false, refused := false }
        session := none, clock := s.clock, sqs := [], cqs := [] } := by
  simp only [State.untether, h, Bool.false_eq_true, if_false, State.endAll_hostSide]
  rfl

section
variable {s : State} (h : s.regs.untethered = false) (cause : Nat)
include h

theorem State.untether_regs : (s.untether cause).regs = { s.regs with untethered := true, adminReady := false } :=
  congrArg HostSide.regs (State.untether_hostSide h cause)

theorem State.untether_cause : (s.untether cause).tether.cause = cause := congrArg HostSide.cause (State.untether_hostSide h cause)

theorem State.untether_awaiting : (s.untether cause).mail.awaiting = [] :=
  congrArg (fun x => x.mail.awaiting) (State.untether_hostSide h cause)

theorem State.untether_session : (s.untether cause).keys.session = none := congrArg HostSide.session (State.untether_hostSide h cause)

theorem State.untether_clock : (s.untether cause).clock = s.clock := congrArg HostSide.clock (State.untether_hostSide h cause)

theorem State.untether_sqs : (s.untether cause).rings.sqs = [] :=
  List.map_eq_nil_iff.1 (congrArg HostSide.sqs (State.untether_hostSide h cause))

theorem State.untether_cqs : (s.untether cause).rings.cqs = [] :=
  List.map_eq_nil_iff.1 (congrArg HostSide.cqs (State.untether_hostSide h cause))

end

/-! ### The mailbox service -/

theorem State.release_none (s : State) : s.release 1 0 = s := rfl

/-- Every error record released. -/
theorem State.release_all {s : State} {n : Nat} (h : s.errors.queue.length = n) : s.release 1 n = { s with errors.queue := [] } := by
  simp only [State.release, ← h, List.drop_length]

theorem State.takeMessage_errorRecords (s : State) (f : MsgForm) (cells : Bytes) :
    (s.takeMessage f cells).logRecords 1 = s.errors.queue.map ErrRec.bytes := rfl

/-- Settles O20: the fields of each message are good; the records of a LOG_READ all fit, and the expiry is an untether. -/
theorem mailboxServiceAnswers : Obligations.MailboxServiceAnswers := by
  intro s cells host
  refine ⟨fun htakes => ?_, fun htakes hperiod => ?_, fun htakes hsource hmax => ?_,
    fun htakes hsource hrelease hlen hmax haddr halign hend hroom hfits => ?_, fun htethered hup hlodge => ?_⟩
  · exact messageEvent_acts htakes rfl rfl (State.reply_flag rfl _ _ _)
  · refine messageEvent_acts htakes (fieldAt_none ?_) ?_ (State.reply_flag rfl _ _ _)
    · simp only [List.mem_singleton, forall_eq]
      obtain hzero | ⟨hlow, hhigh⟩ := hperiod
      · simp [hzero]
      · simp [Nat.not_lt.2 hlow, Nat.not_lt.2 hhigh]
    · simp only [beq_iff_eq]
      rfl
  · refine messageEvent_acts (by simpa [hmax, MsgForm.logRead] using htakes) (fieldAt_none (by simp [hsource, hmax])) ?_ (State.reply_flag rfl _ _ _)
    simp only [hsource, hmax, fitting, beq_self_eq_true, if_true, List.length_nil, State.release_none, ite_self,
      State.takeMessage_errorRecords, List.length_map, Nat.sub_zero]
    rfl
  · have hne : field (msgBytes cells) 0x24 4 ≠ 0 := hmax.ne'
    have hfit : fitting (field (msgBytes cells) 0x24 4) (field (msgBytes cells) 0x30 4) (s.errors.queue.map ErrRec.bytes)
        = s.errors.queue.map ErrRec.bytes :=
      fitting_all (k := 64) (by simpa using fun r _ => ErrRec.length_bytes r) (by simpa using hlen) (by simpa using hfits)
    refine messageEvent_acts (by simpa [hne, MsgForm.logRead] using htakes) (fieldAt_none ?_) ?_ (State.reply_flag rfl _ _ _)
    · simpa [hsource, hrelease, hne, haddr, halign, hroom.ne'] using hend
    · simp only [hsource, hrelease, hne, beq_iff_eq, if_false, State.takeMessage_errorRecords, hfit, List.length_map, Nat.sub_self]
      exact congrArg (fun t => State.reply t 0x91 (seqOf cells) _) (State.release_all rfl)
  · have hlate : (s.advance (max s.tether.last s.tether.since + 3 * s.tether.period * ticksPerMs)).regs.untethered = false := htethered
    refine ⟨(s.advance (max s.tether.last s.tether.since + 3 * s.tether.period * ticksPerMs)).untether 1, ?_, ?_, State.untether_cause hlate 1,
      State.untether_sqs hlate 1, State.untether_cqs hlate 1, State.untether_awaiting hlate 1, State.untether_session hlate 1, ?_⟩
    · have hflag : ((s.advance (max s.tether.last s.tether.since + 3 * s.tether.period * ticksPerMs)).untether 1).regs.shelter = s.regs.shelter := by
        rw [State.untether_regs hlate]
        rfl
      simp only [exec, execTetherExpiry, htethered, hup, hlodge, beq_self_eq_true, Bool.not_false, Bool.and_self, event_true,
        State.settled_same hflag]
    · rw [State.untether_regs hlate]
    · rw [State.untether_clock hlate]
      exact le_max_right _ _

/-! ### Framing -/

/-- Settles O21: each row's guard holds and the CRC check is passed. -/
theorem framingAnswers : Obligations.FramingAnswers := by
  intro s cells host hsup htethered htake
  refine ⟨fun htype hframed hlen hcrc => ?_, fun hlen hframed => ?_, fun htype hframed hlen hcrc => ?_⟩
  · simp only [exec, execPad, asked, hsup, htethered, htake, htype, hframed, hlen, hcrc, decide_true, beq_self_eq_true, Bool.and_self,
      Bool.or_true, event_true, if_true, Bool.false_eq_true, if_false]
  · simp only [exec, execUnframedCell, asked, hsup, htethered, htake, hlen, hframed, decide_true, Bool.not_false, Bool.and_self, Bool.or_true,
      event_true, if_true, Bool.false_eq_true, if_false, beq_iff_eq, magic]
  · simp only [exec, execUnknownMessageType, asked, hsup, htethered, htake, htype, hframed, hlen, hcrc, decide_true, Bool.not_false,
      Bool.and_self, Bool.or_true, event_true, if_true, Bool.false_eq_true, if_false]

/-! ### While untethered -/

/-- What a driver without a tether asks changes nothing, where the effect is none then. -/
theorem asked_untethered {s t e : State} {ok : Bool} (hun : s.regs.untethered = true)
    (h : asked s ok (if s.regs.untethered = true then s else e) = .next t) : t = s := by
  rw [if_pos hun] at h
  obtain ⟨-, ⟨-, ht⟩ | ⟨-, ht⟩⟩ := asked_cases h
  · exact ht
  · exact ht

/-- Every message row but HELLO has an effect only while tethered. -/
theorem exec_messageRow {s : State} {cells : Bytes} {host : HostImage} {i : Instr} (hi : i ∈ messageRows cells host) :
    ∃ (ok : Bool) (e : State), exec i s = asked s ok (if s.regs.untethered = true then s else e) := by
  revert i
  simp only [messageRows, List.forall_mem_cons, List.not_mem_nil, false_imp_iff, implies_true, and_true]
  refine ⟨?_, ?_, ?_, ?_, ?_, ?_, ?_, ?_, ?_, ?_, ?_, ?_, ?_, ?_, ?_, ?_, ?_, ?_, ?_, ?_, ?_, ?_, ?_, ?_, ?_, ?_, ?_, ?_, ?_, ?_, ?_, ?_, ?_,
    ?_, ?_, ?_, ?_, ?_, ?_, ?_, ?_, ?_, ?_, ?_, ?_, ?_, ?_, ?_, ?_⟩
  all_goals exact ⟨_, _, rfl⟩

/-- Settles O25: by the form that every message row has. -/
theorem untetheredMessagesAreDiscarded : Obligations.UntetheredMessagesAreDiscarded := by
  intro s t cells host i hun hi hexec
  obtain ⟨ok, e, hrow⟩ := exec_messageRow (s := s) hi
  exact asked_untethered hun (hrow.symm.trans hexec)

/-! ### HELLO -/

section
variable (s : State)

theorem State.hostWrite_mail (a : Nat) (b : Bytes) : (s.hostWrite a b).mail = s.mail := rfl

theorem State.writeCells_toHead (b : Bytes) (n : Nat) : (s.writeCells b n).mail.toHead = s.mail.toHead := rfl

theorem State.padCells_toHead (n : Nat) : (s.padCells n).mail.toHead = s.mail.toHead := by
  unfold State.padCells
  dsimp only
  split <;> rfl

theorem State.putMessage_toHead (m : OutMsg) : (s.putMessage m).mail.toHead = s.mail.toHead := by
  have hsignal (u : State) : (u.signal 0).mail.toHead = u.mail.toHead := by rw [State.signal_eq]
  unfold State.putMessage
  extract_lets len s1 bytes s2 s3
  have hs3 : s3.mail = s2.mail := State.hostWrite_mail _ _ _
  calc (s3.signal 0).mail.toHead = s3.mail.toHead := hsignal s3
    _ = s2.mail.toHead := congrArg (·.toHead) hs3
    _ = s1.mail.toHead := State.writeCells_toHead s1 bytes _
    _ = s.mail.toHead := State.padCells_toHead s len

theorem State.drainQueue_toHead (n : Nat) : (State.drainQueue n s).mail.toHead = s.mail.toHead := by
  induction n generalizing s with
  | zero => rfl
  | succ n ih =>
    unfold State.drainQueue
    split
    · rfl
    · split
      · exact (ih _).trans (State.putMessage_toHead _ _)
      · rfl

theorem State.sendReports_toHead (l : List ErrRec) : (State.sendReports l s).mail.toHead = s.mail.toHead := by
  induction l generalizing s with
  | nil => rfl
  | cons r l ih =>
    unfold State.sendReports
    split
    · exact ih s
    · split
      · exact (ih _).trans (State.putMessage_toHead _ _)
      · rfl

theorem State.flushMail_toHead : s.flushMail.mail.toHead = s.mail.toHead := by
  unfold State.flushMail
  split
  · rfl
  · dsimp only
    split
    · exact (State.sendReports_toHead _ _).trans (State.drainQueue_toHead _ _)
    · exact State.drainQueue_toHead _ _

end

/-- What of the state a HELLO's answer leaves as the attaching made it. -/
def State.attached (s : State) : Bool × Tether × Nat := (s.regs.untethered, s.tether, s.mail.toHead)

theorem State.attached_of_mailOnly {s t : State} (h : s.mailOnly t) (hhead : t.mail.toHead = s.mail.toHead) : t.attached = s.attached := by
  unfold State.mailOnly at h
  unfold State.attached
  rw [hhead, h]

theorem State.startAdmin_attached (s : State) : s.startAdmin.attached = s.attached := by
  unfold State.startAdmin
  dsimp only
  split <;> rfl

theorem State.untether_same {s : State} (hun : s.regs.untethered = true) (cause : Nat) : s.untether cause = s := if_pos hun

/-- The answer to an accepted HELLO, and the admin pair that it starts. -/
def State.helloAnswer (s : State) (seq : Nat) : State :=
  let s1 := s.hostWrite s.regs.mboxFrom.toNat (toLe 4 s.mail.toHead)
  let s2 := s1.putMessage ⟨1, seq, 0, 1, s1.helloBody⟩
  (if s2.regs.adminEnable then s2.startAdmin else s2).flushMail

theorem State.helloAccept_of_untethered {s : State} (hun : s.regs.untethered = true) (m : Bytes) (cells : Nat) :
    s.helloAccept m cells = ({ s with mail.toHead := cells }.attach m).helloAnswer (field m 8 4) := by
  simp only [State.helloAccept, State.untether_same hun, hun, Bool.not_true, Bool.false_eq_true, if_false]
  rfl

theorem State.helloAnswer_attached (s : State) (seq : Nat) :
    (s.helloAnswer seq).attached = s.attached ∧ (s.regs.adminEnable = false → (s.helloAnswer seq).rings = s.rings) := by
  unfold State.helloAnswer
  extract_lets s0 s1
  have hs1 : s.mailOnly s1 := (State.hostWrite_mailOnly _ _ _).trans (State.putMessage_mailOnly _ _)
  have hattached : s1.attached = s.attached := State.attached_of_mailOnly hs1 (State.putMessage_toHead _ _)
  have hadmin : s1.regs.adminEnable = s.regs.adminEnable := by
    unfold State.mailOnly at hs1
    rw [hs1]
  have hflush (u : State) : u.flushMail.attached = u.attached := State.attached_of_mailOnly (State.flushMail_mailOnly u) (State.flushMail_toHead u)
  clear_value s0 s1
  refine ⟨?_, fun hoff => ?_⟩
  · rw [hflush]
    split
    · rw [State.startAdmin_attached, hattached]
    · exact hattached
  · rw [if_neg (by rw [hadmin, hoff]; exact Bool.false_ne_true)]
    have hall := hs1.trans (State.flushMail_mailOnly s1)
    unfold State.mailOnly at hall
    rw [hall]

/-- Settles O22: the device is attached by the message, and the answer and the admin pair leave that as it is. -/
theorem helloAttaches : Obligations.HelloAttaches := by
  intro s cells host hun hhear htype hframed hlen hmoving hfault
  have haccept := State.helloAccept_of_untethered hun (msgBytes cells) (ceilDiv (msgLen cells) 64)
  obtain ⟨hattached, hrings⟩ := State.helloAnswer_attached ({ s with mail.toHead := ceilDiv (msgLen cells) 64 }.attach (msgBytes cells))
    (field (msgBytes cells) 8 4)
  obtain ⟨huntethered, hrest⟩ := Prod.mk.inj hattached
  obtain ⟨htether, hhead⟩ := Prod.mk.inj hrest
  rw [← haccept] at huntethered htether hhead hrings
  refine ⟨s.helloAccept (msgBytes cells) (ceilDiv (msgLen cells) 64), ?_, huntethered, ?_, ?_, ?_, ?_, ?_, hhead, fun hadmin => hrings hadmin⟩
  · have hsup : s.supported = true := by rw [State.supported, hun, Bool.true_or]
    have hmoves : (s.moving != some Component.mailboxService) = true := bne_iff_ne.2 hmoving
    simp only [exec, execHello, asked, hsup, hun, hhear, htype, hframed, hlen, hmoves, hfault, decide_true, beq_self_eq_true, Bool.and_self,
      event_true, if_true]
  all_goals rw [htether]
  · rfl
  · simp [State.attach]
  · rfl
  · rfl
  · rfl

end Sys2Proof.Machine
end

section
/-!
PROOFS. Collections and their upkeep (chapters 2 and 6): the messages that make, drop and report collections, upkeep jobs, and what follows.
-/

namespace Sys2Proof.Machine

/-! ### What taking a message leaves -/

section
variable (s : State) (f : MsgForm) (cells : Bytes)

@[simp] theorem State.takeMessage_coll? (n : Nat) : (s.takeMessage f cells).coll? n = s.coll? n := rfl
@[simp] theorem State.takeMessage_colls : (s.takeMessage f cells).colls = s.colls := rfl
@[simp] theorem State.takeMessage_group : (s.takeMessage f cells).group = s.group := rfl
@[simp] theorem State.takeMessage_store : (s.takeMessage f cells).store = s.store := rfl
@[simp] theorem State.takeMessage_free : (s.takeMessage f cells).free = s.free := rfl
@[simp] theorem State.takeMessage_freeT1 : (s.takeMessage f cells).freeT1 = s.freeT1 := rfl
@[simp] theorem State.takeMessage_floor (c : Collection) : (s.takeMessage f cells).floor c = s.floor c := rfl
@[simp] theorem State.takeMessage_collBody (c : Collection) : (s.takeMessage f cells).collBody c = s.collBody c := rfl
@[simp] theorem State.takeMessage_newCollection (m : Bytes) : (s.takeMessage f cells).newCollection m = s.newCollection m := rfl

end

/-! ### The shelter flag under collections' operations -/

section
variable (s : State)

theorem State.layout_shelter : s.layout.regs.shelter = s.regs.shelter := congrArg (·.shelter) (State.layout_layoutOnly s).regs_eq

theorem State.launch_shelter (slot dst query member : Nat) (load : Load) : (s.launch slot dst query member load).regs.shelter = s.regs.shelter := rfl

theorem State.sendRecord_shelter (coll : Nat) : (s.sendRecord coll).regs.shelter = s.regs.shelter := by
  unfold State.sendRecord
  split
  · rfl
  · split
    · rfl
    · exact State.foldl_shelter (fun s m => State.launch_shelter s _ _ _ _ _) _ _

theorem State.announce_shelter (type : Nat) (body : Bytes) : (s.announce type body).regs.shelter = s.regs.shelter := by
  unfold State.announce
  split <;> rfl

theorem State.beginDrop_shelter (id : Nat) (msg : Option Nat) : (s.beginDrop id msg).regs.shelter = s.regs.shelter := by
  unfold State.beginDrop
  exact State.endAll_shelter _ _ _

theorem State.openEpoch_shelter (coll part epoch dest : Nat) (msg : Option Nat) :
    (s.openEpoch coll part epoch dest msg).regs.shelter = s.regs.shelter := by
  unfold State.openEpoch
  exact State.announce_shelter _ _ _

end

/-! ### The collection messages -/

theorem State.collFault_none {s : State} {m : Bytes} (h : field m 0x20 2 ≤ 0xFFF) : s.collFault m = none := if_neg (Nat.not_lt.2 h)

/-- Without a FORMAT that waits for collections to go, nothing follows a drop. -/
theorem State.finishFormat_none {s : State} (h : s.store.formatting = none) : s.finishFormat = s := by
  simp only [State.finishFormat, h]

theorem State.freeRegions_store (s : State) : s.freeRegions.store = s.store := by
  unfold State.freeRegions
  split <;> rfl

theorem State.replyLater_store (s : State) (type : Nat) (seq : Option Nat) (b : Bytes) : (s.replyLater type seq b).store = s.store := by
  rw [State.replyLater_mailOnly s type seq b]

/-- Settles O27: each row's checks pass, and its effect is the one named. -/
theorem collectionMessagesAct : Obligations.CollectionMessagesAct := by
  intro s cells host
  refine ⟨fun t htakes hfault hcoll hsan hformat ht => ?_, fun c htakes hcoll hid => ?_, fun c htakes hcoll hid hload => ⟨?_, fun hidle => ?_⟩,
    fun coll c hcoll hload hbusy hup hkeys hjobs hformat => ?_, fun coll c hcoll hload hfirst hready hup => ?_, fun coll c hcoll hcopy => ?_⟩
  · refine messageEvent_acts htakes hfault ?_ ?_
    · subst ht
      simp only [State.takeMessage_coll?, State.takeMessage_store, State.takeMessage_colls, State.takeMessage_newCollection, State.takeMessage_free,
        hcoll, hsan, hformat, Option.isSome_none, Bool.or_self, Bool.false_eq_true, if_false, Bool.and_eq_true]
      rfl
    · have hflag : t.regs.shelter = s.regs.shelter := by
        rw [ht]
        exact State.layout_shelter _
      split
      · exact State.reply_flag ((State.sendRecord_shelter _ _).trans hflag) _ _ _
      · exact State.refuse_flag rfl _ _ _ _ _
  · refine messageEvent_acts htakes (State.collFault_none hid) ?_ (State.reply_flag rfl _ _ _)
    simp only [State.takeMessage_coll?, State.takeMessage_collBody, hcoll]
    rfl
  · refine messageEvent_acts htakes (State.collFault_none hid) ?_ (State.beginDrop_shelter _ _ _)
    simp only [State.takeMessage_coll?, hcoll, hload, if_false]
    rfl
  · unfold State.beginDrop State.endAll
    rw [show ((s.takeMessage .collectionDrop cells).updColl (field (msgBytes cells) 0x20 2) _).rings.cmds = [] from hidle]
    rfl
  · simp only [exec, execCollectionDropComplete, hcoll, hload, hbusy, hup, hkeys, hjobs, List.foldl_nil, decide_true, Bool.not_false, Bool.and_self,
      event_true]
    rw [State.finishFormat_none]
    rw [State.replyLater_store, State.freeRegions_store]
    exact hformat
  · have hfirst' : (s.colls.any fun x => decide (x.load = .loading) && decide (x.cid < coll)) = false := by
      rw [List.any_eq_false]
      intro x hx
      simp only [Bool.and_eq_true, decide_eq_true_eq, not_and, Nat.not_lt]
      exact hfirst x hx
    simp only [exec, execCollectionLoadEnd, hcoll, hload, hfirst', hready, hup, decide_true, Bool.not_false, Bool.and_self, event_true]
  · simp only [exec, execRouteGraphCopyBackDone, hcoll, hcopy, event_true]

/-! ### UPKEEP -/

/-- An UPKEEP of a kind that this module takes for one of its loaded collections. -/
theorem upkeepEvent_acts {s t : State} {cells : Bytes} {kind : Nat} {run : State → Nat → Collection → State} {c : Collection}
    (htakes : s.takes .upkeep cells [(0x3A, 6, 0xFF)] = true) (hfields : upkeepFields (msgBytes cells) = none)
    (hkind : byteAt (msgBytes cells) 0x22 = kind) (hcoll : s.coll? (field (msgBytes cells) 0x20 2) = some c) (hload : c.load = .loaded)
    (hhome : c.home = s.group.index) (hrun : run (s.takeMessage .upkeep cells) (seqOf cells) c = t) (hflag : t.regs.shelter = s.regs.shelter) :
    upkeepEvent s cells kind run = .next t := by
  unfold upkeepEvent
  dsimp only
  rw [hkind, beq_self_eq_true, Bool.true_or]
  refine messageEvent_acts htakes hfields ?_ hflag
  simp only [State.takeMessage_coll?, State.takeMessage_group, hcoll, hload, hhome, bne_self_eq_false, Bool.or_self, Bool.false_eq_true, if_false]
  exact hrun

/-- Settles O28: the collection is this module's and loaded, and the kind's own checks pass. -/
theorem upkeepMessagesAct : Obligations.UpkeepMessagesAct := by
  intro s u cells host c htakes hfields hcoll hload hhome hu
  subst hu
  refine ⟨fun hkind => ?_, fun hkind hpq hroom => ?_, fun hkind hnamed => ?_, fun r hkind hnamed hdest hother hmoves => ⟨fun hholder => ?_,
    fun x hholder hx => ?_⟩, fun l k hkind hnamed hrebalances hjobs => ?_⟩
  · exact upkeepEvent_acts htakes hfields hkind hcoll hload hhome rfl rfl
  · refine upkeepEvent_acts htakes hfields hkind hcoll hload hhome ?_ rfl
    simp only [hpq, Bool.not_true, Bool.false_eq_true, if_false, State.takeMessage_freeT1, Nat.not_lt.2 hroom]
  · obtain ⟨r, hr⟩ := Option.isSome_iff_exists.1 hnamed
    refine upkeepEvent_acts htakes hfields hkind hcoll hload hhome ?_ rfl
    simp only [hr]
  · have hplace : ¬ (decide (field (msgBytes cells) 0x38 2 ≥ s.group.size) || field (msgBytes cells) 0x38 2 == r.holder) = true := by
      simp [Nat.not_le.2 hdest, hother]
    refine upkeepEvent_acts htakes hfields hkind hcoll hload hhome ?_ (State.openEpoch_shelter _ _ _ _ _ _)
    simp only [hnamed]
    exact (if_neg hplace).trans ((if_neg (ne_true_of_eq_false hmoves)).trans (if_pos (beq_iff_eq.2 hholder)))
  · have hplace : ¬ (decide (field (msgBytes cells) 0x38 2 ≥ s.group.size) || field (msgBytes cells) 0x38 2 == r.holder) = true := by
      simp [Nat.not_le.2 hdest, hother]
    subst hx
    refine upkeepEvent_acts htakes hfields hkind hcoll hload hhome ?_ rfl
    simp only [hnamed]
    exact (if_neg hplace).trans ((if_neg (ne_true_of_eq_false hmoves)).trans (if_neg (beq_iff_eq.not.2 hholder)))
  · obtain ⟨r, hr⟩ := Option.isSome_iff_exists.1 hnamed
    refine upkeepEvent_acts htakes hfields hkind hcoll hload hhome ?_ rfl
    simp only [hr, hrebalances, hjobs, Bool.false_eq_true, if_false]
    rfl

/-! ### Upkeep work -/

theorem State.upkeepRuns_of {s : State} {u : Upkeep} (hstage : s.power.applied = 0) (hshelter : s.regs.shelter = false) (hpaused : u.paused = false) :
    s.upkeepRuns u = true := by
  simp only [State.upkeepRuns, hstage, hshelter, hpaused, beq_self_eq_true, Bool.not_false, Bool.and_self]

/-- Settles O29: each row's guard holds. -/
theorem upkeepWorkAdvances : Obligations.UpkeepWorkAdvances := by
  intro s coll c hcoll hload hstage hshelter
  refine ⟨fun part hdue hnamed => ?_, fun part l k hrebalances hjobs hhome => ?_, fun job u hjob hleft hpaused hwindow hkind => ?_,
    fun job u t v hjob hdone hpaused hkind hwindow hbusy hlatest hup ht hv => ?_⟩
  · simp only [exec, execCompaction, hcoll, hdue, hnamed, hload, hstage, hshelter, Nat.zero_lt_succ, beq_self_eq_true, Bool.true_or, decide_true,
      Bool.not_false, Bool.and_self, event_true]
  · have hnone : (c.upkeep.all fun u => u.kind != .rebalance) = true := List.all_eq_true.2 fun u hu => bne_iff_ne.2 (hjobs u hu)
    simp only [exec, execRebalanceStart, hcoll, hrebalances, hnone, hload, hhome, hstage, hshelter, beq_self_eq_true, decide_true, Bool.not_false,
      Bool.and_self, event_true]
  · have hclusters : (decide (u.kind = .centroids) || decide (u.kind = .quantiser) || decide (u.kind = .rebalance)) = true := by
      simpa [or_assoc] using hkind
    simp only [exec, execClusteringIteration, hcoll, hjob, hclusters, hleft, State.upkeepRuns_of hstage hshelter hpaused, hwindow, hload,
      decide_true, Bool.and_self, event_true]
  · subst hv ht
    simp only [exec, execGenerationPublish, hcoll, hjob, hdone, bne_iff_ne.2 hkind, State.upkeepRuns_of hstage hshelter hpaused, hwindow, hbusy,
      hlatest, hload, hup, beq_self_eq_true, decide_true, Bool.not_false, Bool.and_self, event_true]

end Sys2Proof.Machine
end

section
/-!
PROOFS. Collection keys, attestation, service sessions and configuration records (chapters 17 and 19).
-/

namespace Sys2Proof.Machine

/-! ### What taking a message leaves -/

section
variable (s : State) (f : MsgForm) (cells : Bytes)

@[simp] theorem State.takeMessage_keys : (s.takeMessage f cells).keys = s.keys := rfl
@[simp] theorem State.takeMessage_unwrap (m : Bytes) : (s.takeMessage f cells).unwrap m = s.unwrap m := rfl
@[simp] theorem State.takeMessage_importFault (m : Bytes) (p : Option Bytes) : (s.takeMessage f cells).importFault m p = s.importFault m p := rfl
@[simp] theorem State.takeMessage_destroyFault (m : Bytes) : (s.takeMessage f cells).destroyFault m = s.destroyFault m := rfl
@[simp] theorem State.takeMessage_identity? : (s.takeMessage f cells).identity? = s.identity? := rfl
@[simp] theorem State.takeMessage_record? (n : Nat) : (s.takeMessage f cells).record? n = s.record? n := rfl
@[simp] theorem State.takeMessage_copyInForce (n : Nat) : (s.takeMessage f cells).copyInForce n = s.copyInForce n := rfl
@[simp] theorem State.takeMessage_cfgWriteFault (n : Nat) (b : Bytes) : (s.takeMessage f cells).cfgWriteFault n b = s.cfgWriteFault n b := rfl
@[simp] theorem State.takeMessage_sessionAllowed (m : Bytes) : (s.takeMessage f cells).sessionAllowed m = s.sessionAllowed m := rfl
@[simp] theorem State.takeMessage_sessionOffset (m : Bytes) : (s.takeMessage f cells).sessionOffset m = s.sessionOffset m := rfl
@[simp] theorem State.takeMessage_logFull : (s.takeMessage f cells).logFull = s.logFull := rfl

end

/-- A message row that takes one kind of its message, of that kind. -/
theorem messageEvent_acts_kind {s t : State} {f : MsgForm} {cells : Bytes} {reserved : List (Nat × Nat × Nat)} {kind : Bool} {bad : Option Nat}
    {run : State → Nat → State} (hkind : kind = true) (h : s.takes f cells reserved = true) (hbad : bad = none)
    (hrun : run (s.takeMessage f cells) (seqOf cells) = t) (hflag : t.regs.shelter = s.regs.shelter) :
    messageEvent s f cells reserved kind bad run = .next t := by
  subst hkind
  exact messageEvent_acts h hbad hrun hflag

/-! ### KEY_IMPORT and KEY_DESTROY -/

/-- An import under a key that the device holds, of a body that does not decrypt. -/
theorem State.importFault_undecrypted {s : State} {m : Bytes} {c : Collection} (hcoll : s.coll? (field m 0x20 2) = some c)
    (hkey : (s.keys.imports.any fun k => k.kid == field m 0x24 4) = true) : s.importFault m none = some (5, 0x28, 3) := by
  simp only [State.importFault, hcoll, hkey, Bool.not_true, Bool.false_eq_true, if_false]

theorem toNat_odd (n : Nat) : (n % 2 == 1).toNat = n % 2 := by
  obtain h | h := Nat.mod_two_eq_zero_or_one n <;> rw [h] <;> rfl

/-- The effect of a KEY_IMPORT by what its body decrypts to. -/
theorem execKeyImport_acts {s : State} {cells : Bytes} {host : HostImage} {c : Collection}
    (htakes : s.takes .keyImport cells [(0x22, 2, 0xFF), (0xC9, 7, 0xFF)] = true) (hcoll : s.coll? (field (msgBytes cells) 0x20 2) = some c)
    (hkey : (s.keys.imports.any fun k => k.kid == field (msgBytes cells) 0x24 4) = true) :
    execKeyImport cells host s = .next (match s.unwrap (msgBytes cells) with
      | none => (s.takeMessage .keyImport cells).refuse 0x30 (seqOf cells) 5 0x28 3
      | some p => match s.importFault (msgBytes cells) (some p) with
        | some e => (s.takeMessage .keyImport cells).refuse 0x30 (seqOf cells) e.1 e.2.1 e.2.2
        | none => ((s.takeMessage .keyImport cells).updColl (field (msgBytes cells) 0x20 2) fun c => c.addKey p).reply
            0x30 (seqOf cells) (toLe 4 (field p 4 4) ++ toLe 1 ((!c.everKey).toNat + 2 * (byteAt p 1 % 2)) ++ zeros 11)) := by
  refine messageEvent_acts htakes rfl ?_ ?_
  · simp only [State.takeMessage_unwrap, State.takeMessage_importFault, State.takeMessage_coll?, hcoll, Option.any_some, bitsNat, toNat_odd, Nat.mul_zero, Nat.add_zero]
    cases s.unwrap (msgBytes cells) with
    | none =>
      rw [State.importFault_undecrypted hcoll hkey]
      rfl
    | some p =>
      dsimp only
      cases s.importFault (msgBytes cells) (some p) with
      | none => rfl
      | some e => rfl
  · split
    · exact State.refuse_flag rfl _ _ _ _ _
    · split
      · exact State.refuse_flag rfl _ _ _ _ _
      · exact State.reply_flag rfl _ _ _

section
variable {s : State} {coll seq : Nat} {l : List Nat} {c : Collection} (hcoll : s.coll? coll = some c)
include hcoll

/-- The collection that a withdrawal leaves. -/
theorem State.coll?_withdraw : (s.updColl coll fun c => c.withdraw l).coll? coll = some (c.withdraw l) :=
  (State.coll?_updColl s coll _ (by intro c; rfl)).trans (by rw [hcoll, Option.map_some])

/-- Keys that are still used are withdrawn until they are not. -/
theorem State.destroyKeys_used (hused : s.keysInUse (c.withdraw l) l = true) : s.destroyKeys coll seq l =
    (s.updColl coll fun c => c.withdraw l).updColl coll fun c => { c with destroying := c.destroying ++ [(seq, l)] } := by
  have hused' : (s.updColl coll fun c => c.withdraw l).keysInUse (c.withdraw l) l = true := hused
  simp only [State.destroyKeys, State.coll?_withdraw hcoll, hused', if_true]

/-- Keys that nothing uses are gone at once. -/
theorem State.destroyKeys_free (hused : s.keysInUse (c.withdraw l) l = false) : s.destroyKeys coll seq l =
    ((s.updColl coll fun c => c.withdraw l).updColl coll fun c => c.zeroKeys l).reply 0x31 seq [] := by
  have hused' : (s.updColl coll fun c => c.withdraw l).keysInUse (c.withdraw l) l = false := hused
  simp only [State.destroyKeys, State.coll?_withdraw hcoll, hused', Bool.false_eq_true, if_false]

end

theorem State.destroyKeys_shelter (s : State) (coll seq : Nat) (l : List Nat) : (s.destroyKeys coll seq l).regs.shelter = s.regs.shelter := by
  unfold State.destroyKeys
  dsimp only
  split
  · rfl
  · split
    · rfl
    · exact State.reply_flag rfl _ _ _

/-- Settles O30: by the faults that the checks of each message find. -/
theorem keyMessagesAct : Obligations.KeyMessagesAct := by
  intro s cells host c
  refine ⟨fun htakes hcoll hkey => execKeyImport_acts (host := host) htakes hcoll hkey, fun k htakes hone hcoll hkey hroot => ?_, fun htakes hall hcoll => ?_,
    fun coll seq l hcoll => ⟨fun hcmds hreqs => ?_, State.destroyKeys_used hcoll⟩, fun coll d hcoll hfree hup => ?_⟩
  · have hfault : s.destroyFault (msgBytes cells) = none := by
      have hlast : (k.root && decide (c.keys.length > 1)) = false := by
        obtain hno | honly := hroot
        · rw [hno, Bool.false_and]
        · simp [honly]
      simp only [State.destroyFault, hcoll, hone, hkey, hlast, Nat.zero_mod, Nat.reduceBEq, Bool.false_eq_true, if_false]
    refine messageEvent_acts (by simpa [hone, MsgForm.keyDestroy] using htakes) rfl ?_ (State.destroyKeys_shelter _ _ _ _)
    simp only [State.takeMessage_destroyFault, hfault, hone, Nat.zero_mod, Nat.reduceBEq, Bool.false_eq_true, if_false]
    rfl
  · have hfault : s.destroyFault (msgBytes cells) = none := by
      simp only [State.destroyFault, hcoll, hall, Nat.one_mod, beq_self_eq_true, if_true]
    refine messageEvent_acts (by simpa [hall, MsgForm.keyDestroy] using htakes) rfl ?_ (State.destroyKeys_shelter _ _ _ _)
    simp only [State.takeMessage_destroyFault, State.takeMessage_coll?, hfault, hall, hcoll, Nat.one_mod, beq_self_eq_true, if_true, Option.map_some,
      Option.getD_some]
    rfl
  · exact State.destroyKeys_free hcoll (by simp [State.keysInUse, hcmds, hreqs])
  · simp only [exec, execKeyDestroyComplete, hcoll, hfree, hup, beq_self_eq_true, event_true]

/-! ### The measurement log -/

theorem State.sealLog_eq (s : State) : s.sealLog = { s with keys := { s.keys with log := s.sealLog.keys.log } } := by
  unfold State.sealLog
  split <;> rfl

theorem State.appendLog_eq (s : State) (e : LogEntry) : s.appendLog e = { s with keys := { s.keys with log := (s.appendLog e).keys.log } } := by
  unfold State.appendLog
  split <;> rw [State.sealLog_eq]

theorem State.sealLog_congr {s t : State} (h : t.keys.log = s.keys.log) : t.sealLog.keys.log = s.sealLog.keys.log := by
  unfold State.sealLog
  rw [h]
  split
  · rfl
  · exact h

/-- The log after an entry goes by the log alone. -/
theorem State.appendLog_congr {s t : State} (h : t.keys.log = s.keys.log) (e : LogEntry) :
    (t.appendLog e).keys.log = (s.appendLog e).keys.log := by
  have hfull : t.logFull = s.logFull := by rw [State.logFull, State.logFull, h]
  unfold State.appendLog
  rw [hfull]
  split
  · exact State.sealLog_congr h
  · exact State.sealLog_congr (congrArg (· ++ [e]) h)

theorem State.takeMessage_appendLog (s : State) (f : MsgForm) (cells : Bytes) (e : LogEntry) : (s.takeMessage f cells).appendLog e
    = { s.takeMessage f cells with keys := { s.keys with log := (s.appendLog e).keys.log } } :=
  (State.appendLog_eq _ e).trans (by rw [State.appendLog_congr (s := s) (t := s.takeMessage f cells) rfl]; rfl)

/-- An entry that leaves room for another is only appended. -/
theorem State.appendLog_log {s : State} {e : LogEntry} (h : s.keys.log.length < 510) : (s.appendLog e).keys.log = s.keys.log ++ [e] := by
  have hfull : s.logFull = false := by
    simp only [State.logFull, ge_iff_le, decide_eq_false_iff_not]
    omega
  have hlen : (s.keys.log ++ [e]).length ≠ 511 := by
    rw [List.length_append, List.length_singleton]
    omega
  simp only [State.appendLog, hfull, Bool.false_eq_true, if_false, State.sealLog, beq_iff_eq, hlen]

/-! ### Attestation and service sessions -/

/-- The quote that an ATTEST of kind 0 answers with, by the import key that it names or makes. -/
theorem execAttestQuote_acts {s : State} {cells : Bytes} {host : HostImage} {ident : Bytes}
    (htakes : s.takes .attest cells (attestReserved (msgBytes cells)) = true) (hkind : byteAt (msgBytes cells) 0x20 = 0)
    (hfields : s.attestFields (msgBytes cells) = none) (hident : s.identity? = some ident)
    (hkey : byteAt (msgBytes cells) 0x21 % 2 = 1 ∨ field (msgBytes cells) 0x24 4 = 0xFFFFFFFF
      ∨ (s.keys.imports.any fun k => k.kid == field (msgBytes cells) 0x24 4) = true)
    {u v : State} (hu : u = if byteAt (msgBytes cells) 0x21 % 2 = 1 then (s.takeMessage .attest cells).newImport else s.takeMessage .attest cells)
    (hv : v = if field (msgBytes cells) 0x48 8 = 0 then u else u.hostWrite (field (msgBytes cells) 0x48 8) (logBytes u.keys.log).flatten) :
    execAttestQuote cells host s = .next (v.reply 0x32 (seqOf cells) (v.quote (slice (msgBytes cells) 0x28 32)
      (if byteAt (msgBytes cells) 0x21 % 2 = 1 then u.keys.imports.getLast?
        else u.keys.imports.find? fun k => k.kid == field (msgBytes cells) 0x24 4) ident)) := by
  have hrefused : (!(byteAt (msgBytes cells) 0x21 % 2 == 1) && field (msgBytes cells) 0x24 4 != 0xFFFFFFFF
      && !s.keys.imports.any fun k => k.kid == field (msgBytes cells) 0x24 4) = false := by
    obtain hmake | hnone | hheld := hkey
    · simp [hmake]
    · simp [hnone]
    · simp [hheld]
  have hflag : v.regs.shelter = s.regs.shelter := by
    subst hv hu
    split <;> split <;> rfl
  refine messageEvent_acts_kind (by rw [hkind]; rfl) htakes hfields ?_ (State.reply_flag hflag _ _ _)
  simp only [State.takeMessage_identity?, State.takeMessage_keys, hident, hrefused, Bool.false_eq_true, if_false, beq_iff_eq]
  subst hv hu
  rfl

theorem State.hostWrite_quote (s : State) (a : Nat) (b nonce ident : Bytes) (key : Option ImportKey) :
    (s.hostWrite a b).quote nonce key ident = s.quote nonce key ident := rfl

theorem State.takeMessage_quote (s : State) (f : MsgForm) (cells nonce ident : Bytes) (key : Option ImportKey) :
    (s.takeMessage f cells).quote nonce key ident = s.quote nonce key ident := rfl

/-- The import key just made is the last of the live ones. -/
theorem State.newImport_getLast? (s : State) : s.newImport.keys.imports.getLast? = some ⟨s.keys.nextImport, s.free⟩ := by
  have hlive : ¬ (s.keys.imports ++ [(⟨s.keys.nextImport, s.free⟩ : ImportKey)]).length
      ≤ (s.keys.imports ++ [(⟨s.keys.nextImport, s.free⟩ : ImportKey)]).length - 8 := by
    rw [List.length_append, List.length_singleton]
    omega
  rw [State.newImport, List.getLast?_drop, if_neg hlive, List.getLast?_concat]

/-- Settles O31: a session opens and closes in the message that asks for it, and an expiry is the close. -/
theorem attestAndSessionsAct : Obligations.AttestAndSessionsAct := by
  intro s t cells host
  refine ⟨fun ident htakes hkind hfields hident ht => ?_, fun r q body htakes hkind hfields hrecord hforce => ?_,
    fun htakes hkind hfields => ⟨fun hlog => ?_, fun e hlen => State.appendLog_log hlen, ?_⟩, fun htakes hkind => ?_, fun hsession => ?_⟩
  · subst ht
    refine ⟨fun hmake hlog => ⟨fun hnone himports => ?_, fun key hkey => ?_⟩, fun hmake hlog hnone himports => ?_, fun hmake hlog => ?_⟩
    · have hfind : s.keys.imports.find? (fun k => k.kid == field (msgBytes cells) 0x24 4) = none :=
        List.find?_eq_none.2 fun k hk => by simpa [hnone] using himports k hk
      refine (execAttestQuote_acts (host := host) htakes hkind hfields hident (.inr (.inl hnone)) rfl rfl).trans ?_
      simp only [hmake, hlog, if_true, Nat.zero_mod, Nat.zero_ne_one, if_false, State.takeMessage_keys, hfind, State.takeMessage_quote]
    · have hheld : (s.keys.imports.any fun k => k.kid == field (msgBytes cells) 0x24 4) = true :=
        List.any_eq_true.2 ⟨key, List.mem_of_find?_eq_some hkey, by simpa using List.find?_some hkey⟩
      refine (execAttestQuote_acts (host := host) htakes hkind hfields hident (.inr (.inr hheld)) rfl rfl).trans ?_
      simp only [hmake, hlog, if_true, Nat.zero_mod, Nat.zero_ne_one, if_false, State.takeMessage_keys, hkey, State.takeMessage_quote]
    · have hfind : s.keys.imports.find? (fun k => k.kid == field (msgBytes cells) 0x24 4) = none :=
        List.find?_eq_none.2 fun k hk => by simpa [hnone] using himports k hk
      refine (execAttestQuote_acts (host := host) htakes hkind hfields hident (.inr (.inl hnone)) rfl rfl).trans ?_
      simp only [hmake, hlog, if_false, Nat.zero_mod, Nat.zero_ne_one, State.takeMessage_keys, hfind, State.hostWrite_quote, State.takeMessage_quote]
    · refine (execAttestQuote_acts (host := host) htakes hkind hfields hident (.inl (by rw [hmake])) rfl rfl).trans ?_
      simp only [hmake, hlog, if_true, Nat.one_mod, State.newImport_getLast?]
      rfl
  · refine messageEvent_acts_kind (by rw [hkind]; rfl) htakes hfields ?_ (State.reply_flag rfl _ _ _)
    simp only [State.takeMessage_record?, hrecord, Option.bind_some, hforce, Option.map_some, Option.getD_some]
    rfl
  · refine messageEvent_acts_kind (by rw [hkind]; rfl) htakes hfields ?_ ?_
    · simp only [State.takeMessage_sessionAllowed, State.takeMessage_logFull, State.takeMessage_sessionOffset, hlog, Bool.false_eq_true, if_false]
      cases s.sessionAllowed (msgBytes cells) with
      | true =>
        simp only [State.takeMessage_appendLog]
        rfl
      | false => rfl
    · split
      · exact State.reply_flag rfl _ _ _
      · exact State.refuse_flag rfl _ _ _ _ _
  · simp [State.sessionAllowed, and_assoc]
  · refine messageEvent_acts_kind (by rw [hkind]; rfl) htakes (fieldAt_none (by simp [hkind])) ?_ (State.reply_flag rfl _ _ _)
    rfl
  · simp only [exec, execServiceSessionExpiry, hsession, event_true]

/-! ### Configuration records -/

theorem length_hostRead (h : HostImage) (a n : Nat) : (hostRead h a n).length = n := by
  rw [hostRead, List.length_map, List.length_range]

/-- No operator's record is one of Karulo's. -/
theorem not_karulo_of_operator {n : Nat} (h : operatorRecords.contains n = true) : karuloRecords.contains n = false := by
  obtain rfl | rfl : n = 0x20 ∨ n = 0x21 := by simpa [operatorRecords] using h
  · rfl
  · rfl

/-- Settles O32: the record's copy in force gives the body that is read and the seq that a write follows. -/
theorem configRecordsAct : Obligations.ConfigRecordsAct := by
  intro s cells host htakes hfields
  refine ⟨fun q b hkind hforce hroom => ?_, fun r q b hkind hoperator hfault hrecord hforce => ?_⟩
  · refine messageEvent_acts_kind (by rw [hkind]; rfl) htakes hfields ?_ (State.reply_flag rfl _ _ _)
    simp only [State.takeMessage_copyInForce, hforce, Nat.not_lt.2 hroom, if_false]
    rfl
  · refine messageEvent_acts_kind (by rw [hkind]; rfl) htakes hfields ?_ (State.reply_flag rfl _ _ _)
    simp only [State.takeMessage_cfgWriteFault, State.takeMessage_record?, hfault, not_karulo_of_operator hoperator, hrecord, Option.bind_some,
      hforce, Option.map_some, Option.getD_some, List.length_drop, length_hostRead, Bool.false_and, Bool.false_eq_true, if_false, updWhere,
      beq_iff_eq]
    rfl

end Sys2Proof.Machine
end

section
/-!
PROOFS. Firmware, programs and timetables (chapters 9, 10 and 16): the messages that load and activate them, and what follows.
-/

namespace Sys2Proof.Machine

section
variable (s : State) (f : MsgForm) (cells : Bytes)

@[simp] theorem State.takeMessage_fw : (s.takeMessage f cells).fw = s.fw := rfl
@[simp] theorem State.takeMessage_comp : (s.takeMessage f cells).comp = s.comp := rfl
@[simp] theorem State.takeMessage_tether : (s.takeMessage f cells).tether = s.tether := rfl
@[simp] theorem State.takeMessage_clock : (s.takeMessage f cells).clock = s.clock := rfl
@[simp] theorem State.takeMessage_sw : (s.takeMessage f cells).sw = s.sw := rfl
@[simp] theorem State.takeMessage_activateFault (m : Bytes) : (s.takeMessage f cells).activateFault m = s.activateFault m := rfl
@[simp] theorem State.takeMessage_program? (h : Nat) : (s.takeMessage f cells).program? h = s.program? h := rfl
@[simp] theorem State.takeMessage_programBound (p : Program) : (s.takeMessage f cells).programBound p = s.programBound p := rfl
@[simp] theorem State.takeMessage_usable (n : Nat) : (s.takeMessage f cells).usable n = s.usable n := rfl
@[simp] theorem State.takeMessage_switching : (s.takeMessage f cells).switching = s.switching := rfl
@[simp] theorem State.takeMessage_groupMember : (s.takeMessage f cells).groupMember = s.groupMember := rfl

end

/-! ### A component that restarts on the new image -/

/-- A component changed at its place is down where the change takes it down. -/
theorem State.updComp_compUp {s : State} {k : Nat} {f : Component → Component} (hk : k < s.fw.comps.length)
    (hf : ∀ c, (f c).state ≠ .up) : (s.updComp k f).compUp k = false := by
  have hget : (updAt k f s.fw.comps)[k]? = some (f s.fw.comps[k]) := by
    rw [getElem?_updAt, if_pos rfl, List.getElem?_eq_getElem hk, Option.map_some]
  simp only [State.compUp, State.updComp, List.getD_eq_getElem?_getD, List.getElem?_map, hget, Option.map_some, Option.getD_some,
    beq_eq_false_iff_ne]
  exact hf _

theorem State.restartOn_compUp {s : State} {k : Nat} (hlen : s.fw.comps.length = 9) (hk : k < 9) : (s.restartOn k).compUp k = false :=
  State.updComp_compUp (hlen ▸ hk) fun _ => nofun

/-- Settles O34: the image and the activation checks decide the messages; the switch of a component is its restart. -/
theorem firmwareMessagesAct : Obligations.FirmwareMessagesAct := by
  intro s cells host
  refine ⟨fun htakes hend hlen => ?_, fun htakes hscope hfault hidle hlog => ?_, fun x htakes hscope hfault hstaged => ?_,
    fun comp hcomp hmoving hup hlodge => ⟨fun hbusy => ?_, fun hbusy => ?_, fun t hlen => ⟨State.restartOn_compUp hlen hcomp, rfl⟩⟩⟩
  · refine messageEvent_acts htakes (fieldAt_none (by simpa using ⟨hend, hlen⟩)) ?_ ?_
    · simp only [State.takeMessage_fw, State.takeMessage_tether]
      cases Config.fwImage s.fw.running (hostRead host (field (msgBytes cells) 0x20 8) (field (msgBytes cells) 0x28 8)) with
      | some x => rfl
      | none => rfl
    · split
      · exact State.reply_flag rfl _ _ _
      · exact State.refuse_flag rfl _ _ _ _ _
  · have hroom : s.logFull = false := by
      simpa [State.logFull] using hlog
    refine messageEvent_acts_kind (by rw [hscope]; rfl) htakes (fieldAt_none (by simp [hscope])) ?_ rfl
    simp only [State.takeMessage_activateFault, State.takeMessage_fw, State.takeMessage_logFull, hfault, hidle, hroom, Option.isSome_none,
      Bool.false_eq_true, if_false]
    rfl
  · refine messageEvent_acts_kind (by rw [hscope]; rfl) htakes (fieldAt_none (by simp [hscope])) ?_ (State.reply_flag rfl _ _ _)
    simp only [State.takeMessage_activateFault, State.takeMessage_fw, hfault, hstaged]
    rfl
  · simp only [exec, execComponentImageSwitch, hcomp, hmoving, hup, hlodge, hbusy, decide_true, beq_self_eq_true, Bool.not_false, Bool.and_self,
      event_true]
  · simp only [exec, execComponentMoveTimeout, hcomp, hmoving, hup, hlodge, hbusy, decide_true, beq_self_eq_true, Bool.and_self, event_true]

/-! ### Programs -/

/-- A program that is loaded takes the next handle and the last place, and nothing under way changes. -/
theorem State.loadImage_some {s t : State} {b : Bytes} {coll : Nat} {payloads : Bool} {p : Program}
    (h : s.loadImage b coll payloads = some (t, p)) :
    t.comp = { s.comp with programs := s.comp.programs ++ [p], nextHandle := s.comp.nextHandle + 1 } ∧ p.handle = s.comp.nextHandle
      ∧ t.rings = s.rings ∧ t.regs = s.regs := by
  obtain ⟨⟨v, base⟩, hfound, heq⟩ := Option.map_eq_some_iff.1 h
  have hv : s.layoutOnly v := State.findSpread_layoutOnly hfound
  have hcomp : v.comp = s.comp := by rw [hv.1]
  obtain ⟨rfl, rfl⟩ := Prod.mk.inj heq
  refine ⟨?_, congrArg (·.nextHandle) hcomp, hv.rings_eq, hv.regs_eq⟩
  rw [← hcomp]
  rfl

/-- A PROGRAM_LOAD of a good image, by what loading it gives. -/
theorem execProgramLoad_acts {s t : State} {cells : Bytes} {host : HostImage} {o : Option (State × Program)}
    (htakes : s.takes .programLoad cells [(0x32, 1, 0xFE), (0x33, 13, 0xFF)] = true)
    (hend : field (msgBytes cells) 0x20 8 + field (msgBytes cells) 0x28 8 ≤ 2 ^ 47)
    (hcoll : field (msgBytes cells) 0x30 2 = 0xFFFF
      ∨ (field (msgBytes cells) 0x30 2 ≤ 0xFFF ∧ (s.usable (field (msgBytes cells) 0x30 2)).isSome = true))
    (hgood : imageBad (hostRead host (field (msgBytes cells) 0x20 8) (field (msgBytes cells) 0x28 8)) = false)
    (hload : (if s.comp.programs.length ≥ 1024 then none else (s.takeMessage .programLoad cells).loadImage
      (hostRead host (field (msgBytes cells) 0x20 8) (field (msgBytes cells) 0x28 8)) (field (msgBytes cells) 0x30 2)
      (byteAt (msgBytes cells) 0x32 % 2 == 1)) = o)
    (ht : (match (generalizing := false) o with
      | none => (s.takeMessage .programLoad cells).refuse 0x50 (seqOf cells) 7 noOffset 0
      | some (u, p) => u.reply 0x50 (seqOf cells) (toLe 4 p.handle ++ zeros 4 ++ toLe 8 p.status)) = t)
    (hflag : t.regs.shelter = s.regs.shelter) : execProgramLoad cells host s = .next t := by
  subst hload
  have hid : (decide (field (msgBytes cells) 0x30 2 > 0xFFF) && field (msgBytes cells) 0x30 2 != 0xFFFF) = false := by
    obtain hnone | ⟨hle, -⟩ := hcoll
    · simp [hnone]
    · simp [Nat.not_lt.2 hle]
  have hbinds : (field (msgBytes cells) 0x30 2 != 0xFFFF && (s.usable (field (msgBytes cells) 0x30 2)).isNone) = false := by
    obtain hnone | ⟨-, husable⟩ := hcoll
    · simp [hnone]
    · rw [Option.isNone_eq_false_iff.2 husable, Bool.and_false]
  refine messageEvent_acts htakes (fieldAt_none (by simpa [hid, hgood] using hend)) ?_ hflag
  simp only [State.takeMessage_usable, State.takeMessage_comp, hbinds, Bool.false_eq_true, if_false]
  exact ht

theorem State.freeRegions_shelter (s : State) : s.freeRegions.regs.shelter = s.regs.shelter := (State.freeRegions_workOnly s).shelter

/-! ### Switching timetables -/

/-- A proposal of the staged timetable. -/
theorem State.propose_staged {s : State} {x : Timetable} (hstaged : s.staged = some x) (msg : Option Nat) :
    (s.propose msg).sw.state = 2 ∧ (s.propose msg).sw.leading = true ∧ (s.propose msg).sw.proposal = s.clock.round + 1
      ∧ s.clock.round + 1 ≤ (s.propose msg).sw.atRound ∧ (s.propose msg).sw.msg = msg ∧ (s.propose msg).active = s.active
      ∧ (s.propose msg).regs.shelter = s.regs.shelter := by
  simp only [State.propose, hstaged]
  split
  · exact ⟨rfl, rfl, rfl, Nat.le_add_right _ _, rfl, rfl, rfl⟩
  · exact ⟨rfl, rfl, rfl, Nat.le_add_right _ _, rfl, rfl, rfl⟩

/-- A TIMETABLE_LOAD whose image is good, outside a switch, of a member that may load it. -/
theorem loadEvent_acts {s t : State} {cells image : Bytes} {host : HostImage} {propose : Bool} {after : State → Nat → Timetable → State} {x : Timetable}
    (htakes : s.takes .timetableLoad cells [(0x2C, 1, 0xFE), (0x2D, 3, 0xFF)] = true)
    (hend : field (msgBytes cells) 0x20 8 + field (msgBytes cells) 0x28 4 ≤ 2 ^ 47) (hlen : field (msgBytes cells) 0x28 4 ≤ 67108864)
    (himage : image = hostRead host (field (msgBytes cells) 0x20 8) (field (msgBytes cells) 0x28 4))
    (hgood : timetableBad image s.comp.out = false)
    (hx : x = readTimetable image) (hidle : s.switching = false) (hrefused : (s.sw.refused.any fun x => s.clock.round < x.2) = false)
    (hkind : ((byteAt (msgBytes cells) 0x2C % 2 == 1) == propose) = true)
    (hmay : propose = true → (s.groupMember = true ∧ s.group.leader = s.group.index)
      ∨ (s.groupMember = false ∧ x.size = s.group.size))
    (hafter : after { s.takeMessage .timetableLoad cells with staged := some x, sw.state := 1 } (seqOf cells) x = t) (hflag : t.regs.shelter = s.regs.shelter) : loadEvent s cells host propose after = .next t := by
  subst hx himage
  have hleads : (propose && s.groupMember && s.group.leader != s.group.index) = false := by
    cases propose with
    | false => rfl
    | true =>
      obtain ⟨-, hleader⟩ | ⟨halone, -⟩ := hmay rfl
      · simp [hleader]
      · simp [halone]
  have hsize : (propose && (readTimetable (hostRead host (field (msgBytes cells) 0x20 8) (field (msgBytes cells) 0x28 4))).size != s.group.size
      && !s.groupMember) = false := by
    cases propose with
    | false => rfl
    | true =>
      obtain ⟨hmember, -⟩ | ⟨-, hsame⟩ := hmay rfl
      · simp [hmember]
      · simp [hsame]
  refine messageEvent_acts_kind hkind htakes (fieldAt_none ?_) ?_ hflag
  · simp [Nat.not_lt.2 hlen, hgood]
    exact hend
  · have hfree : (s.switching || s.sw.refused.any fun x => s.clock.round < x.2) = false := by rw [hidle, hrefused, Bool.or_self]
    exact (if_neg (ne_true_of_eq_false hfree)).trans ((if_neg (ne_true_of_eq_false hleads)).trans
      ((if_neg (ne_true_of_eq_false hsize)).trans hafter))

/-- Settles O35: the checks of each image leave nothing to refuse, and a switch past its deadline aborts. -/
theorem programAndTimetableMessagesAct : Obligations.ProgramAndTimetableMessagesAct := by
  intro s u cells image host
  refine ⟨fun htakes hend hcoll himage hgood hu => ⟨fun t p hroom hload => ?_, fun hfull => ?_⟩, fun p htakes hp hruns hbound hu => ?_,
    fun x htakes hend hlen himage hgood hx hidle hrefused hu => ⟨fun hkind => ?_, fun hkind hmay => ?_⟩,
    fun hleading hswitching hjoin hdeadline hround hrefuse => ?_⟩
  · subst himage hu
    obtain ⟨hcomp, hhandle, hrings, hregs⟩ := State.loadImage_some hload
    refine ⟨execProgramLoad_acts htakes hend hcoll hgood ((if_neg (Nat.not_le.2 hroom)).trans hload) rfl
        (State.reply_flag (congrArg (·.shelter) hregs) _ _ _), congrArg (·.programs) hcomp, hhandle,
      congrArg (·.nextHandle) hcomp, congrArg (·.runs) hcomp, hrings⟩
  · subst himage hu
    refine execProgramLoad_acts (o := none) htakes hend hcoll hgood ?_ rfl (State.refuse_flag rfl _ _ _ _ _)
    obtain hmany | hnone := hfull
    · exact if_pos hmany
    · rw [hnone, ite_self]
  · subst hu
    refine messageEvent_acts htakes (by simp [hp]) ?_ (State.reply_flag (State.freeRegions_shelter _) _ _ _)
    simp only [State.takeMessage_program?, State.takeMessage_programBound, State.takeMessage_comp, hp, hruns, hbound, Bool.or_self,
      Bool.false_eq_true, if_false]
    rfl
  · subst hu
    change loadEvent s cells host false (fun s seq t => s.reply 0x60 seq (toLe 8 t.ident ++ toLe 8 0)) = _
    exact loadEvent_acts htakes hend hlen himage hgood hx hidle hrefused (by rw [hkind]; rfl) nofun rfl (State.reply_flag rfl _ _ _)
  · subst hu
    obtain ⟨hstate, hlead, hproposal, hat, hmsg, hactive, hflag⟩ := State.propose_staged (s := { s.takeMessage .timetableLoad cells with
      staged := some x, sw.state := 1 }) rfl (some (seqOf cells))
    refine ⟨?_, hstate, hlead, hproposal, hat, hmsg, hactive⟩
    change loadEvent s cells host true (fun s seq _ => s.propose (some seq)) = _
    exact loadEvent_acts htakes hend hlen himage hgood hx hidle hrefused (by rw [hkind]; rfl) (fun _ => hmay) rfl hflag
  · have hunder : (!s.sw.refusals.isEmpty || !s.unanswered.isEmpty) = true := by
      simpa using hrefuse
    refine ⟨?_, ?_⟩
    · simp only [exec, execSwitchAbortDeadline, hleading, hswitching, hjoin, Option.isSome_none, Bool.false_eq_true, if_false, ge_iff_le, hdeadline,
        hround, hunder, decide_true, Bool.and_self, event_true]
    · rw [State.abortSwitch, State.refuseLater_mailOnly]
      exact ⟨rfl, rfl, rfl, rfl⟩

end Sys2Proof.Machine
end

section
/-!
PROOFS. POWER_CAP and self-tests (chapters 18 and 19).
-/

namespace Sys2Proof.Machine

/-- A SELFTEST of a known kind whose action is the row's. -/
theorem selftestEvent_acts {s t : State} {cells : Bytes} {kind action : Nat} {run : State → Nat → State} (hkind : byteAt (msgBytes cells) 0x20 = kind)
    (hk : kind ≤ 1) (haction : byteAt (msgBytes cells) 0x21 = action) (ha : action ≤ 2)
    (htakes : s.takes (.selftest s kind action) cells [(0x22, 14, 0xFF)] = true)
    (hrun : run (s.takeMessage (.selftest s kind action) cells) (seqOf cells) = t) (hflag : t.regs.shelter = s.regs.shelter) :
    selftestEvent s cells action run = .next t := by
  subst hkind haction
  refine messageEvent_acts_kind (by rw [beq_self_eq_true, Bool.true_or]) htakes (fieldAt_none ?_) hrun hflag
  have hsmall : ∀ n m : Nat, n ≤ m → decide (n > m) = false := fun n m h => decide_eq_false (Nat.not_lt.mpr h)
  simp only [List.mem_cons, List.not_mem_nil, or_false, forall_eq_or_imp, forall_eq]
  exact ⟨hsmall _ _ hk, hsmall _ _ ha⟩

/-- A power cap that POWER_CAP takes. -/
theorem powerCap_good {w : Nat} (h : w = 0 ∨ (250 ≤ w ∧ w ≤ 600 ∧ w % 25 = 0)) :
    (w != 0 && (decide (w < 250) || decide (w > 600) || w % 25 != 0)) = false := by
  obtain rfl | ⟨hlow, hhigh, hstep⟩ := h
  · rfl
  · simp only [decide_eq_false (Nat.not_lt.mpr hlow), decide_eq_false (Nat.not_lt.mpr hhigh), hstep, Bool.or_self, bne_self_eq_false, Bool.and_false]

/-- Settles O37: each message by its checks, and the end of a run by whether a part failed. -/
theorem powerCapAndSelftestAct : Obligations.PowerCapAndSelftestAct := by
  intro s u cells host
  refine ⟨fun htakes hcap => ?_, fun kind hkind hbyte => ⟨fun haction htakes => ⟨fun hidle => ?_, fun hrun => ?_⟩,
    fun haction htakes hu => ⟨fun hrun => ?_, fun hidle => ?_⟩, fun haction htakes => ?_⟩, fun seq => rfl,
    fun hrun hlodge hagain => ⟨?_, fun cores others hcores hsome => ?_⟩⟩
  · refine messageEvent_acts htakes (fieldAt_none ?_) ?_ rfl
    · simpa only [List.mem_singleton, forall_eq] using powerCap_good hcap
    · simp only [beq_iff_eq]
      rfl
  · refine selftestEvent_acts hbyte hkind haction (by decide) htakes ?_ (State.reply_flag rfl _ _ _)
    exact (if_neg (by simpa using hidle)).trans (by rw [hbyte])
  · refine selftestEvent_acts hbyte hkind haction (by decide) htakes ?_ (State.refuse_flag rfl _ _ _ _ _)
    exact if_pos (by simpa using hrun)
  · subst hu
    refine selftestEvent_acts hbyte hkind haction (by decide) htakes ?_ (State.reply_flag rfl _ _ _)
    exact congrArg (State.selftestReply · (seqOf cells)) (if_pos (by simpa using hrun))
  · subst hu
    refine selftestEvent_acts hbyte hkind haction (by decide) htakes ?_ (State.reply_flag rfl _ _ _)
    exact congrArg (State.selftestReply · (seqOf cells)) (if_neg (by simpa using hidle))
  · exact selftestEvent_acts hbyte hkind haction (by decide) htakes rfl (State.reply_flag rfl _ _ _)
  · simp only [exec, execSelftestEnd, hrun, hlodge, hagain, List.foldl_nil, List.all_nil, List.isEmpty_nil, List.length_nil, beq_self_eq_true,
      Bool.and_self, Bool.or_true, event_true, if_true, Nat.zero_mod, Nat.add_zero]
  · have hgood : (cores.all fun c => decide (c.1 < 64) && decide (c.2 < 68)) = true := by
      simpa using hcores
    have hfail : (cores.length + others == 0) = false := by
      simpa using Nat.ne_of_gt hsome
    simp only [exec, execSelftestEnd, hrun, hlodge, hagain, hgood, hfail, List.foldl_nil, List.all_nil, List.isEmpty_nil, List.length_nil,
      beq_self_eq_true, Bool.and_self, Bool.or_true, event_true, Nat.add_zero, Bool.false_eq_true, if_false]

end Sys2Proof.Machine
end

section
/-!
PROOFS. FORMAT and SANITIZE (chapters 17 and 19).
-/

namespace Sys2Proof.Machine

/-! ### Dropping collections -/

/-- The collections by ID, with how far each is loaded. -/
def State.loads (s : State) : List (Nat × LoadState) := s.colls.map fun c => (c.cid, c.load)

section
variable (s : State)

theorem State.dropWork_loads (c : Cmd) : (s.dropWork c).loads = s.loads := by
  obtain ⟨t, rfl | rfl, ht⟩ := s.dropWork_workOnly c
  · rw [ht]
    rfl
  · rw [ht]
    exact List.map_map

theorem State.dropWork_store (c : Cmd) :
    (s.dropWork c).store.format = s.store.format ∧ (s.dropWork c).store.formatting = s.store.formatting ∧ (s.dropWork c).keys = s.keys := by
  obtain ⟨t, rfl | rfl, ht⟩ := s.dropWork_workOnly c
  · rw [ht]
    exact ⟨rfl, rfl, rfl⟩
  · rw [ht]
    exact ⟨rfl, rfl, rfl⟩

theorem State.dropWork_complete_loads (c : Cmd) (cid : Nat) (r : Result) : ((s.dropWork c).complete cid r).loads = s.loads := by
  rw [State.complete_endOnly (s.dropWork c) cid r]
  exact s.dropWork_loads c

theorem State.dropWork_complete_store (c : Cmd) (cid : Nat) (r : Result) :
    ((s.dropWork c).complete cid r).store.format = s.store.format ∧ ((s.dropWork c).complete cid r).store.formatting = s.store.formatting
      ∧ ((s.dropWork c).complete cid r).keys = s.keys := by
  rw [State.complete_endOnly (s.dropWork c) cid r]
  exact s.dropWork_store c

theorem State.endAll_loads (p : Cmd → Bool) (r : Result) : (s.endAll p r).loads = s.loads :=
  foldl_keeps State.loads (fun s c => s.dropWork_complete_loads c c.cid r) _ _

theorem State.endAll_store (p : Cmd → Bool) (r : Result) :
    (s.endAll p r).store.format = s.store.format ∧ (s.endAll p r).store.formatting = s.store.formatting :=
  ⟨foldl_keeps (fun s : State => s.store.format) (fun s c => (State.dropWork_complete_store s c c.cid r).1) _ _,
    foldl_keeps (fun s : State => s.store.formatting) (fun s c => (State.dropWork_complete_store s c c.cid r).2.1) _ _⟩

theorem State.beginDrop_loads (id : Nat) (msg : Option Nat) :
    (s.beginDrop id msg).loads = s.loads.map fun x => if x.1 == id then (x.1, .dropping) else x := by
  unfold State.beginDrop
  rw [State.endAll_loads]
  simp only [State.loads, State.updColl, updWhere, List.map_map]
  refine List.map_congr_left fun c _ => ?_
  simp only [Function.comp_apply]
  split <;> rfl

theorem State.beginDrop_store (id : Nat) (msg : Option Nat) :
    (s.beginDrop id msg).store.format = s.store.format ∧ (s.beginDrop id msg).store.formatting = s.store.formatting := by
  unfold State.beginDrop
  exact State.endAll_store _ _ _

end

/-- Dropping collections one after another leaves their IDs and puts each of them into dropping. -/
theorem State.foldl_beginDrop_loads (l : List Collection) (s : State) :
    (l.foldl (fun s c => s.beginDrop c.cid none) s).loads
      = s.loads.map fun x => if l.any (fun c => x.1 == c.cid) then (x.1, .dropping) else x := by
  induction l generalizing s with
  | nil => simp only [List.foldl_nil, List.any_nil, Bool.false_eq_true, if_false, List.map_id']
  | cons c l ih =>
    rw [List.foldl_cons, ih, State.beginDrop_loads, List.map_map]
    refine List.map_congr_left fun x _ => ?_
    simp only [Function.comp_apply, List.any_cons]
    by_cases hc : (x.1 == c.cid) = true
    · simp only [hc, if_true, Bool.true_or, ite_self]
    · simp only [hc, Bool.false_eq_true, if_false, Bool.false_or]

/-- A FORMAT that erases drops every collection first. -/
theorem State.dropAll_effect {s t : State} (hcolls : t.colls = s.colls) :
    let u := (s.colls.filter fun c => decide (c.load ≠ .dropping)).foldl (fun s c => s.beginDrop c.cid none) t
    (∀ c ∈ u.colls, c.load = .dropping) ∧ u.colls.map (·.cid) = s.colls.map (·.cid)
      ∧ u.store.format = t.store.format ∧ u.store.formatting = t.store.formatting := by
  intro u
  have hloads : u.loads = s.loads.map fun x => if (s.colls.filter fun c => decide (c.load ≠ .dropping)).any (fun c => x.1 == c.cid)
      then (x.1, .dropping) else x := by
    rw [State.foldl_beginDrop_loads]
    simp only [State.loads, hcolls]
  refine ⟨fun c hc => ?_, ?_, foldl_keeps (fun s : State => s.store.format) (fun s (c : Collection) => (State.beginDrop_store s c.cid none).1) _ _,
    foldl_keeps (fun s : State => s.store.formatting) (fun s (c : Collection) => (State.beginDrop_store s c.cid none).2) _ _⟩
  · have hmem : (c.cid, c.load) ∈ u.loads := List.mem_map_of_mem (f := fun c : Collection => (c.cid, c.load)) hc
    rw [hloads, State.loads, List.map_map] at hmem
    obtain ⟨k, hk, hkc⟩ := List.mem_map.mp hmem
    simp only [Function.comp_apply] at hkc
    split at hkc
    · exact (Prod.mk.inj hkc).2.symm
    · next hany =>
      rw [← (Prod.mk.inj hkc).2]
      by_contra hload
      refine hany (List.any_eq_true.mpr ⟨k, List.mem_filter.mpr ⟨hk, decide_eq_true hload⟩, beq_self_eq_true _⟩)
  · have hids (s : State) : s.colls.map (·.cid) = s.loads.map (·.1) := by
      rw [State.loads, List.map_map]
      rfl
    rw [hids, hids, hloads, List.map_map]
    refine List.map_congr_left fun x _ => ?_
    simp only [Function.comp_apply]
    split <;> rfl

/-! ### Messages -/

/-- A FORMAT of a known format while nothing else formats. -/
theorem formatEvent_acts {s t : State} {cells : Bytes} {convert : Bool} {bad : List (Bool × Nat)} {run : State → Nat → State}
    (hidle : s.store.sanitise = none ∧ s.store.converting = none ∧ s.store.formatting = none)
    (htakes : s.takes .format cells [(0x21, 1, 0xFC), (0x22, 2, 0xFF), (0x2C, 20, 0xFF)] = true)
    (hformat : byteAt (msgBytes cells) 0x20 = 1 ∨ byteAt (msgBytes cells) 0x20 = 2) (hconvert : (byteAt (msgBytes cells) 0x21).testBit 0 = convert)
    (hbad : ∀ x ∈ bad, x.1 = false) (hrun : run (s.takeMessage .format cells) (seqOf cells) = t) (hflag : t.regs.shelter = s.regs.shelter) :
    formatEvent s cells convert bad run = .next t := by
  obtain ⟨hsan, hconv, hdrops⟩ := hidle
  have hknown : (byteAt (msgBytes cells) 0x20 != 1 && byteAt (msgBytes cells) 0x20 != 2) = false := by
    obtain h | h := hformat <;> rw [h] <;> rfl
  refine messageEvent_acts_kind (by rw [hconvert, beq_self_eq_true]) htakes (fieldAt_none ?_) ?_ hflag
  · intro x hx
    obtain rfl | hx := List.mem_cons.mp hx
    · exact hknown
    · exact hbad x hx
  · refine (if_neg ?_).trans hrun
    change ¬ (s.store.sanitise.isSome || s.store.converting.isSome || s.store.formatting.isSome) = true
    rw [hsan, hconv, hdrops]
    exact Bool.false_ne_true

theorem State.writeFormat_shelter (s : State) (erase : Bool) (format index : Nat) :
    (s.writeFormat erase format index).regs.shelter = s.regs.shelter := by
  unfold State.writeFormat
  exact State.replyLater_shelter _ _ _ _

theorem State.foldl_mailOnly {α : Type} {f : State → α → State} (h : ∀ s a, State.mailOnly s (f s a)) (l : List α) (s : State) :
    s.mailOnly (l.foldl f s) := by
  induction l generalizing s with
  | nil => exact State.mailOnly.rfl' s
  | cons a l ih => exact (h s a).trans (ih _)

theorem State.answerGone_mailOnly (s : State) (c : Collection) : s.mailOnly (s.answerGone c) := by
  unfold State.answerGone
  exact ((State.foldl_mailOnly (fun _ _ => State.replyLater_mailOnly _ _ _ _) _ _).trans
    (State.foldl_mailOnly (fun _ _ => State.refuseLater_mailOnly _ _ _ _ _ _) _ _)).trans (State.replyLater_mailOnly _ _ _ _)

/-- An index area that holds the journal and fits the store. -/
theorem index_inside {n cap : Nat} (hlow : 62500000 ≤ n) (hhigh : n ≤ cap) : (decide (n < journalSectors) || decide (n > cap)) = false := by
  have hlow' : journalSectors ≤ n := hlow
  rw [decide_eq_false (Nat.not_lt.mpr hlow'), decide_eq_false (Nat.not_lt.mpr hhigh), Bool.or_self]

/-- A SANITIZE of a known mode, by what it does. -/
theorem sanitizeEvent_acts {s t : State} {cells : Bytes} {host : HostImage} (htakes : s.takes (.sanitize s) cells ([(0x21, 3, 0xFF), (0x28, 24, 0xFF)]
      ++ (if byteAt (msgBytes cells) 0x20 = 2 then [] else [(0x24, 4, 0xFF)])) = true) (hmode : byteAt (msgBytes cells) 0x20 ≤ 2)
    (hrun : (if (s.takeMessage (.sanitize s) cells).store.sanitise.isSome || (s.takeMessage (.sanitize s) cells).keys.seed.isNone then
      (s.takeMessage (.sanitize s) cells).refuse 0x81 (seqOf cells) 6 noOffset 0
      else (s.takeMessage (.sanitize s) cells).cryptoErase (byteAt (msgBytes cells) 0x20)
        (if byteAt (msgBytes cells) 0x20 == 2 then field (msgBytes cells) 0x24 4 else 0) (seqOf cells)) = t)
    (hflag : t.regs.shelter = s.regs.shelter) : exec (.sanitize cells host) s = .next t := by
  have hlist : (if byteAt (msgBytes cells) 0x20 ≥ 2 then [] else [(0x24, 4, 0xFF)] : List (Nat × Nat × Nat))
      = if byteAt (msgBytes cells) 0x20 = 2 then [] else [(0x24, 4, 0xFF)] :=
    if_congr ⟨fun h => Nat.le_antisymm hmode h, fun h => Nat.le_of_eq h.symm⟩ rfl rfl
  refine messageEvent_acts ?_ (fieldAt_none (by simpa using hmode)) hrun hflag
  exact (congrArg (fun l => s.takes (.sanitize s) cells ([(0x21, 3, 0xFF), (0x28, 24, 0xFF)] ++ l)) hlist).trans htakes

/-- What a SANITIZE leaves at once (R683). -/
theorem State.cryptoErase_effect (s : State) (mode pattern msg : Nat) :
    (s.cryptoErase mode pattern msg).regs.shelter = s.regs.shelter ∧ (s.cryptoErase mode pattern msg).colls = []
      ∧ (s.cryptoErase mode pattern msg).keys = { s.keys with generation := (s.keys.generation + 1) % 2 ^ 32, imports := [], media := none }
      ∧ (s.cryptoErase mode pattern msg).store.host = [] ∧ (s.cryptoErase mode pattern msg).store.journal = []
      ∧ (s.cryptoErase mode pattern msg).store.sanitise.isSome = true := by
  unfold State.cryptoErase
  extract_lets ended store group keys gone
  have hended : ended.regs.shelter = s.regs.shelter ∧ ended.keys = s.keys := by
    constructor
    · refine State.foldl_shelter (fun s c => ?_) _ _
      split
      · exact (State.complete_shelter _ _ _).trans (State.dropWork_shelter s c)
      · rfl
    · refine foldl_keeps (fun s : State => s.keys) (fun s c => ?_) _ _
      split
      · exact (s.dropWork_complete_store c _ _).2.2
      · rfl
  have hmail : gone.mailOnly ((s.colls.foldl State.answerGone gone).refuseLater 0x80 s.store.convMsg 6 noOffset 0) :=
    (State.foldl_mailOnly State.answerGone_mailOnly _ _).trans (State.refuseLater_mailOnly _ _ _ _ _ _)
  rw [hmail]
  exact ⟨hended.1, rfl, congrArg (fun k : Keys => { k with generation := (k.generation + 1) % 2 ^ 32, imports := [], media := none }) hended.2,
    rfl, rfl, rfl⟩

/-- Settles O38: a FORMAT over collections drops each of them, and what SANITIZE leaves is fixed before its answers go. -/
theorem formatAndSanitizeAct : Obligations.FormatAndSanitizeAct := by
  intro s u cells host
  refine ⟨fun hsan hconv hdrops htakes hformat => ⟨fun hbit hindex hnow hother hfits => ?_, fun hbit hlow hhigh hu => ⟨fun hcolls => ?_,
    fun hcolls hflags => ?_, fun hcolls hflags => ?_⟩⟩, fun erase format index => ?_, fun f hconv hready hup => ?_,
    fun htakes hmode hsan hu => ⟨fun hseed => ?_, fun hseed => ?_⟩, fun mode phase pattern bad hsan hready hup hbad hu => ?_⟩
  · refine formatEvent_acts ⟨hsan, hconv, hdrops⟩ htakes hformat (by rw [Nat.testBit_zero, hbit]; rfl) (by simpa using hindex) ?_ rfl
    have hfits' : (byteAt (msgBytes cells) 0x20 == 1 && decide (s.mappedSectors > capacitySectors 1)) = false := by
      simpa using hfits
    exact if_neg (by
      change ¬ (s.store.format == 0 || s.store.format == byteAt (msgBytes cells) 0x20
        || (byteAt (msgBytes cells) 0x20 == 1 && decide (s.mappedSectors > capacitySectors 1))) = true
      rw [hfits']
      simpa using ⟨hnow, hother⟩)
  · subst hu
    refine formatEvent_acts ⟨hsan, hconv, hdrops⟩ htakes hformat (by rw [Nat.testBit_zero, hbit]; rfl) ?_ ?_ (State.writeFormat_shelter _ _ _ _)
    · simpa only [List.mem_singleton, forall_eq] using index_inside hlow hhigh
    · have hnone : (s.takeMessage .format cells).colls = [] := hcolls
      simp only [hnone, List.isEmpty_nil, Bool.not_true, Bool.false_and, Bool.false_eq_true, if_false, if_true]
  · subst hu
    refine formatEvent_acts ⟨hsan, hconv, hdrops⟩ htakes hformat (by rw [Nat.testBit_zero, hbit]; rfl) ?_ ?_ (State.refuse_flag rfl _ _ _ _ _)
    · simpa only [List.mem_singleton, forall_eq] using index_inside hlow hhigh
    · have hsome : (s.takeMessage .format cells).colls.isEmpty = false := List.isEmpty_eq_false_iff.mpr hcolls
      simp only [hsome, hflags, Nat.zero_testBit, Bool.not_false, Bool.and_self, if_true]
      rfl
  · have hdrop := State.dropAll_effect (s := s) (t := { s.takeMessage .format cells with
      store.convMsg := some (seqOf cells), store.formatting := some (byteAt (msgBytes cells) 0x20, field (msgBytes cells) 0x24 8) }) rfl
    obtain ⟨hload, hids, hfmt, hwaits⟩ := hdrop
    refine ⟨_, formatEvent_acts ⟨hsan, hconv, hdrops⟩ htakes hformat (by rw [Nat.testBit_zero, hbit]; rfl) ?_ ?_ ?_, hwaits, hfmt, hload, hids⟩
    · simpa only [List.mem_singleton, forall_eq] using index_inside hlow hhigh
    · have hsome : (s.takeMessage .format cells).colls.isEmpty = false := List.isEmpty_eq_false_iff.mpr hcolls
      have htwo : Nat.testBit 2 1 = true := rfl
      simp only [hsome, hflags, htwo, Bool.not_true, Bool.and_false, Bool.false_eq_true, if_false]
      rfl
    · exact State.foldl_shelter (fun s (c : Collection) => State.beginDrop_shelter s c.cid none) _ _
  · rw [State.writeFormat, State.replyLater_mailOnly]
    exact ⟨rfl, rfl, rfl, fun herase => by rw [if_pos herase]; rfl, rfl, rfl, rfl, rfl⟩
  · simp only [exec, execFormatConversionEnd, hconv, hready, hup, Bool.and_self, event_true]
  · subst hu
    refine sanitizeEvent_acts htakes hmode (if_pos ?_) (State.refuse_flag rfl _ _ _ _ _)
    change (s.store.sanitise.isSome || s.keys.seed.isNone) = true
    rw [hseed, Option.isNone_none, Bool.or_true]
  · subst hu
    obtain ⟨hflag, hcolls, hkeys, hhost, hjournal, hbegun⟩ := (s.takeMessage (.sanitize s) cells).cryptoErase_effect (byteAt (msgBytes cells) 0x20)
      (if byteAt (msgBytes cells) 0x20 = 2 then field (msgBytes cells) 0x24 4 else 0) (seqOf cells)
    refine ⟨_, sanitizeEvent_acts htakes hmode ?_ hflag, rfl, hcolls, by rw [hkeys], by rw [hkeys], hhost, hjournal, hbegun, by rw [hkeys]; rfl⟩
    refine (if_neg ?_).trans (by simp only [beq_iff_eq])
    change ¬ (s.store.sanitise.isSome || s.keys.seed.isNone) = true
    rw [hsan, Option.isSome_none, Bool.false_or, Option.isNone_iff_eq_none]
    exact hseed
  · subst hu
    have hgood : (mode == 2 || bad == 0) = true := by
      simpa using hbad
    have hruns : (s.regs.ready || s.regs.shelter) = true := by
      simpa using hready
    refine ⟨fun seq hmsg => ?_, fun hmsg => ?_⟩
    · simp only [exec, execSanitizeEnd, hsan, hruns, hup, hgood, hmsg, Bool.and_self, event_true]
      rfl
    · simp only [exec, execSanitizeEnd, hsan, hruns, hup, hgood, hmsg, Bool.and_self, event_true]
      rfl

end Sys2Proof.Machine
end

section
/-!
PROOFS. RETIRE_PAGE, HBM_REPAIR and the work of repair (chapters 11 and 19).
-/

namespace Sys2Proof.Machine

/-! ### Messages -/

/-- The bytes that an HBM_REPAIR of an action leaves unused. -/
def repairUnused (action : Nat) : List (Nat × Nat × Nat) :=
  (if action == 1 then [] else [(0x21, 1, 0xFF)]) ++ (if 1 ≤ action && action ≤ 3 then [] else [(0x24, 4, 0xFF)])
    ++ (if action == 3 then [] else [(0x28, 4, 0xFF)]) ++ (if action == 3 || action == 4 then [] else [(0x2C, 2, 0xFF)])

/-- An HBM_REPAIR whose fields fit its action, in a service session. -/
theorem repairEvent_acts {s t : State} {cells : Bytes} {action : Nat} {run : State → Nat → State} (haction : byteAt (msgBytes cells) 0x20 = action)
    (ha : action ≤ 4) (hchannel : field (msgBytes cells) 0x22 2 ≤ 511)
    (hrange : 1 ≤ action → action ≤ 3 → 0 < field (msgBytes cells) 0x26 2 ∧ field (msgBytes cells) 0x26 2 ≤ 64
      ∧ field (msgBytes cells) 0x24 2 + field (msgBytes cells) 0x26 2 ≤ 32256)
    (hentry : 3 ≤ action → field (msgBytes cells) 0x2C 2 ≤ 1023) (hsession : s.keys.session.isSome = true)
    (htakes : s.takes .hbmRepair cells ((0x2E, 18, 0xFF) :: repairUnused action) = true)
    (hrun : run (s.takeMessage .hbmRepair cells) (seqOf cells) = t) (hflag : t.regs.shelter = s.regs.shelter) :
    repairEvent s cells action run = .next t := by
  subst haction
  have hlist : (if byteAt (msgBytes cells) 0x20 > 4 then [] else repairUnused (byteAt (msgBytes cells) 0x20))
      = repairUnused (byteAt (msgBytes cells) 0x20) := if_neg (Nat.not_lt.mpr ha)
  refine messageEvent_acts_kind (by rw [beq_self_eq_true, Bool.true_or]) ?_ (fieldAt_none ?_) ?_ hflag
  · exact (congrArg (fun l => s.takes .hbmRepair cells ((0x2E, 18, 0xFF) :: l)) hlist).trans htakes
  · simp only [List.mem_cons, List.not_mem_nil, or_false, forall_eq_or_imp, forall_eq, gt_iff_lt, ge_iff_le, Bool.and_eq_false_iff,
      decide_eq_false_iff_not, Nat.not_lt, Nat.not_le, Bool.or_eq_false_iff, beq_eq_false_iff_ne]
    omega
  · refine (if_neg ?_).trans hrun
    change ¬ s.keys.session.isNone = true
    rw [Option.isNone_eq_false_iff.mpr hsession]
    exact Bool.false_ne_true

theorem State.beginSplice_shelter (s : State) (m : Bytes) (action seq : Nat) : (s.beginSplice m action seq).regs.shelter = s.regs.shelter := by
  unfold State.beginSplice
  dsimp only
  split
  · exact State.refuse_shelter _ _ _ _ _ _
  · split
    · exact State.refuse_shelter _ _ _ _ _ _
    · rfl

/-- A splice begins where an entry, the relief pages and, for a lane remap, a lane are left. -/
theorem State.beginSplice_fits {s : State} {m : Bytes} {action seq num : Nat} (hnum : s.freeEntry (field m 0x22 2 / 64) = some num)
    (hentries : 0 < s.entriesFree (field m 0x22 2 / 64)) (hrelief : field m 0x26 2 ≤ s.reliefFree (field m 0x22 2 / 64))
    (hlanes : action = 1 → 0 < s.lanesLeft (field m 0x22 2)) :
    s.beginSplice m action seq = { s with mem.splices := s.mem.splices ++ [{
      num, stack := field m 0x22 2 / 64, channel := field m 0x22 2, first := field m 0x24 2, pages := field m 0x26 2, state := 1, copied := 0
      released := false, back := false, retire := false, repair := action, ended := false, msg := some seq, maint := 0, ppr := none }] } := by
  unfold State.beginSplice
  extract_lets channel stack n
  have hnum' : s.freeEntry stack = some num := hnum
  have hroom : ¬ (s.entriesFree stack == 0 || decide (s.reliefFree stack < n) || action == 1 && s.lanesLeft channel == 0) = true := by
    simp only [Bool.or_eq_true, beq_iff_eq, decide_eq_true_eq, Bool.and_eq_true, not_or, not_and]
    exact ⟨⟨Nat.ne_of_gt hentries, Nat.not_lt.mpr hrelief⟩, fun h => Nat.ne_of_gt (hlanes h)⟩
  rw [hnum']
  exact if_neg hroom

/-- The splice entry of a stack by its number. -/
theorem State.splice?_named {s : State} {stack num : Nat} {x : Splice} (h : s.splice? stack num = some x) : x.stack = stack ∧ x.num = num := by
  have hmem : x ∈ s.splicesOf stack := List.mem_of_find?_eq_some h
  exact ⟨eq_of_beq (List.mem_filter.mp hmem).2, eq_of_beq (List.find?_some (p := fun x : Splice => x.num == num) h)⟩

/-- Settles O39: the checks of each action pass, and a splice is begun where entries, relief pages and lanes are left. -/
theorem repairMessagesAct : Obligations.RepairMessagesAct := by
  intro s u cells host
  refine ⟨fun htakes hchannel hpage hretired hretiring hroom hrelief hentries => ?_, fun hsession hchannel hu => ⟨fun haction htakes => ?_,
    fun hpos hmax hend => ⟨fun haction htakes => ?_, fun haction htakes => ?_, fun action num x hnum hentries hrelief hlanes hx => ?_⟩,
    fun x hnum hx hstate hback => ⟨fun haction htakes hpos hmax hend hown hppr hbank => ?_, fun haction htakes hretire hended => ?_⟩⟩⟩
  · refine messageEvent_acts htakes (fieldAt_none (by simp; omega)) ?_ rfl
    refine (if_neg ?_).trans (if_neg ?_)
    · change ¬ (s.mem.retired.contains _ || s.mem.retiring.any _) = true
      rw [hretired, hretiring]
      exact Bool.false_ne_true
    · change ¬ (decide (s.mem.retired.length + s.mem.retiring.length ≥ 4096) || s.reliefFree _ == 0 || s.entriesFree _ == 0) = true
      simp only [Bool.or_eq_true, decide_eq_true_eq, beq_iff_eq]
      omega
  · subst hu
    exact repairEvent_acts haction (by decide) hchannel nofun nofun hsession htakes rfl (State.reply_flag rfl _ _ _)
  · subst hu
    exact repairEvent_acts haction (by decide) hchannel (fun _ _ => ⟨hpos, hmax, hend⟩) nofun hsession htakes rfl (State.beginSplice_shelter _ _ _ _)
  · subst hu
    exact repairEvent_acts haction (by decide) hchannel (fun _ _ => ⟨hpos, hmax, hend⟩) nofun hsession htakes rfl (State.beginSplice_shelter _ _ _ _)
  · subst hu hx
    exact State.beginSplice_fits hnum hentries hrelief hlanes
  · obtain ⟨hstack, hx'⟩ := State.splice?_named hx
    subst hu
    rw [hstack, hx']
    refine repairEvent_acts haction (by decide) hchannel (fun _ _ => ⟨hpos, hmax, hend⟩) (fun _ => hnum) hsession htakes ?_ ?_
    · have hfind : (s.takeMessage .hbmRepair cells).splice? (field (msgBytes cells) 0x22 2 / 64) (field (msgBytes cells) 0x2C 2) = some x := hx
      have hused : ((s.takeMessage .hbmRepair cells).mem.pprUsed.any fun u => u.1 == field (msgBytes cells) 0x22 2
          && Config.bankOf u.2 == Config.bankOf (field (msgBytes cells) 0x28 4)) = false := by
        rw [← hown]
        exact hbank
      cases hrow : Config.rowInRun x.channel x.first x.pages (field (msgBytes cells) 0x28 4) <;> rw [hown] at hrow <;>
        simp only [hfind, hstate, hback, hown, hppr, hrow, hused, bne_self_eq_false, Option.isSome_none, Bool.or_self, Bool.not_true,
          Bool.not_false, Bool.or_true, Bool.false_eq_true, if_true, if_false]
      rfl
    · split
      · rfl
      · exact State.refuse_flag rfl _ _ _ _ _
  · obtain ⟨hstack, hx'⟩ := State.splice?_named hx
    subst hu
    rw [hstack, hx']
    refine repairEvent_acts haction (by decide) hchannel (by omega) (fun _ => hnum) hsession htakes ?_ rfl
    have hfind : (s.takeMessage .hbmRepair cells).splice? (field (msgBytes cells) 0x22 2 / 64) (field (msgBytes cells) 0x2C 2) = some x := hx
    simp only [hfind, hstate, hback, hretire, hended, bne_self_eq_false, Bool.or_self, Bool.not_true, Bool.false_eq_true, if_false]

/-! ### Repair in service -/

/-- A list without repeats is its own list of distinct members. -/
theorem distinct_of_nodup {l : List Nat} (h : l.Nodup) : distinct l = l := by
  suffices hfold : ∀ acc : List Nat, (acc ++ l).Nodup → l.foldl (fun acc x => if acc.contains x then acc else acc ++ [x]) acc = acc ++ l from
    hfold [] h
  clear h
  induction l with
  | nil => exact fun acc _ => (List.append_nil acc).symm
  | cons x l ih =>
    intro acc hacc
    have hx : acc.contains x = false := by
      rw [List.contains_eq_mem, decide_eq_false_iff_not]
      exact fun hmem => (List.nodup_append.mp hacc).2.2 x hmem x List.mem_cons_self rfl
    rw [List.foldl_cons, hx, if_neg Bool.false_ne_true, ih _ (by rwa [List.append_assoc]), List.append_assoc]
    rfl

/-- Settles O40: each row's guard holds, and its effect is the branch of its case. -/
theorem repairWorkAdvances : Obligations.RepairWorkAdvances := by
  intro s
  refine ⟨fun held u hready hheld hstacks hup hu => ?_, fun channel x hx => ?_, fun channel hchannel => ⟨fun hrefreshing => ?_, fun hrefreshing => ?_⟩,
    fun stack entry x hx hstate hreleased hback hspans => ⟨fun hrepair => ?_, fun hrepair => ?_⟩,
    fun cluster core hcluster hcore => ⟨?_, fun henabled hgood hrepairing => ?_, fun address u v hu hv => ⟨?_, fun cid member c q hcmd hbody hadmitted => ?_⟩⟩,
    fun cluster core spare u hfind hidle hspare henabled hgood => ⟨?_, fun hu => ?_⟩⟩
  · subst hu
    have hgood : held.all (fun c => decide (c < 512) && !s.mem.selfRefresh.contains (c / 64)) = true := by
      simpa only [List.all_eq_true, Bool.and_eq_true, decide_eq_true_eq, Bool.not_eq_true'] using hheld
    have hup' : (held.isEmpty || s.compUp Component.memory) = true := by
      simpa only [Bool.or_eq_true, List.isEmpty_iff] using hup
    simp only [exec, execMaintenanceSlot, hready, hgood, hup', distinct_of_nodup hstacks, List.length_map, beq_self_eq_true, Bool.and_self, event_true]
    simp only [Bool.and_eq_true, Bool.not_eq_true', and_assoc]
  · simp only [State.holdStep, hx]
  · simp only [exec, execPseudoChannelRefresh, hchannel, hrefreshing, decide_true, beq_self_eq_true, Bool.and_self, event_true, beq_iff_eq,
      Bool.false_eq_true, if_false, Bool.not_false]
  · simp only [exec, execPseudoChannelRefresh, hchannel, hrefreshing, decide_true, beq_self_eq_true, Bool.and_self, event_true, beq_iff_eq,
      if_true, Bool.not_true]
  · simp only [exec, execSpliceOldRunRelease, hx, hstate, hreleased, hback, hspans, beq_self_eq_true, Bool.not_false, Bool.and_self, event_true,
      beq_iff_eq, if_neg hrepair]
  · simp only [exec, execSpliceOldRunRelease, hx, hstate, hreleased, hback, hspans, beq_self_eq_true, Bool.not_false, Bool.and_self, event_true,
      hrepair, if_true]
    rfl
  · simp only [exec, execCoreDatapathParity, hcluster, hcore, decide_true, Bool.and_self, event_true]
  · simp only [State.markFailing, hgood, hrepairing, henabled, Bool.or_self, Bool.false_eq_true, if_false, if_true]
  · subst hu hv
    simp only [exec, execCoreMemoryUncorrectable, hcluster, hcore, decide_true, Bool.and_self, event_true]
  · subst hu hv
    have hserved : (c.admitted && c.query?.isSome) = true := by
      rw [hadmitted, Cmd.query?_of hbody]
      rfl
    simp only [exec, execCoreMemoryUncorrectable, hcluster, hcore, decide_true, Bool.and_self, event_true, hcmd, Option.any_some, hserved, if_true]
  · simp only [exec, execSpareTestEnd, hfind, hidle, hspare, henabled, hgood, decide_true, Bool.not_false, Bool.and_self, event_true, if_true]
  · subst hu
    simp only [exec, execSpareTestEnd, hfind, hidle, hspare, henabled, hgood, decide_true, Bool.not_false, Bool.and_self, event_true,
      Bool.false_eq_true, if_false]

end Sys2Proof.Machine
end

section
/-!
PROOFS. Reads that fail (chapters 11, 13 and 19).
-/

namespace Sys2Proof.Machine

/-- A word that a read finds uncorrectable is poisoned, whether it was before or not. -/
theorem State.poison_contains (s : State) (w : Nat) : (s.poison [w]).mem.poison.contains w = true := by
  unfold State.poison
  cases hw : s.mem.poison.contains w
  · simp
  · have hmem : w ∈ s.mem.poison := List.elem_iff.mp hw
    exact List.elem_iff.mpr (List.mem_append_left _ hmem)

/-- Settles O41: each read's guard holds, and the record and the readers follow in its branch. -/
theorem readFailuresAreRecorded : Obligations.ReadFailuresAreRecorded := by
  intro s
  refine ⟨fun channel page address hchannel hlies => ⟨fun hfew => ?_, fun hmany => ?_, ?_, State.poison_contains _ _⟩,
    fun lane address p u hp hu => ⟨fun hprogram => ?_, fun run transfer hprogram => ?_⟩,
    fun cid c q k late u hcmd hbody hcoll hphase hlate hsome hround hu => ?_,
    fun hup => ⟨fun sector hsector => ⟨?_, fun hreaders hmoves hfailing => ?_⟩, fun sector hsector => ?_⟩,
    fun hmaster hd3 address => ⟨fun num r hr hlow hhigh => ?_, fun hpage hlow hhigh => ?_, fun cid c hcmd hreads => ?_, fun hknown => ?_, fun hnew => ?_⟩, rfl⟩
  · simp only [exec, execHbmCorrected, hchannel, hlies, decide_true, Bool.and_self, event_true, ge_iff_le, if_neg (Nat.not_le.mpr hfew)]
  · simp only [exec, execHbmCorrected, hchannel, hlies, decide_true, Bool.and_self, event_true, ge_iff_le, if_pos hmany]
  · simp only [exec, execHbmUncorrectable, hchannel, hlies, decide_true, Bool.and_self, event_true]
    rfl
  · subst hu
    simp only [exec, execLaneEccError, hp, hprogram]
  · subst hu
    simp only [exec, execLaneEccError, hp, hprogram]
  · subst hlate hu
    have hlate : (q.active.filter fun m => !m.refLeft.isEmpty).isEmpty = false := List.isEmpty_eq_false_iff.mpr hsome
    simp only [exec, execRefineReadTimeout, hcmd, Cmd.query?_of hbody, hcoll, hphase, hlate, ge_iff_le, hround, decide_true, beq_self_eq_true,
      Bool.not_false, Bool.and_self, event_true]
  · simp only [exec, execFlashReadFailed, hsector, hup, decide_true, Bool.and_self, event_true]
  · simp only [State.hostReadFailed, hreaders, hmoves, hfailing, List.isEmpty_nil, Bool.false_eq_true, if_true, if_false]
  · simp only [exec, execFlashReadFailed, hsector, hup, decide_true, Bool.and_self, event_true]
  · simp only [exec, execHostReadFailed, hr, hmaster, hd3, hlow, hhigh, decide_true, Bool.not_false, Bool.and_self, event_true]
  · simp only [exec, execHostReadFailed, hmaster, hd3, bne_iff_ne.mpr hpage, hlow, hhigh, decide_true, Bool.not_false, Bool.and_self, event_true]
  · simp only [exec, execHostReadFailed, hcmd, hmaster, hd3, hreads, Bool.not_false, Bool.and_self, event_true]
  · exact if_pos hknown
  · exact if_neg (ne_true_of_eq_false hnew)

end Sys2Proof.Machine
end

section
/-!
PROOFS. What an error record leaves of the error state (chapter 19, "Error records").
-/

namespace Sys2Proof.Machine

section
variable (s : State)

theorem State.signal_errors (v : Nat) : (s.signal v).errors = s.errors := by
  unfold State.signal
  split <;> rfl

theorem State.hostWrite_errors (a : Nat) (b : Bytes) : (s.hostWrite a b).errors = s.errors := rfl

theorem State.writeCells_errors (b : Bytes) (n : Nat) : (s.writeCells b n).errors = s.errors := rfl

theorem State.padCells_errors (n : Nat) : (s.padCells n).errors = s.errors := by
  unfold State.padCells
  extract_lets pos
  split
  · rw [State.writeCells_errors]
  · rfl

theorem State.putMessage_errors (m : OutMsg) : (s.putMessage m).errors = s.errors := by
  unfold State.putMessage
  extract_lets len s1 bytes s2 s3
  calc (s3.signal 0).errors = s3.errors := State.signal_errors s3 0
    _ = s2.errors := State.hostWrite_errors s2 _ _
    _ = s1.errors := State.writeCells_errors s1 bytes _
    _ = s.errors := State.padCells_errors s len

theorem State.drainQueue_errors (n : Nat) : (State.drainQueue n s).errors = s.errors := by
  induction n generalizing s with
  | zero => rfl
  | succ n ih =>
    unfold State.drainQueue
    split
    · rfl
    · split
      · exact (ih _).trans (State.putMessage_errors _ _)
      · rfl

/-- Reporting records marks them in the queue, and nothing else of the error state changes. -/
theorem State.sendReports_errors (l : List ErrRec) :
    (State.sendReports l s).errors = { s.errors with queue := (State.sendReports l s).errors.queue } := by
  induction l generalizing s with
  | nil => rfl
  | cons r l ih =>
    unfold State.sendReports
    split
    · exact ih s
    · split
      · rw [ih]
        simp only [State.putMessage_errors]
      · rfl

theorem State.flushMail_errors : s.flushMail.errors = { s.errors with queue := s.flushMail.errors.queue } := by
  unfold State.flushMail
  split
  · rfl
  · dsimp only
    split
    · rw [State.sendReports_errors, State.drainQueue_errors]
    · rw [State.drainQueue_errors]

end

/-- A record that deepens no unit is queued as it was raised, and enters shelter mode where it is Fatal. -/
theorem State.record_of_unstruck {s : State} {a : RecArgs} (h : s.struck a = []) :
    s.record a = (if a.severity == 3 then
      { s.enqueueRecord (s.mkRecord a a.severity (if a.severity == 3 then 4 else 0) (s.depthOf (a.unitKind, a.unit))) with
        free := s.free + 1 }.shelterFlag a.code
      else { s.enqueueRecord (s.mkRecord a a.severity (if a.severity == 3 then 4 else 0) (s.depthOf (a.unitKind, a.unit))) with
        free := s.free + 1 }).flushMail := by
  simp only [State.record, h, List.any_nil, List.find?_nil, List.foldl_nil, Bool.false_eq_true, if_false, Nat.zero_add]

/-- A record that names no unit deepens none. -/
theorem State.struck_of_no_unit {s : State} {a : RecArgs} (h : a.unitKind = 0) : s.struck a = [] := by
  simp only [State.struck, h, beq_self_eq_true, Bool.true_or, if_true]

/-- A record that deepens no unit and is not Fatal leaves shelter mode as it is. -/
theorem State.record_shelter_of_mild {s : State} {a : RecArgs} (h : s.struck a = []) (hsev : a.severity < 3) :
    (s.record a).regs.shelter = s.regs.shelter := by
  have hfatal : (a.severity == 3) = false := beq_eq_false_iff_ne.mpr (Nat.ne_of_lt hsev)
  rw [State.record_of_unstruck h, hfatal, if_neg Bool.false_ne_true, State.flushMail_shelter, State.enqueueRecord_eq]

/-- With room in the queue, a record that deepens no unit and is not Fatal takes the next number. -/
theorem State.record_seq_of_mild {s : State} {a : RecArgs} (h : s.struck a = []) (hsev : a.severity < 3) (hroom : s.errors.queue.length < 64) :
    (s.record a).errors.seq = s.errors.seq + 1 := by
  have hfatal : (a.severity == 3) = false := beq_eq_false_iff_ne.mpr (Nat.ne_of_lt hsev)
  rw [State.record_of_unstruck h, hfatal, if_neg Bool.false_ne_true, State.flushMail_errors, State.enqueueRecord_of_room hroom]

/-- Raising a record that deepens no unit and is not Fatal is the record alone. -/
theorem State.raise_mild {s : State} {a : RecArgs} (h : s.struck a = []) (hsev : a.severity < 3) : s.raise a = s.record a :=
  State.settled_same (State.record_shelter_of_mild h hsev)

end Sys2Proof.Machine
end

section
/-!
PROOFS. The setup registers, MSI-X and PTM (chapter 13).
-/

namespace Sys2Proof.Machine

section
variable {s : State}

/-- A write of a 32-bit word that no lock protects. -/
theorem State.writeRegister_word {off v : Nat} (halign : off % 4 = 0) (hlocks : s.locksOut off 4 v = false) :
    s.writeRegister off 4 v = s.writeBar0 off (v % 2 ^ 32) := by
  simp only [State.writeRegister, halign, hlocks, bne_self_eq_false, Bool.or_false, Bool.false_eq_true, if_false, Nat.reduceBEq,
    Bool.false_and, Bool.not_true]

/-- A word outside the page registers and the admin ring's sizes is not locked. -/
theorem State.locksOut_word {off v : Nat} (hpage : pageOffsets.contains (off - 4) = false) (hring : (off == 0x048) = false) :
    s.locksOut off 4 v = false := by
  simp only [State.locksOut, hpage, hring, Nat.reduceBEq, Bool.false_and, Bool.and_false, Bool.or_self]

/-- Before the host path runs nothing is locked. -/
theorem State.locksOut_of_stopped (h : s.hostPathRuns = false) (off width v : Nat) : s.locksOut off width v = false := by
  simp only [State.locksOut, h, Bool.false_and]

/-- A write of admin_enable alone (R471). -/
theorem State.writeRegister_control (v : BitVec 32) : s.writeRegister 0x00C 4 v.toNat = s.writeControl v.toNat := by
  rw [State.writeRegister_word rfl (State.locksOut_word rfl rfl), Nat.mod_eq_of_lt v.isLt]
  rfl

/-- A write of the control word that asks for no detach. -/
theorem State.writeControl_attached {v : Nat} (h : v.testBit 2 = false) :
    s.writeControl v = { s with regs.sleepShadow := some (v.testBit 1) }.setAdmin (v.testBit 0) := by
  simp only [State.writeControl, h, Bool.false_eq_true, if_false]

/-- A record of a write that a lock ignored touches neither the registers it would have changed nor the rings (R476). -/
theorem State.raise_locked (off : Nat) :
    let t := (s.errorLog 0 off).raise { code := 0x0001, severity := 0, address := off }
    (∀ k : Nat, t.regs.page k = s.regs.page k) ∧ t.regs.adminRing = s.regs.adminRing ∧ t.rings = s.rings
      ∧ (s.errors.queue.length < 64 → t.errors.seq = s.errors.seq + 1) := by
  intro t
  have hstruck : (s.errorLog 0 off).struck { code := 0x0001, severity := 0, address := off } = [] := State.struck_of_no_unit rfl
  have ht : t = (s.errorLog 0 off).record { code := 0x0001, severity := 0, address := off } := State.raise_mild hstruck (Nat.zero_lt_succ 2)
  refine ⟨fun k => ?_, ?_, ?_, fun hroom => ?_⟩
  · rw [ht, State.record_recordOnly (s.errorLog 0 off)]
    unfold Regs.page
    split <;> rfl
  · rw [ht, State.record_recordOnly (s.errorLog 0 off)]
    rfl
  · rw [ht, State.record_recordOnly (s.errorLog 0 off)]
    rfl
  · rw [ht]
    exact State.record_seq_of_mild hstruck (Nat.zero_lt_succ 2) hroom

/-- The admin pair starts where its pages are set and its sizes are in range (R471). -/
theorem State.startAdmin_effect (hpage : s.regs.doorbell ≠ 0) (hsq : s.regs.adminSq ≠ 0) (hcq : s.regs.adminCq ≠ 0)
    (hsize : s.regs.adminRing.toNat % 16 ≤ 10) (hsize' : s.regs.adminRing.toNat / 256 % 16 ≤ 10) :
    ∃ r, s.startAdmin.regs = { s.regs with adminReady := true } ∧ (s.startAdmin.rings.sqs.filter fun x => x.num == 0) = [r]
      ∧ r.size = 2 ^ (6 + s.regs.adminRing.toNat % 16) ∧ r.base = s.regs.adminSq.toNat ∧ r.head = 0 ∧ r.stopped = false := by
  have hgood : ¬ (s.regs.doorbell == 0 || s.regs.adminSq == 0 || s.regs.adminCq == 0 || decide (s.regs.adminRing.toNat % 16 > 10)
      || decide (s.regs.adminRing.toNat / 256 % 16 > 10)) = true := by
    simp only [Bool.or_eq_true, beq_iff_eq, decide_eq_true_eq, not_or]
    exact ⟨⟨⟨⟨hpage, hsq⟩, hcq⟩, Nat.not_lt.mpr hsize⟩, Nat.not_lt.mpr hsize'⟩
  have hgone (l : List SubRing) : ((l.filter fun x => x.num != 0).filter fun x => x.num == 0) = [] := by
    simp only [List.filter_filter, List.filter_eq_nil_iff]
    intro x _
    cases h : x.num == 0 <;> simp [bne, h]
  unfold State.startAdmin
  extract_lets sq cq q r
  rw [if_neg hgood]
  refine ⟨r, rfl, ?_, rfl, rfl, rfl, rfl⟩
  change ((s.rings.sqs.filter fun x => x.num != 0) ++ [r]).filter (fun x => x.num == 0) = [r]
  rw [List.filter_append, hgone]
  rfl

theorem State.writeBar0_scratch (w : Nat) : s.writeBar0 0x050 w = { s with regs.scratch := BitVec.ofNat 32 w } := rfl

theorem State.writeBar0_nudge (w : Nat) : s.writeBar0 0x018 w = { s with regs.asleep := false } := rfl

theorem State.writeRegister_scratch (v : Nat) : s.writeRegister 0x050 4 v = { s with regs.scratch := BitVec.ofNat 32 (v % 2 ^ 32) } := by
  rw [State.writeRegister_word rfl (State.locksOut_word rfl rfl), State.writeBar0_scratch]

theorem State.writeRegister_nudge (v : Nat) : s.writeRegister 0x018 4 v = { s with regs.asleep := false } := by
  rw [State.writeRegister_word rfl (State.locksOut_word rfl rfl), State.writeBar0_nudge]

theorem Regs.setPage_held (r : Regs) (off : Nat) (v : BitVec 64) : (r.setPage off v).held = r.held := by
  unfold Regs.setPage
  split <;> rfl

/-- A capture publishes group time in sixteenths of a tick, above the free bits below (R481). -/
theorem ptmGroup_div (g f : Nat) : (BitVec.ofNat 64 (16 * g + f % 16)).toNat / 16 = g % 2 ^ 60 := by
  rw [BitVec.toNat_ofNat]
  omega

/-- Switching the admin pair off stops its ring. -/
theorem adminEnable_off (hdecodes : s.decodesBar0 = true) : exec (.adminEnable 0) s = .next { s with
    regs.sleepShadow := some false, regs.adminEnable := false, regs.adminReady := false
    rings.sqs := s.rings.sqs.map fun r => if r.num = 0 then { r with stopped := true } else r } := by
  simp only [exec, execAdminEnable, hdecodes, event_true, State.writeRegister_control]
  rw [State.writeControl_attached rfl]
  change Host.Outcome.next (State.setAdmin _ false) = _
  simp only [State.setAdmin, State.stopAdmin, State.updSq, updWhere, Bool.not_false, if_true, beq_iff_eq]
  rfl

theorem adminEnable_untethered (hdecodes : s.decodesBar0 = true) (hun : s.regs.untethered = true) :
    exec (.adminEnable 1) s = .next { s with regs.sleepShadow := some false, regs.adminEnable := true } := by
  simp only [exec, execAdminEnable, hdecodes, event_true, State.writeRegister_control]
  rw [State.writeControl_attached rfl]
  exact congrArg Host.Outcome.next (if_pos (Bool.or_eq_true_iff.mpr (.inl hun)))

/-- Switching the admin pair on while tethered starts it. -/
theorem adminEnable_on (hdecodes : s.decodesBar0 = true) (hteth : s.regs.untethered = false) (hready : s.regs.adminReady = false)
    (hpage : s.regs.doorbell ≠ 0) (hsq : s.regs.adminSq ≠ 0) (hcq : s.regs.adminCq ≠ 0)
    (hsize : s.regs.adminRing.toNat % 16 ≤ 10) (hsize' : s.regs.adminRing.toNat / 256 % 16 ≤ 10) :
    ∃ t r, exec (.adminEnable 1) s = .next t ∧ t.regs.adminEnable = true ∧ t.regs.adminReady = true
      ∧ (t.rings.sqs.filter fun x => x.num == 0) = [r] ∧ r.size = 2 ^ (6 + s.regs.adminRing.toNat % 16) ∧ r.base = s.regs.adminSq.toNat
      ∧ r.head = 0 ∧ r.stopped = false := by
  obtain ⟨r, hregs, hrings, hr⟩ := State.startAdmin_effect (s := { s with regs.sleepShadow := some false, regs.adminEnable := true })
    hpage hsq hcq hsize hsize'
  refine ⟨_, r, ?_, ?_, ?_, hrings, hr⟩
  · simp only [exec, execAdminEnable, hdecodes, event_true, State.writeRegister_control]
    rw [State.writeControl_attached rfl]
    refine congrArg Host.Outcome.next (if_neg ?_)
    change ¬ (s.regs.untethered || s.regs.adminReady) = true
    rw [hteth, hready]
    exact Bool.false_ne_true
  · rw [hregs]
  · rw [hregs]

end

/-- Settles O42: the writes by whether they are aligned, locked, of a page or of a word; the rest by their guards. -/
theorem registerCommandsAct : Obligations.RegisterCommandsAct := by
  intro s
  refine ⟨fun hdecodes => ⟨fun off width v hbad => ?_, fun off hoff v hstopped => ?_, fun off v t halign hlocks ht => ⟨?_, ?_⟩, fun v => ?_, ?_,
    fun hun => ?_, fun hteth hready hpage hsq hcq hsize hsize' => ?_, fun v => ?_, ?_, fun hteth => ⟨?_, State.untether_cause hteth 2,
    State.untether_sqs hteth 2⟩⟩, fun b hb => ?_, fun n hn => ?_, fun n hn => ?_, fun v hpend hready => ?_,
    fun time hcapture henable hlink hd3 => ?_, fun cq q hq hpos hup => ?_, fun hpme => ?_⟩
  · have hbad' : (!(width == 4 || width == 8) || off % width != 0) = true := by
      simpa using hbad
    simp only [exec, execRegisterWrite, hdecodes, event_true, State.writeRegister, hbad', if_true]
  · have halign : off % 8 = 0 := by
      simp only [pageOffsets, List.mem_cons, List.not_mem_nil, or_false] at hoff
      omega
    have hpage : pageOffsets.contains off = true := List.elem_iff.mpr hoff
    simp only [exec, execRegisterWrite, hdecodes, event_true, State.writeRegister, halign, State.locksOut_of_stopped hstopped, hpage,
      beq_self_eq_true, Bool.or_true, Bool.not_true, bne_self_eq_false, Bool.or_self, Bool.false_eq_true, if_false, Bool.and_self, if_true,
      Regs.setPage_held]
  · simp only [exec, execRegisterWrite, hdecodes, event_true, State.writeRegister, halign, hlocks, beq_self_eq_true, Bool.or_true, Bool.not_true,
      bne_self_eq_false, Bool.or_self, Bool.false_eq_true, if_false, if_true, ht]
  · subst ht
    exact State.raise_locked off
  · simp only [exec, execRegisterWrite, hdecodes, event_true, State.writeRegister_scratch]
  · exact adminEnable_off hdecodes
  · exact adminEnable_untethered hdecodes hun
  · exact adminEnable_on hdecodes hteth hready hpage hsq hcq hsize hsize'
  · simp only [exec, execNudge, hdecodes, event_true, State.writeRegister_nudge]
  · simp only [exec, execDetach, hdecodes, event_true]
  · rw [State.untether_regs hteth]
  · simp only [exec, execStagedFieldBoundary, hb, Option.isSome_some, event_true, Option.getD_some]
  · simp only [exec, execStagedFieldBoundary, hn, Option.isSome_some, event_true, Option.getD_some]
  · simp only [exec, execStagedFieldBoundary, hn, Option.isSome_some, event_true, Option.getD_some]
  · simp only [exec, execMsixPendingSend, hpend, hready, Bool.and_self, event_true]
  · have hstep : exec (.ptmCapture time) s = .next { s with
        regs := { s.regs.applyPeriod with
          ptmSeq := s.regs.ptmSeq + 2, ptmGroup := BitVec.ofNat 64 (16 * s.clock.groupTime + Config.freeNat s.free % 16), ptmHost := time }
        free := s.free + 1 } := by
      simp only [exec, execPtmCapture, hcapture, henable, hlink, hd3, Bool.not_false, Bool.and_self, event_true]
    refine ⟨_, hstep, rfl, rfl, ptmGroup_div _ _, rfl, rfl⟩
  · have hlate : ((s.advance (q.since + 500 * q.time)).updCq cq fun x => { x with unsignalled := 0 }).msixReady q.vector = s.msixReady q.vector := rfl
    have hstep : exec (.completionCoalesceTimeout cq) s
        = .next (((s.advance (q.since + 500 * q.time)).updCq cq fun x => { x with unsignalled := 0 }).signal q.vector) := by
      simp only [exec, execCompletionCoalesceTimeout, hq, gt_iff_lt, hpos, hup, decide_true, Bool.and_self, event_true]
    refine ⟨_, hstep, ?_, fun hready => ?_,
      fun hready hvector => ?_, fun x hx hnum => ?_⟩
    · rw [State.signal_eq]
      exact Nat.le_max_right _ _
    · rw [State.signal, hlate, if_pos hready]
      rfl
    · rw [State.signal, hlate, hready, if_neg Bool.false_ne_true]
      change (s.msix.pend.set q.vector true).getD q.vector false = true
      rw [List.getD_eq_getElem?_getD, List.getElem?_set_self hvector, Option.getD_some]
    · rw [State.signal_eq] at hx
      obtain ⟨y, hy, hxy⟩ := List.mem_map.mp hx
      split at hxy
      · rw [← hxy]
      · next hother =>
        rw [← hxy] at hnum
        exact absurd (beq_iff_eq.mpr hnum) hother
  · simp only [exec, execPmeStatusClear, hpme, event_true]

end Sys2Proof.Machine
end

section
/-!
PROOFS. The doorbell watcher and SMBus writes (chapters 14 and 20).
-/

namespace Sys2Proof.Machine

/-- A ring's tail after its word is taken. -/
def SubRing.tailTaken (word : Nat → Nat) (r : SubRing) : SubRing := { r with tail := word (4 * r.num), badWord := false }

/-- Tail words in range are taken into the rings that take them, each ring by its number. -/
theorem State.foldl_watchTail {h : HostImage} (l : List SubRing) (s : State) (hrange : ∀ r ∈ l, s.doorbellWord h (4 * r.num) < r.size) :
    l.foldl (State.watchTail h) s = { s with
      rings.sqs := s.rings.sqs.map fun r => if l.any fun x => x.num == r.num && !x.stopped then r.tailTaken (s.doorbellWord h) else r } := by
  induction l generalizing s with
  | nil => simp only [List.foldl_nil, List.any_nil, Bool.false_eq_true, if_false, List.map_id']
  | cons x l ih =>
    have hx : ¬ s.doorbellWord h (4 * x.num) ≥ x.size := Nat.not_le.mpr (hrange x List.mem_cons_self)
    have hrest : ∀ r ∈ l, s.doorbellWord h (4 * r.num) < r.size := fun r hr => hrange r (List.mem_cons_of_mem x hr)
    rw [List.foldl_cons]
    cases hstopped : x.stopped with
    | true =>
      have hstep : State.watchTail h s x = s := by simp only [State.watchTail, hstopped, if_true]
      rw [hstep, ih s hrest]
      simp only [List.any_cons, hstopped, Bool.not_true, Bool.and_false, Bool.false_or]
    | false =>
      have hstep : State.watchTail h s x = s.updSq x.num fun r => { r with tail := s.doorbellWord h (4 * x.num), badWord := false } := by
        simp only [State.watchTail, hstopped, Bool.false_eq_true, if_false, if_neg hx]
      rw [hstep, ih (s.updSq x.num fun r => { r with tail := s.doorbellWord h (4 * x.num), badWord := false }) hrest]
      simp only [State.updSq, updWhere, List.map_map, List.any_cons, hstopped, Bool.not_false, Bool.and_true]
      congr 2
      refine List.map_congr_left fun r _ => ?_
      simp only [Function.comp_apply]
      by_cases hr : (r.num == x.num) = true
      · have hnum : x.num = r.num := (eq_of_beq hr).symm
        rw [hnum, beq_self_eq_true, if_pos rfl, Bool.true_or, if_pos rfl]
        split <;> rfl
      · have hnum : (x.num == r.num) = false := beq_eq_false_iff_ne.mpr fun hn => hr (beq_iff_eq.mpr hn.symm)
        simp only [hr, hnum, Bool.false_eq_true, if_false, Bool.false_or]
        rfl

/-- Mailbox words that are in range are taken. -/
theorem State.watchMail_good {s : State} {h : HostImage} (htail : s.doorbellWord h 0x800 = s.mail.toTail)
    (hhead : s.doorbellWord h 0x804 = s.mail.fromHead) (htail' : s.mail.toTail < 4032) (hhead' : s.mail.fromHead < 4032)
    (hcells : cellsUsed s.mail.toTail s.mail.toHead ≤ 63) : ∃ t : State, s.watchMail h = t.flushMail ∧ t = { s with mail := t.mail } := by
  have hgood : ¬ (decide (s.mail.toTail ≥ 4032) || decide (s.mail.fromHead ≥ 4032) || decide (cellsUsed s.mail.toTail s.mail.toHead > 63)
      || decide (cellsUsed s.mail.fromHead s.mail.fromHead > cellsUsed s.mail.fromTail s.mail.fromHead)) = true := by
    have hnone : cellsUsed s.mail.fromHead s.mail.fromHead = 0 := by
      rw [cellsUsed, Nat.add_sub_cancel_left]
    rw [hnone]
    simp only [Bool.or_eq_true, decide_eq_true_eq]
    omega
  refine ⟨{ s with mail.toTail := s.mail.toTail, mail.fromHead := s.mail.fromHead, mail.badWord := false }, ?_, rfl⟩
  unfold State.watchMail
  rw [htail, hhead]
  exact if_neg hgood

/-- A new arbitration cycle leaves the rings, and everything else. -/
theorem State.restArbiter_keeps (s : State) : s.restArbiter = { s with rings := s.restArbiter.rings }
    ∧ s.restArbiter.rings.sqs = s.rings.sqs ∧ s.restArbiter.rings.cqs = s.rings.cqs := by
  unfold State.restArbiter
  split <;> exact ⟨rfl, rfl, rfl⟩

/-- What a tethered watcher's words leave where all of them are in range and no completion ring is there. -/
theorem State.readWords_tethered {s : State} {h : HostImage} (hteth : s.regs.untethered = false)
    (hrange : ∀ r ∈ s.rings.sqs, s.doorbellWord h (4 * r.num) < r.size) (hcqs : s.rings.cqs = [])
    (htail : s.doorbellWord h 0x800 = s.mail.toTail) (hhead : s.doorbellWord h 0x804 = s.mail.fromHead) (htail' : s.mail.toTail < 4032)
    (hhead' : s.mail.fromHead < 4032) (hcells : cellsUsed s.mail.toTail s.mail.toHead ≤ 63) :
    (s.readWords h).regs.shelter = s.regs.shelter ∧ (s.readWords h).rings.sqs.map (·.tail)
      = s.rings.sqs.map fun r => if (s.rings.sqs.any fun x => x.num == r.num && !x.stopped) = true then s.doorbellWord h (4 * r.num) else r.tail := by
  obtain ⟨hrest, hsqs, hcqs'⟩ := (s.readOk s.regs.doorbell.toNat 4096).restArbiter_keeps
  have hread : s.readWords h = (((s.readOk s.regs.doorbell.toNat 4096).restArbiter.rings.sqs.foldl (State.watchTail h)
      (s.readOk s.regs.doorbell.toNat 4096).restArbiter)).watchMail h := by
    have hnone : (s.readOk s.regs.doorbell.toNat 4096).restArbiter.rings.cqs = [] := hcqs'.trans hcqs
    simp only [State.readWords, hteth, hnone, List.foldl_nil, Bool.false_eq_true, if_false]
  have hword (off : Nat) : (s.readOk s.regs.doorbell.toNat 4096).restArbiter.doorbellWord h off = s.doorbellWord h off := by
    rw [hrest]
    rfl
  have hmail : (s.readOk s.regs.doorbell.toNat 4096).restArbiter.mail = (s.readOk s.regs.doorbell.toNat 4096).mail := by
    rw [hrest]
  have hregs : (s.readOk s.regs.doorbell.toNat 4096).restArbiter.regs = s.regs := by
    rw [hrest]
    rfl
  generalize (s.readOk s.regs.doorbell.toNat 4096).restArbiter = s1 at *
  have hsqs' : s1.rings.sqs = s.rings.sqs := hsqs
  rw [State.foldl_watchTail _ _ (by simpa only [hsqs', hword] using hrange)] at hread
  obtain ⟨t, hflush, ht⟩ := State.watchMail_good (s := { s1 with
    rings.sqs := s1.rings.sqs.map fun r => if s1.rings.sqs.any fun x => x.num == r.num && !x.stopped then r.tailTaken (s1.doorbellWord h) else r })
    (h := h) ((hword _).trans (htail.trans (congrArg (·.toTail) hmail).symm)) ((hword _).trans (hhead.trans (congrArg (·.fromHead) hmail).symm))
    (by rw [hmail]; exact htail') (by rw [hmail]; exact hhead') (by rw [hmail]; exact hcells)
  rw [hread, hflush]
  refine ⟨?_, ?_⟩
  · rw [State.flushMail_shelter, ht]
    exact congrArg (·.shelter) hregs
  · rw [State.flushMail_mailOnly t, ht]
    simp only [List.map_map, hsqs']
    refine List.map_congr_left fun r _ => ?_
    simp only [Function.comp_apply]
    split
    · exact hword _
    · rfl

/-- An untethered watcher sees a change where the mailbox's tail word differs. -/
theorem State.watchUntethered_same (s : State) (h : HostImage) (a n : Nat) :
    (((s.readOk a n).watchUntethered h).watched == s.watched) = (s.doorbellWord h 0x800 == s.mail.toTail) := by
  rw [Bool.eq_iff_iff, beq_iff_eq, beq_iff_eq]
  simp only [State.watched, State.watchUntethered, State.readOk, Prod.mk.injEq, and_true, true_and]
  rfl

/-- Settles O43: an untethered watcher reads one word, and a tethered one takes each tail word in its turn. -/
theorem watcherAndSmbusAct : Obligations.WatcherAndSmbusAct := by
  intro s host
  refine ⟨fun hmay hawake hun => ?_, fun hmay hawake hteth hrange hcqs htail hhead htail' hhead' hcells => ?_,
    fun hmay hawake hun hsleep hcmds hawaiting hidle => ?_, fun v hv33 => ⟨?_, ?_, fun code hcode => ⟨?_, ?_⟩⟩⟩
  · have hread : s.readWords host = (s.readOk s.regs.doorbell.toNat 4096).watchUntethered host := if_pos hun
    simp only [exec, execDoorbellWatch, hmay, hawake, hread, State.watchUntethered_same, beq_iff_eq, Bool.not_false, Bool.and_self, event_true]
    exact congrArg Host.Outcome.next (State.settled_same rfl)
  · obtain ⟨hrings, htails⟩ := State.readWords_tethered hteth hrange hcqs htail hhead htail' hhead' hcells
    have hstep : exec (.doorbellWatch host) s = .next { s.readWords host with
        rings.idle := if (s.readWords host).watched == s.watched then min 1000 (s.rings.idle + 1) else 0
        regs := (s.readWords host).regs.applyWatch } := by
      simp only [exec, execDoorbellWatch, hmay, hawake, Bool.not_false, Bool.and_self, event_true]
      exact congrArg Host.Outcome.next (State.settled_same hrings)
    exact ⟨_, hstep, htails⟩
  · have hread : s.readWords host = (s.readOk s.regs.doorbell.toNat 4096).watchUntethered host := if_pos hun
    have hidle' : decide (s.rings.idle ≥ 1000) = true := decide_eq_true hidle
    simp only [exec, execWatcherSleep, hmay, hawake, hread, hsleep, hcmds, hawaiting, hidle', List.isEmpty_nil, Bool.not_false,
      Bool.and_self, event_true, State.watchUntethered_same]
    exact ⟨_, congrArg Host.Outcome.next (State.settled_same rfl), beq_iff_eq⟩
  · simp only [exec, execSmbCapWrite, hv33, event_true, Bool.not_true, Bool.false_eq_true, if_false, Bool.and_eq_true, decide_eq_true_eq, beq_iff_eq,
      and_assoc]
  · simp only [exec, execSmbCapWrite, hv33, event_true, Bool.not_false, if_true]
  · simp only [exec, execSmbusWriteWord, hv33, bne_iff_ne.mpr hcode, Bool.and_self, event_true, Bool.true_and, Bool.and_eq_true, beq_iff_eq]
  · simp only [exec, execSmbusWriteWord, hv33, bne_iff_ne.mpr hcode, Bool.and_self, event_true, Bool.false_and, Bool.false_eq_true, if_false]

end Sys2Proof.Machine
end

section
/-!
PROOFS. Resets and power states of the host port (chapter 13).
-/

namespace Sys2Proof.Machine

/-! ### What an untether leaves past the host port -/

section
variable (s : State)

/-- Parts of the state that no end of a command touches. -/
def State.apart (s : State) : Power × Errors × Pcie := (s.power, s.errors, s.pcie)

theorem State.endAll_apart (p : Cmd → Bool) (r : Result) : (s.endAll p r).apart = s.apart := by
  refine foldl_keeps State.apart (fun s c => ?_) _ _
  rw [State.complete_endOnly (s.dropWork c) c.cid r]
  obtain ⟨t, rfl | rfl, ht⟩ := s.dropWork_workOnly c
  · rw [ht]
    rfl
  · rw [ht]
    rfl

/-- The bytes of HBM and of the host area, which only a run of a command can write as the command ends, and the runs. -/
def State.stored (s : State) : List Run × List Host.Cell × List Host.Cell := (s.comp.runs, s.mem.hbm, s.store.host)

variable {s}

theorem State.dropWork_stored (h : s.comp.runs = []) (c : Cmd) : (s.dropWork c).stored = s.stored := by
  have hruns (cid : Nat) (u : State) (hu : u.comp.runs = []) : u.dropRuns cid = u := by
    rw [State.dropRuns, hu]
    rfl
  unfold State.dropWork
  split
  · rw [hruns _ (s.dropPasses c.cid) h]
    rfl
  · rw [hruns _ (s.dropUncommitted c.cid) h]
    rfl
  · rw [hruns _ s h]
  · rfl

theorem State.endAll_stored (h : s.comp.runs = []) (p : Cmd → Bool) (r : Result) : (s.endAll p r).stored = s.stored := by
  unfold State.endAll
  generalize (s.rings.cmds.filter fun c => !c.finished && p c) = l
  induction l generalizing s with
  | nil => rfl
  | cons c l ih =>
    have hstep : ((s.dropWork c).complete c.cid r).stored = s.stored := by
      rw [State.complete_endOnly (s.dropWork c) c.cid r]
      exact State.dropWork_stored h c
    exact (ih ((congrArg Prod.fst hstep).trans h)).trans hstep

variable (s)

theorem State.untether_apart (cause : Nat) :
    (s.untether cause).apart = ({ s.power with capMsgs := (s.untether cause).power.capMsgs }, s.errors, s.pcie) := by
  have hpower (t : State) (p : Power) (h : t.apart = (p, s.errors, s.pcie)) (hp : p = { s.power with capMsgs := p.capMsgs }) :
      t.apart = ({ s.power with capMsgs := t.power.capMsgs }, s.errors, s.pcie) := by
    rw [h, hp, show t.power = p from congrArg Prod.fst h]
  unfold State.untether
  split
  · rfl
  · exact hpower _ _ (State.endAll_apart _ _ _) rfl

variable {s}

theorem State.untether_stored (h : s.comp.runs = []) (cause : Nat) : (s.untether cause).stored = s.stored := by
  unfold State.untether
  split
  · rfl
  · exact (State.endAll_stored (by exact h) _ _).trans rfl

variable (s)

/-- Whether or not it was tethered before, the device is untethered, and the registers are as they were. -/
theorem State.untether_regs_any (cause : Nat) :
    (s.untether cause).regs = { s.regs with untethered := true, adminReady := (s.untether cause).regs.adminReady } := by
  cases h : s.regs.untethered with
  | false => rw [State.untether_regs h]
  | true =>
    have hsame : s.untether cause = s := if_pos h
    rw [hsame]
    exact congrArg (fun b => { s.regs with untethered := b }) h

theorem State.untether_clock_any (cause : Nat) : (s.untether cause).clock = s.clock := by
  cases h : s.regs.untethered with
  | false => exact State.untether_clock h cause
  | true => exact congrArg State.clock (if_pos h)

end

/-- What an FLR leaves (R480). -/
theorem State.flrWith_effect (s : State) (cause resetCause : Nat) :
    (s.flrWith cause resetCause).regs = { Regs.initial with
      step := s.regs.step, ready := s.regs.ready, untethered := true, shelter := s.regs.shelter
      adminReady := (s.flrWith cause resetCause).regs.adminReady, asleep := s.regs.asleep, fwVersion := s.regs.fwVersion
      cause := BitVec.ofNat 8 resetCause }
      ∧ (s.flrWith cause resetCause).power = { s.power with capMsgs := (s.flrWith cause resetCause).power.capMsgs }
      ∧ (s.flrWith cause resetCause).clock = s.clock
      ∧ (s.flrWith cause resetCause).errors = s.errors ∧ (s.flrWith cause resetCause).pcie.linkUp = s.pcie.linkUp
      ∧ (s.comp.runs = [] → (s.flrWith cause resetCause).stored = s.stored) := by
  refine ⟨?_, congrArg (·.1) (s.untether_apart cause), s.untether_clock_any cause, congrArg (·.2.1) (s.untether_apart cause),
    congrArg (·.2.2.linkUp) (s.untether_apart cause), fun hruns => State.untether_stored hruns cause⟩
  unfold State.flrWith
  dsimp only
  rw [s.untether_regs_any cause]

/-- Settles O44: each reset of the host port is an untether with the registers and configuration space at reset. -/
theorem hostPortCommandsAct : Obligations.HostPortCommandsAct := by
  intro s
  refine ⟨fun hlink hidle => ?_, fun hlink => ?_, fun hbusy => ?_, fun hlink hd0 => ?_, fun hd3 => ?_, fun hmaster => ?_,
    fun rate width cfg hv12 hv33 hperst hhold hlow hhigh hwidth hmaster hflr => ?_⟩
  · obtain ⟨hregs, hpower, hclock, herrors, hup, hstored⟩ := s.flrWith_effect 3 3
    refine ⟨s.flrWith 3 3, by simp only [exec, execFlr, hlink, hidle, Bool.not_false, Bool.and_self, event_true], ?_⟩
    rw [hregs, hup, herrors]
    exact ⟨rfl, rfl, rfl, rfl, rfl, rfl, rfl, rfl, rfl, hlink, rfl, hpower, hclock,
      fun hruns => ⟨congrArg (·.2.2) (hstored hruns), rfl, congrArg (·.2.1) (hstored hruns)⟩⟩
  · obtain ⟨hregs, hpower, hclock, herrors, hup, hstored⟩ := s.flrWith_effect 4 4
    refine ⟨{ s.flrWith 4 4 with pcie.linkUp := false }, by simp only [exec, execHotReset, hlink, event_true], ?_⟩
    change (s.flrWith 4 4).regs.untethered = true ∧ (s.flrWith 4 4).regs.doorbell = 0 ∧ (s.flrWith 4 4).regs.cause = 4 ∧ _
    rw [hregs]
    exact ⟨rfl, rfl, rfl, rfl, rfl, hpower, fun hruns => congrArg (·.2.2) (hstored hruns)⟩
  · simp only [exec, execFlrCompletion, hbusy, event_true]
  · refine ⟨{ s.untether 5 with pcie.d3hot := true }, by simp only [exec, execD3hotEntry, hlink, hd0, Bool.not_false, Bool.and_self, event_true],
      rfl, ?_, ?_⟩
    · rw [State.untether_regs_any]
    · rw [State.untether_regs_any]
  · simp only [exec, execD0Return, hd3, event_true]
  · exact ⟨{ s.untether 6 with pcie.busMaster := false }, by simp only [exec, execBusMasterEnableClear, hmaster, event_true], rfl,
      by rw [State.untether_regs_any]⟩
  · have hwidth' : [1, 2, 4, 8].contains width = true := List.elem_iff.mpr (by simpa using hwidth)
    have hpower : (s.power.v12 && s.power.v33 && !s.power.perst && !s.power.hold && decide (rate ≥ 1) && decide (rate ≤ 5)
        && [1, 2, 4, 8].contains width) = true := by
      simp only [hv12, hv33, hperst, hhold, hwidth', ge_iff_le, hlow, hhigh, decide_true, Bool.not_false, Bool.and_self]
    simp only [exec, execLinkUp, hpower, event_true, hmaster, hflr, Bool.false_and, Bool.false_eq_true, if_false]
    rfl

end Sys2Proof.Machine
end

section
/-!
PROOFS. Resets of the run and start-up (chapter 18).
-/

namespace Sys2Proof.Machine

/-! ### What the end of a run cuts short -/

section
variable (s : State)

theorem State.flashDrop_workOnly (area first n : Nat) : s.workOnly (s.flashDrop area first n) := rfl

theorem State.writeBytes_workOnly (tier : Nat) (l : List (Nat × Byte)) : s.workOnly (s.writeBytes tier l) := by
  unfold State.writeBytes
  exact (State.foldl_workOnly (fun _ _ => State.tierWrite_workOnly _ _ _ _) _ _).trans (State.coverAll_workOnly _ _ _)

theorem State.storeApply_workOnly (w : StoreWork) (n : Nat) (reach : Bool) : s.workOnly (s.storeApply w n reach) := by
  unfold State.storeApply
  split
  · refine State.workOnly.trans ?_ (State.flashProgram_workOnly _ _ _ _)
    rfl
  · refine State.workOnly.trans ?_ (State.flashDrop_workOnly _ _ _ _)
    rfl
  · dsimp only
    split
    · refine (State.flashRead_workOnly s 0 w.first n).trans ?_
      rfl
    · exact State.flashRead_workOnly s 0 w.first n

theorem State.cutTransfer_workOnly (r : Run) (t : Transfer) : s.workOnly (s.cutTransfer r t) := by
  unfold State.cutTransfer
  split
  · split
    · rfl
    · rfl
  · rfl

theorem State.cutRuns_workOnly : s.workOnly s.cutRuns := by
  unfold State.cutRuns
  exact State.foldl_workOnly (fun _ r => State.foldl_workOnly (fun s t => State.cutTransfer_workOnly s r t) _ _) _ _

theorem State.cutStore_workOnly (c : Cmd) (w : StoreWork) : s.workOnly (s.cutStore c w).1 := by
  unfold State.cutStore
  split
  · rfl
  · split
    · rfl
    · split
      · rfl
      · exact State.workOnly.trans (State.draw_workOnly s 1) (State.foldl_workOnly (fun s i => State.tierWrite_workOnly s 3 _ _) _ _)
      · exact (State.draw_workOnly s 1).trans (State.storeApply_workOnly _ _ _ _)

theorem State.cutMove_workOnly (m : MoveWork) : s.workOnly (s.cutMove m) := by
  unfold State.cutMove
  split
  · exact (State.draw_workOnly s 2).trans (State.writeBytes_workOnly _ _ _)
  · rfl

theorem State.cutCommands_workOnly (l : List Cmd) : s.workOnly (s.cutCommands l).1 := by
  induction l generalizing s with
  | nil => rfl
  | cons c l ih =>
    unfold State.cutCommands
    refine State.workOnly.trans ?_ (ih _)
    split
    · rfl
    · exact State.cutStore_workOnly _ _ _
    · split
      · rfl
      · exact State.cutMove_workOnly _ _
    · rfl

/-- The end of a run keeps what durable keeps of a state whose work alone was cut. -/
theorem State.endRun_durable (cause : Nat) : ∃ t : State, s.endRun cause = t.durable ∧ t.colls = s.colls ∧ t.errors = s.errors := by
  unfold State.endRun
  have hcut := (State.cutRuns_workOnly s.finishFlash).trans (State.cutCommands_workOnly _ s.rings.cmds)
  refine ⟨_, rfl, ?_⟩
  split <;> (rw [hcut]; exact ⟨rfl, rfl⟩)

end

theorem State.durable_cids (s : State) : s.durable.colls.map (·.cid) = s.colls.map (·.cid) := by
  simp only [State.durable, List.map_map]
  rfl

/-- The end of a run keeps the collections' identities. -/
theorem State.endRun_cids (s : State) (cause : Nat) : (s.endRun cause).colls.map (·.cid) = s.colls.map (·.cid) := by
  obtain ⟨t, ht, hcolls, -⟩ := s.endRun_durable cause
  rw [ht, State.durable_cids, hcolls]

/-! ### Shelter mode entered by a step that fails -/

/-- Whether the block is READY, and what it is in shelter mode for. -/
def State.alarm (s : State) : Bool × Nat := (s.regs.ready, s.errors.shelterCause)

section
variable (s : State)

theorem State.flushMail_alarm : s.flushMail.alarm = s.alarm := by
  unfold State.alarm
  rw [State.flushMail_errors, State.flushMail_mailOnly s]

theorem State.refuseLater_alarm (type : Nat) (seq : Option Nat) (code off reason : Nat) :
    (s.refuseLater type seq code off reason).alarm = s.alarm := by
  unfold State.refuseLater
  split
  · rfl
  · split
    · unfold State.refuse State.send
      split
      · rfl
      · exact State.flushMail_alarm _
    · rfl

theorem State.workOnly.alarm {s t : State} (h : s.workOnly t) : t.alarm = s.alarm := by
  rw [h]
  rfl

theorem State.closeLoans_alarm (p : Loan → Bool) : (s.closeLoans p).alarm = s.alarm := by
  unfold State.closeLoans
  exact (foldl_keeps State.alarm (fun _ _ => State.refuseLater_alarm _ _ _ _ _ _) _ _).trans
    ((State.freeRegions_workOnly _).alarm.trans (State.zeroRegions_workOnly _ _).alarm)

theorem State.leaveGroup_alarm : s.leaveGroup.alarm = s.alarm := by
  unfold State.leaveGroup
  split
  · rfl
  · exact (State.closeLoans_alarm _ _).trans (State.refuseLater_alarm _ _ _ _ _ _)

theorem State.endAll_alarm (p : Cmd → Bool) (r : Result) : (s.endAll p r).alarm = s.alarm := by
  refine foldl_keeps State.alarm (fun s c => ?_) _ _
  rw [State.complete_endOnly (s.dropWork c) c.cid r]
  obtain ⟨t, rfl | rfl, ht⟩ := s.dropWork_workOnly c
  · exact ht.alarm
  · exact ht.alarm

theorem State.shelterEntry_alarm : s.shelterEntry.alarm = s.alarm := by
  unfold State.shelterEntry
  exact (State.leaveGroup_alarm _).trans (State.endAll_alarm _ _ _)

end

/-- A Fatal record that deepens no unit enters shelter mode under its code. -/
theorem State.raise_fatal {s : State} {a : RecArgs} (hstruck : s.struck a = []) (hsev : a.severity = 3) (hshelter : s.regs.shelter = false) :
    (s.raise a).regs.shelter = true ∧ (s.raise a).alarm = (s.regs.ready, a.code) := by
  have hfatal : (a.severity == 3) = true := beq_iff_eq.mpr hsev
  have hrecord : (s.record a).regs.shelter = true ∧ (s.record a).alarm = (s.regs.ready, a.code) := by
    rw [State.record_of_unstruck hstruck, if_pos hfatal, State.flushMail_shelter, State.flushMail_alarm, State.enqueueRecord_eq]
    simp only [State.shelterFlag, hshelter, Bool.false_eq_true, if_false]
    split <;> exact ⟨rfl, rfl⟩
  have hentry : s.raise a = (s.record a).shelterEntry := by
    rw [State.raise, State.settled, hrecord.1, hshelter]
    rfl
  rw [hentry, State.shelterEntry_shelter, State.shelterEntry_alarm]
  exact hrecord

/-- A block that starts is neither READY nor in shelter mode, and has a step to end. -/
theorem State.starting_quiet {s : State} (h : s.starting = true) : s.regs.ready = false ∧ s.regs.shelter = false ∧ s.regs.step ≤ 6 := by
  simp only [State.starting, Bool.and_eq_true, Bool.not_eq_true', decide_eq_true_eq] at h
  exact ⟨h.1.1.2, h.1.2, h.2⟩

/-- What READY begins with (R650). -/
theorem State.becomeReady_effect (s : State) : s.becomeReady.regs.ready = true ∧ s.becomeReady.active = Timetable.builtin
    ∧ s.becomeReady.clock.round = 0 := by
  unfold State.becomeReady
  dsimp only
  split <;> exact ⟨rfl, rfl, rfl⟩

/-- Settles O45: what ends a run leaves what durable keeps, and start-up's steps branch on the report. -/
theorem resetsAndStartupAct : Obligations.ResetsAndStartupAct := by
  intro s
  refine ⟨fun hperst hv12 hv33 => ?_, fun hperst => ?_, fun hv12 => ⟨?_, fun die hdie => ?_⟩, fun hv12 => ?_,
    fun hstarting => ⟨fun r hstep => ?_, fun r hstep hpassed => ?_, fun r hstep hpassed hrecords => ?_, fun r hstep hpassed hcores => ?_,
      fun r hstep hpassed => ?_, fun r hstep hpassed hsan hjournal => ?_, fun r hstep hpassed => ?_, ?_, fun hroom hdepths => ?_, ?_⟩, fun hhold => ?_⟩
  · have hstep : exec .perstAssert s = .next { ((s.endRun 1).clearErrors.resetCause 2).countBoot with
        power := { ((s.endRun 1).clearErrors.resetCause 2).countBoot.power with perst := true, hold := false } } := by
      simp only [exec, execPerstAssert, hperst, hv12, hv33, Bool.not_false, Bool.and_self, event_true, if_true]
    exact ⟨_, hstep, rfl, rfl, rfl, rfl, rfl, rfl, rfl, rfl, rfl, s.endRun_cids 1, rfl, rfl, rfl⟩
  · simp only [exec, execPerstDeassert, hperst, event_true]
  · have hstep : exec .powerLoss s = .next (s.losePower 0) := by
      simp only [exec, execPowerLoss, hv12, event_true]
    exact ⟨_, hstep, rfl, rfl, rfl, rfl, rfl, rfl, s.endRun_cids 0⟩
  · have hstep : exec (.thermalCutOff die) s = .next { s.losePower 3 with power.cutOff := true } := by
      simp only [exec, execThermalCutOff, hv12, hdie, decide_true, Bool.and_self, event_true]
    exact ⟨_, hstep, rfl, rfl, rfl, rfl⟩
  · have hstep : exec .powerGood s = .next { s.countBoot with
        power := { Power.initial with
          v12 := true, v33 := true, perst := s.power.perst, pwrbrk := s.power.pwrbrk, capDefault := s.power.capDefault }
        regs := { Regs.initial with cause := 1 } } := by
      simp only [exec, execPowerGood, hv12, Bool.not_false, Bool.true_or, event_true]
    exact ⟨_, hstep, rfl, rfl, rfl, rfl, rfl, rfl, rfl⟩
  · simp only [exec, execStartupStepEnd, hstarting, event_true, hstep]
  · simp only [exec, execStartupStepEnd, hstarting, event_true, hstep, hpassed, if_true]
  · simp only [exec, execStartupStepEnd, hstarting, event_true, hstep, hpassed, hrecords, Bool.false_eq_true, if_false, if_true]
  · simp only [exec, execStartupStepEnd, hstarting, event_true, hstep, hpassed, hcores, decide_true, Bool.and_self, if_true]
  · simp only [exec, execStartupStepEnd, hstarting, event_true, hstep, hpassed, if_true]
  · have hstep : exec (.startupStepEnd r) s = .next (s.badParts r.badParts).replay.becomeReady := by
      simp only [exec, execStartupStepEnd, hstarting, event_true, hstep, hpassed, hsan, hjournal, Option.isSome_none, Bool.not_true,
        Bool.false_eq_true, if_false]
    obtain ⟨hready, hactive, hround⟩ := (s.badParts r.badParts).replay.becomeReady_effect
    exact ⟨_, hstep, rfl, hready, hactive, hround⟩
  · obtain hstep | hstep | hstep : s.regs.step = 4 ∨ s.regs.step = 5 ∨ s.regs.step = 6 := by
      have hlast := (State.starting_quiet hstarting).2.2
      omega
    all_goals simp only [exec, execStartupStepEnd, hstarting, event_true, hstep, hpassed, Bool.false_and, Bool.not_false, Bool.false_eq_true,
      if_false, if_true]
  · simp only [exec, execStartupStepTimeout, hstarting, event_true]
  · obtain ⟨hready, hshelter, -⟩ := State.starting_quiet hstarting
    obtain ⟨hentered, halarm⟩ := State.raise_fatal (s := s) (a := { code := 0x0043, severity := 3, address := s.regs.step })
      (State.struck_of_no_unit rfl) rfl hshelter
    exact ⟨hentered, congrArg Prod.snd halarm, (congrArg Prod.fst halarm).trans hready⟩
  · have hstep : exec .startupHold s = .next { (s.endRun 0).resetCause 6 with power := { ((s.endRun 0).resetCause 6).power with hold := true } } := by
      simp only [exec, execStartupHold, hstarting, event_true]
    exact ⟨_, hstep, rfl, rfl, rfl⟩
  · simp only [exec, execHoldInputRecovered, hhold, event_true]

end Sys2Proof.Machine
end

section
/-!
PROOFS. Power events (chapter 18).
-/

namespace Sys2Proof.Machine

/-! ### The stage in force -/

/-- The inputs of the stage in force. -/
def State.staging (s : State) : Nat × Nat × Bool × List (Nat × Nat) :=
  (s.power.voltage, s.power.capStage, s.power.pwrbrk, s.power.thermalStages)

section
variable (s : State)

theorem State.shed_of_staging {s t : State} (h : t.staging = s.staging) : t.shed = s.shed := by
  simp only [State.staging, Prod.mk.injEq] at h
  obtain ⟨hvoltage, hcap, hbrk, hthermal⟩ := h
  simp only [State.shed, State.pwrbrkStage, State.thermalStage, hvoltage, hcap, hbrk, hthermal]

theorem State.addStage1_power : s.addStage1.power = s.power := by
  unfold State.addStage1
  exact foldl_keeps (fun s : State => s.power) (fun s r => by
    rw [(State.finishMoves_workOnly s r []).trans (State.removeRun_workOnly _ r.rid)]) _ _

theorem State.endAll_power (p : Cmd → Bool) (r : Result) : (s.endAll p r).power = s.power := congrArg Prod.fst (s.endAll_apart p r)

theorem State.announce_power (type : Nat) (body : Bytes) : (s.announce type body).power = s.power := by
  unfold State.announce
  split <;> rfl

theorem State.complete_power (cid : Nat) (r : Result) : (s.complete cid r).power = s.power := by
  rw [State.complete_endOnly s cid r]

theorem State.commitMutation_power (c : Cmd) (m : Mutation) (k : Collection) : (s.commitMutation c m k).power = s.power := by
  have hlaid (t : State) : t.layout.power = t.power := by
    rw [(State.layout_layoutOnly t).1]
  unfold State.commitMutation
  split
  rename_i k1 counts hwrites
  extract_lets seq s1 s2 _ s3
  have hs3 : s3.power = s.power := by
    unfold s3
    split <;> exact hlaid (s.updColl k.cid fun _ => k1)
  split
  · exact (State.announce_power s3 _ _).trans hs3
  · exact (State.complete_power _ _ _).trans hs3

theorem State.tryCommit_power (cid : Nat) : (s.tryCommit cid).power = s.power := by
  unfold State.tryCommit
  split
  · rfl
  · split
    · split
      · split
        · exact State.complete_power _ _ _
        · exact State.commitMutation_power _ _ _ _
      · rfl
    · rfl

theorem State.flushJournal_power : s.flushJournal.power = s.power := by
  unfold State.flushJournal
  split
  · rfl
  · refine foldl_keeps (fun s : State => s.power) (fun s c => ?_) _ _
    split
    · split
      · rfl
      · exact State.tryCommit_power _ _
    · rfl

theorem State.addStage5_power : s.addStage5.power = s.power := (State.endAll_power _ _ _).trans s.flushJournal_power

/-- The effects of the stages up to the one in force leave the ledger but for the highest stage applied. -/
theorem State.addStages_staging : s.addStages.staging = s.staging := by
  have hstep {t u : State} (c : Bool) (h : u.power = t.power) : (if c then u else t).power = t.power := by
    split
    · exact h
    · rfl
  unfold State.addStages
  extract_lets from_ top s1 s2 s3 s4
  have hpower : s4.power = s.power :=
    ((hstep _ (State.addStage5_power s3)).trans (hstep _ (State.endAll_power _ _ _))).trans
      ((hstep _ (State.endAll_power _ _ _)).trans (hstep _ (State.addStage1_power s)))
  have hstaging : s4.staging = s.staging := congrArg (fun p : Power => (p.voltage, p.capStage, p.pwrbrk, p.thermalStages)) hpower
  exact hstaging

/-- A stage that follows its inputs leaves them. -/
theorem State.restage_staging (old : Nat) : (s.restage old).staging = s.staging := by
  unfold State.restage
  extract_lets new s1 _ s2
  have hs2 : s2.staging = s.staging := by
    refine Eq.trans ?_ s.addStages_staging
    unfold s2
    split <;> rfl
  split
  · exact (congrArg (fun p : Power => (p.voltage, p.capStage, p.pwrbrk, p.thermalStages)) (State.announce_power _ _ _)).trans hs2
  · exact hs2

theorem State.restage_staging_ready (old : Nat) : (if s.regs.ready then s.restage old else s).staging = s.staging := by
  split
  · exact s.restage_staging old
  · rfl

end

theorem foldl_max_le {l : List Nat} {a x : Nat} (h : x ≤ a ∨ x ∈ l) : x ≤ l.foldl max a := by
  induction l generalizing a with
  | nil => exact h.resolve_right List.not_mem_nil
  | cons y l ih =>
    refine ih ?_
    obtain h | h := h
    · exact .inl (h.trans (Nat.le_max_left _ _))
    · obtain rfl | h := List.mem_cons.mp h
      · exact .inl (Nat.le_max_right _ _)
      · exact .inr h

/-- The stage of a sensor is in force at least. -/
theorem State.le_shed_of_sensor {s : State} {x : Nat × Nat} (h : x ∈ s.power.thermalStages) : x.2 ≤ s.shed := by
  have hstage : x.2 ≤ s.thermalStage := foldl_max_le (.inr (List.mem_map_of_mem h))
  exact hstage.trans ((Nat.le_max_right _ _).trans (Nat.le_max_right _ _))

/-- Settles O46: a stage's inputs decide it, whatever its effects do; and a Fatal record enters shelter mode. -/
theorem powerEventsAct : Obligations.PowerEventsAct := by
  intro s
  refine ⟨fun r hv33 hv12 hlodge hstep hready hmsgs => ?_, fun mean hv12 hlodge => ?_, fun mv hready hlodge => ⟨fun hrise => ?_, fun hfall => ?_⟩,
    fun hv33 => ⟨fun hbrk => ?_, fun hbrk => ?_⟩, fun hon hshelter mv hmv => ?_, fun hon hlodge n temp htemp => ?_, fun hlodge n hstage => ?_,
    fun hon hshelter n temp htemp => ?_⟩
  · have hexec : exec (.ledgerLoop r) s = .next ({ s with power := { s.power.begin with
        clampLimit := false, input := r.millivolts, watts := r.power } }.answerCaps.smbUpdate r) := by
      simp only [exec, execLedgerLoop, hv33, hv12, hlodge, hstep, hready, ge_iff_le, Nat.reduceLeDiff, decide_false, Bool.false_and,
        Bool.false_eq_true, if_false, if_true, beq_self_eq_true, Bool.and_self, event_true]
    have hanswer (t : State) (h : t.power.capMsgs = []) : t.answerCaps = { t with power.capMsgs := [] } := by
      rw [State.answerCaps, h, List.foldl_nil]
    have hnext := hexec.trans (congrArg (fun u : State => Host.Outcome.next (u.smbUpdate r)) (hanswer _ hmsgs))
    exact ⟨_, hnext, rfl, rfl, rfl, rfl, rfl, rfl⟩
  · simp only [exec, execPowerClamp, hv12, hlodge, beq_self_eq_true, if_true, event_true]
  · have hexec : exec (.voltageStageRise mv) s = .next ({ s with power.voltage := voltageStage mv 0 }.restage s.shed) := by
      simp only [exec, execVoltageStageRise, hready, hlodge, gt_iff_lt, hrise, decide_true, beq_self_eq_true, Bool.and_self, event_true]
    have hstaging := State.restage_staging { s with power.voltage := voltageStage mv 0 } s.shed
    refine ⟨_, hexec, congrArg (·.1) hstaging, ?_⟩
    rw [State.shed_of_staging hstaging]
    exact max_le_max (max_le_max hrise.le le_rfl) le_rfl
  · have hexec : exec (.voltageStageFall mv) s = .next ({ s with power.voltage := voltageStage mv 100 }.restage s.shed) := by
      simp only [exec, execVoltageStageFall, hready, hlodge, hfall, decide_true, beq_self_eq_true, Bool.and_self, event_true]
    have hstaging := State.restage_staging { s with power.voltage := voltageStage mv 100 } s.shed
    refine ⟨_, hexec, congrArg (·.1) hstaging, ?_⟩
    rw [State.shed_of_staging hstaging]
    exact max_le_max (max_le_max hfall.le le_rfl) le_rfl
  · have hexec : exec .pwrbrkAssert s = .next (if s.regs.ready then { s with power.pwrbrk := true }.restage s.shed
        else { s with power.pwrbrk := true }) := by
      simp only [exec, execPwrbrkAssert, hv33, hbrk, Bool.not_false, Bool.and_self, event_true]
    have hstaging := State.restage_staging_ready { s with power.pwrbrk := true } s.shed
    have hbrk' : (if s.regs.ready then { s with power.pwrbrk := true }.restage s.shed else { s with power.pwrbrk := true }).power.pwrbrk = true :=
      congrArg (·.2.2.1) hstaging
    refine ⟨_, hexec, hbrk', if_pos hbrk', ?_⟩
    rw [State.shed_of_staging hstaging]
    exact (Nat.le_max_left _ _).trans (Nat.le_max_right _ _)
  · have hexec : exec .pwrbrkDeassert s = .next (if s.regs.ready then { s with power.pwrbrk := false }.restage s.shed
        else { s with power.pwrbrk := false }) := by
      simp only [exec, execPwrbrkDeassert, hv33, hbrk, Bool.and_self, event_true]
    have hstaging := State.restage_staging_ready { s with power.pwrbrk := false } s.shed
    have hbrk' : (if s.regs.ready then { s with power.pwrbrk := false }.restage s.shed else { s with power.pwrbrk := false }).power.pwrbrk = false :=
      congrArg (·.2.2.1) hstaging
    exact ⟨_, hexec, hbrk', if_neg (ne_true_of_eq_false hbrk')⟩
  · obtain ⟨hentered, halarm⟩ := State.raise_fatal (s := s) (a := { code := 0x0040, severity := 3, unitKind := 14 }) rfl rfl hshelter
    refine ⟨_, ?_, hentered, congrArg Prod.snd halarm⟩
    simp only [exec, execSupplyOutOfSpec, hon, gt_iff_lt, hmv, decide_true, Bool.true_or, Bool.and_self, event_true]
  · have htemp' : temp > 85 * 8 := htemp
    have hexec : exec (.thermalThreshold (.hbm n) temp) s = .next (if s.regs.ready then (s.holdStage (.hbm n) 4).restage s.shed
        else s.holdStage (.hbm n) 4) := by
      simp only [exec, execThermalThreshold, hon, hlodge, sensorLimits, htemp', if_true, Option.isSome_some, beq_self_eq_true, Bool.and_self,
        event_true]
    have hstaging := State.restage_staging_ready (s.holdStage (.hbm n) 4) s.shed
    refine ⟨_, hexec, ?_, ?_⟩
    · rw [show (if s.regs.ready then (s.holdStage (.hbm n) 4).restage s.shed else s.holdStage (.hbm n) 4).power.thermalStages = _ from
        congrArg (·.2.2.2) hstaging]
      simp only [State.staging, State.holdStage, sensorNum, assoc, List.find?_cons, beq_self_eq_true, Option.map_some, Option.getD_some]
    · exact (State.le_shed_of_sensor (s := s.holdStage (.hbm n) 4) (x := (32 + n, 4)) List.mem_cons_self).trans
        (State.shed_of_staging hstaging).ge
  · have hexec : exec (.thermalStageEnd (.hbm n)) s = .next (if s.regs.ready then
        { s with power.thermalStages := s.power.thermalStages.filter fun x => x.1 != 32 + n }.restage s.shed
        else { s with power.thermalStages := s.power.thermalStages.filter fun x => x.1 != 32 + n }) := by
      simp only [exec, execThermalStageEnd, hlodge, sensorNum, hstage, beq_self_eq_true, Bool.and_self, event_true]
    have hstaging := State.restage_staging_ready { s with power.thermalStages := s.power.thermalStages.filter fun x => x.1 != 32 + n } s.shed
    exact ⟨_, hexec, congrArg (·.2.2.2) hstaging⟩
  · obtain ⟨hentered, halarm⟩ := State.raise_fatal (s := s) (a := { code := 0x0041, severity := 3, unitKind := 15, unit := n }) rfl rfl hshelter
    refine ⟨_, ?_, hentered, congrArg Prod.snd halarm⟩
    simp only [exec, execThermalLimit, hon, sensorLimits, Option.any_some, ge_iff_le, htemp, decide_true, Bool.and_self, event_true]
    rfl

end Sys2Proof.Machine
end

section
/-!
PROOFS. Clusters and dies asleep (chapters 10 and 18).
-/

namespace Sys2Proof.Machine

theorem mem_distinct {x : Nat} {l : List Nat} : x ∈ distinct l ↔ x ∈ l := by
  suffices hfold : ∀ acc : List Nat, x ∈ l.foldl (fun acc x => if acc.contains x then acc else acc ++ [x]) acc ↔ x ∈ acc ∨ x ∈ l by
    exact (hfold []).trans (by simp only [List.not_mem_nil, false_or])
  induction l with
  | nil => simp
  | cons y l ih =>
    intro acc
    rw [List.foldl_cons, ih, List.mem_cons]
    split
    · next hy =>
      have hmem : y ∈ acc := List.elem_iff.mp hy
      constructor
      · exact fun h => h.imp_right .inr
      · rintro (h | rfl | h)
        · exact .inl h
        · exact .inl hmem
        · exact .inr h
    · rw [List.mem_append, List.mem_singleton, or_assoc]

theorem mem_insertBy {α : Type} {lt : α → α → Bool} {x y : α} {l : List α} : x ∈ insertBy lt y l ↔ x = y ∨ x ∈ l := by
  induction l with
  | nil => simp [insertBy]
  | cons z l ih =>
    unfold insertBy
    split
    · exact List.mem_cons
    · rw [List.mem_cons, ih, List.mem_cons, or_left_comm]

theorem mem_sortNats {x : Nat} {l : List Nat} : x ∈ sortNats l ↔ x ∈ l := by
  suffices hfold : ∀ acc : List Nat, x ∈ l.foldl (fun acc x => insertBy (fun a b => decide (a < b)) x acc) acc ↔ x ∈ acc ∨ x ∈ l by
    exact mem_distinct.trans ((hfold []).trans (by simp only [List.not_mem_nil, false_or]))
  induction l with
  | nil => simp
  | cons y l ih =>
    intro acc
    rw [List.foldl_cons, ih, mem_insertBy, List.mem_cons, or_assoc, or_left_comm]

/-- Settles O47: each row's guard holds of what it names. -/
theorem sleepEventsAct : Obligations.SleepEventsAct := by
  intro s
  refine ⟨fun cluster hcluster hlodge => ⟨fun hawake hidle => ?_, fun hasleep hin hshelter hdie => ⟨fun hwanted => ?_, fun r p hr hcover hp hwaits => ?_,
    fun hprewake => ?_⟩⟩, fun die hdie hready hawake hlodge hruns hpasses hasleep hcmds hregs hprewake => ?_, fun die hdie hasleep => ?_⟩
  · have hidle' : (s.comp.runs.any fun r => r.teams.any fun t => t.2 == cluster) = false := by
      simpa only [List.any_eq_false, Bool.not_eq_true, beq_eq_false_iff_ne] using hidle
    simp only [exec, execClusterSleep, hcluster, hawake, hlodge, hidle', decide_true, beq_self_eq_true, Bool.not_false, Bool.and_self, event_true]
  · simp only [exec, execClusterWake, hcluster, hasleep, hin, hshelter, hlodge, dieOf, hdie, hwanted, decide_true, beq_self_eq_true, Bool.not_false,
      Bool.and_self, event_true]
    rfl
  · have hteams : (r.waitingTeams p).isEmpty = false := List.isEmpty_eq_false_iff.mpr hwaits
    have hany : (s.comp.runs.any fun r => s.inCluster r cluster && (s.program? r.handle).any fun p => !(r.waitingTeams p).isEmpty) = true :=
      List.any_eq_true.mpr ⟨r, hr, by rw [hcover, hp, Option.any_some, hteams]; rfl⟩
    rw [State.clusterWanted, hany, Bool.true_or]
  · simp only [exec, execPrewake, hcluster, hasleep, hin, hshelter, hlodge, dieOf, hdie, hprewake, decide_true, beq_self_eq_true, Bool.not_false,
      Bool.and_self, event_true]
    rfl
  · have hasleep' : (((List.range 32).map (32 * die + ·)).all fun c => s.comp.asleep.contains c || s.comp.out.contains c) = true := by
      simpa only [List.all_map, List.all_eq_true, List.mem_range, Function.comp_apply, Bool.or_eq_true] using hasleep
    have hcmds' : (s.rings.cmds.all fun c => !c.admitted || c.finished) = true := by
      simpa only [List.all_eq_true, Bool.or_eq_true, Bool.not_eq_true'] using hcmds
    have hregs' : (die == 1 || s.regs.asleep) = true := by
      simpa only [Bool.or_eq_true, beq_iff_eq] using hregs
    simp only [exec, execDieDeepSleep, hdie, hready, hawake, hlodge, hruns, hpasses, hasleep', hcmds', hregs', hprewake, List.isEmpty_nil, decide_true,
      beq_self_eq_true, Bool.not_false, Bool.and_self, event_true]
  · have hexec : exec (.dieWake die) s = .next { s with
        comp.dieSleep := s.comp.dieSleep.set die false, comp.housekeeping := sortNats (die :: s.comp.housekeeping)
        mem.selfRefresh := if s.regs.shelter then s.mem.selfRefresh else s.mem.selfRefresh.filter fun k => !(stacksOf die).contains k } := by
      simp only [exec, execDieWake, hdie, hasleep, decide_true, Bool.and_self, event_true]
    refine ⟨_, hexec, ?_, mem_sortNats.mpr List.mem_cons_self, fun hshelter => ?_, fun hshelter => ?_⟩
    · change (s.comp.dieSleep.set die false).getD die false = false
      rw [List.getD_eq_getElem?_getD, List.getElem?_set, if_pos rfl]
      split <;> rfl
    · simp only [hshelter, Bool.false_eq_true, if_false]
    · simp only [hshelter, if_true]

end Sys2Proof.Machine
end

section
/-!
PROOFS. Failures and restarts of firmware (chapters 16 and 19).
-/

namespace Sys2Proof.Machine

/-! ### Recovery depths -/

/-- A unit's depth is still found once another unit's is gone. -/
theorem find?_depth_other {u v : Nat × Nat} (h : u ≠ v) (l : List UnitDepth) :
    (l.filter fun d => !(d.kind == u.1 && d.unit == u.2)).find? (fun d => d.kind == v.1 && d.unit == v.2)
      = l.find? fun d => d.kind == v.1 && d.unit == v.2 := by
  rw [List.find?_filter]
  refine List.find?_congr fun d _ => ?_
  cases hv : (d.kind == v.1 && d.unit == v.2) with
  | false => simp
  | true =>
    have hu : (d.kind == u.1 && d.unit == u.2) = false := by
      by_contra hu
      simp only [Bool.not_eq_false, Bool.and_eq_true, beq_iff_eq] at hu hv
      exact h (Prod.ext (hu.1.symm.trans hv.1) (hu.2.symm.trans hv.2))
    simp [hu]

/-- Deepening a unit raises no depth by more than one. -/
theorem State.depthOf_deepen_le (s : State) (u v : Nat × Nat) : (s.deepen u).depthOf v ≤ s.depthOf v + 1 := by
  by_cases huv : (u.1 == v.1 && u.2 == v.2) = true
  · have hu : u = v := by
      simp only [Bool.and_eq_true, beq_iff_eq] at huv
      exact Prod.ext huv.1 huv.2
    subst hu
    simp only [State.deepen, State.depthOf, List.find?_cons, huv, Option.map_some, Option.getD_some]
    omega
  · have hne : u ≠ v := by
      rintro rfl
      simp at huv
    simp only [State.deepen, State.depthOf, List.find?_cons, huv, find?_depth_other hne]
    omega

theorem State.depthOf_foldl_deepen_le (l : List (Nat × Nat)) (s : State) (v : Nat × Nat) :
    (l.foldl State.deepen s).depthOf v ≤ s.depthOf v + l.length := by
  induction l generalizing s with
  | nil => exact le_rfl
  | cons u l ih =>
    have hfirst := s.depthOf_deepen_le u v
    have hrest := ih (s.deepen u)
    rw [List.foldl_cons, List.length_cons]
    omega

theorem State.struck_length_le (s : State) (a : RecArgs) : (s.struck a).length ≤ 2 := by
  unfold State.struck
  split
  · exact Nat.zero_le 2
  · split
    · rw [List.length_cons]
      unfold containers
      split <;> simp
    · exact Nat.zero_le 2

/-- A record that is not Fatal, while no unit is under recovery, leaves shelter mode as it is and takes the next number. -/
theorem State.record_fresh {s : State} {a : RecArgs} (hdepths : s.errors.depths = []) (hsev : a.severity < 3) :
    (s.record a).regs.shelter = s.regs.shelter ∧ (s.errors.queue.length < 64 → (s.record a).errors.seq = s.errors.seq + 1) := by
  have hzero (u : Nat × Nat) : s.depthOf u = 0 := by
    rw [State.depthOf, hdepths]
    rfl
  have hrecovering : ((s.struck a).any fun u => u == (a.unitKind, a.unit) && decide (s.depthOf u > 0)) = false := by
    rw [List.any_eq_false]
    intro u _
    rw [hzero]
    simp
  have hnested : (s.struck a).find? (fun u => ((s.struck a).foldl State.deepen s).depthOf u == 3) = none := by
    rw [List.find?_eq_none]
    intro u _
    have hdeep := State.depthOf_foldl_deepen_le (s.struck a) s u
    have hlen := s.struck_length_le a
    rw [hzero] at hdeep
    simp only [beq_iff_eq]
    omega
  have hfatal : (a.severity == 3) = false := beq_eq_false_iff_ne.mpr (Nat.ne_of_lt hsev)
  have hqueue : ((s.struck a).foldl State.deepen s).errors.queue = s.errors.queue :=
    foldl_keeps (f := State.deepen) (fun s : State => s.errors.queue) (fun _ _ => rfl) _ _
  have hseq : ((s.struck a).foldl State.deepen s).errors.seq = s.errors.seq := foldl_keeps (f := State.deepen) (fun s : State => s.errors.seq) (fun _ _ => rfl) _ _
  have hflag : ((s.struck a).foldl State.deepen s).regs.shelter = s.regs.shelter := State.foldl_shelter (f := State.deepen) (fun _ _ => rfl) _ _
  simp only [State.record, hrecovering, hnested, hfatal, Bool.false_eq_true, if_false]
  refine ⟨?_, fun hroom => ?_⟩
  · rw [State.flushMail_shelter, State.enqueueRecord_eq]
    exact hflag
  · rw [State.flushMail_errors, State.enqueueRecord_of_room (by rw [hqueue]; exact hroom)]
    exact congrArg (· + 1) hseq

theorem State.record_fw (s : State) (a : RecArgs) : (s.record a).fw = s.fw := by
  rw [State.record_recordOnly s a]

/-! ### Components that are up -/

/-- A step that sets one component to a state changes whether that component is up, and no other. -/
def State.setsComp (st : FwState) (k : Nat) (s t : State) : Prop :=
  ∃ f : Component → Component, t.fw = { s.fw with comps := updAt k f s.fw.comps } ∧ ∀ c, (f c).state = st

theorem State.setsComp.length {st : FwState} {k : Nat} {s t : State} (h : State.setsComp st k s t) : t.fw.comps.length = s.fw.comps.length := by
  obtain ⟨f, hfw, -⟩ := h
  rw [hfw]
  exact List.length_modify ..

theorem State.setsComp.compUp {st : FwState} {k : Nat} {s t : State} (h : State.setsComp st k s t) (hk : k < s.fw.comps.length) (i : Nat) :
    t.compUp i = if i = k then st == .up else s.compUp i := by
  obtain ⟨f, hfw, hstate⟩ := h
  simp only [State.compUp, hfw, List.getD_eq_getElem?_getD, List.getElem?_map, getElem?_updAt]
  by_cases hik : i = k
  · subst hik
    simp only [if_true, List.getElem?_eq_getElem hk, Option.map_some, Option.getD_some, hstate]
  · simp only [if_neg hik, if_neg (Ne.symm hik)]

/-- A run of such steps sets the components it names. -/
theorem State.foldl_setsComp {st : FwState} {g : State → Nat → State} (keeps : State → Prop)
    (hg : ∀ s k, keeps s → keeps (g s k) ∧ State.setsComp st k s (g s k)) (l : List Nat) (s : State) (hs : keeps s)
    (hl : ∀ k ∈ l, k < s.fw.comps.length) : keeps (l.foldl g s) ∧ (∀ i, (l.foldl g s).compUp i = if l.contains i then st == .up else s.compUp i)
      ∧ (l.foldl g s).fw = { s.fw with comps := (l.foldl g s).fw.comps } := by
  induction l generalizing s with
  | nil => exact ⟨hs, fun i => rfl, rfl⟩
  | cons k l ih =>
    obtain ⟨hkeeps, hset⟩ := hg s k hs
    obtain ⟨hrest, hup, hfw⟩ := ih (g s k) hkeeps fun i hi => by
      rw [hset.length]
      exact hl i (List.mem_cons_of_mem k hi)
    refine ⟨hrest, fun i => ?_, ?_⟩
    · rw [List.foldl_cons, hup, hset.compUp (hl k List.mem_cons_self)]
      by_cases hi : i = k
      · subst hi
        simp
      · simp only [List.contains_cons, beq_eq_false_iff_ne.mpr hi, Bool.false_or, if_neg hi]
    · rw [List.foldl_cons, hfw]
      obtain ⟨f, hf, -⟩ := hset
      rw [hf]

/-- Stopping a component while no command is outstanding undoes at most messages. -/
theorem State.stopComponent_idle {s : State} (h : s.rings.cmds = []) (k : Nat) :
    (s.stopComponent k).rings.cmds = [] ∧ (s.stopComponent k).fw = s.fw ∧ (s.stopComponent k).errors = s.errors
      ∧ (s.stopComponent k).regs = s.regs := by
  unfold State.stopComponent
  rw [h]
  simp only [List.filter_nil, List.foldl_nil, State.undo]
  split
  · exact ⟨h, rfl, rfl, rfl⟩
  · split
    · exact ⟨h, rfl, rfl, rfl⟩
    · exact ⟨h, rfl, rfl, rfl⟩

/-- Stopping components while no command is outstanding sets their states. -/
theorem State.stopAll_idle {s : State} (hcmds : s.rings.cmds = []) {l : List Nat} (hl : ∀ k ∈ l, k < s.fw.comps.length) (st : FwState) :
    (s.stopAll l st).errors = s.errors ∧ (s.stopAll l st).regs = s.regs
      ∧ ∀ i, (s.stopAll l st).compUp i = if l.contains i then st == .up else s.compUp i := by
  obtain ⟨⟨-, herrors, hregs⟩, hup, -⟩ := State.foldl_setsComp (st := st) (g := fun s k => (s.stopComponent k).updComp k ({ · with state := st }))
    (fun t => t.rings.cmds = [] ∧ t.errors = s.errors ∧ t.regs = s.regs) (fun t k ⟨hc, he, hr⟩ => by
      obtain ⟨hcmds', hfw, herrors, hregs⟩ := State.stopComponent_idle hc k
      exact ⟨⟨hcmds', herrors.trans he, hregs.trans hr⟩, ({ · with state := st }), by rw [State.updComp, hfw], fun _ => rfl⟩)
    l s ⟨hcmds, rfl, rfl⟩ hl
  exact ⟨herrors, hregs, hup⟩

/-- Raising a record that is not Fatal, while no unit is under recovery, leaves the components as they were. -/
theorem State.raise_fresh {s : State} {a : RecArgs} (hdepths : s.errors.depths = []) (hsev : a.severity < 3) :
    (∀ k, (s.raise a).compUp k = s.compUp k) ∧ (s.errors.queue.length < 64 → (s.raise a).errors.seq = s.errors.seq + 1) := by
  obtain ⟨hflag, hseq⟩ := State.record_fresh hdepths hsev
  have hraise : s.raise a = s.record a := State.settled_same hflag
  refine ⟨fun k => ?_, fun hroom => ?_⟩
  · rw [hraise, State.compUp, State.record_fw]
    rfl
  · rw [hraise]
    exact hseq hroom

theorem State.kioskComps_lt {s : State} {kiosk k : Nat} (h : k ∈ s.kioskComps kiosk) : k < s.fw.comps.length :=
  List.mem_range.mp (List.mem_of_mem_filter h)

/-! ### Returning from a restart -/

/-- Nothing waits for a component to return. -/
def State.nothingWaits (s : State) : Prop :=
  s.rings.cmds = [] ∧ s.rings.waiting = [] ∧ s.mail.awaiting = [] ∧ s.group.heldMsgs = [] ∧ s.fw.activating = none

section
variable {s : State}

theorem State.postWaiting_none (h : s.rings.waiting = []) : s.postWaiting = { s with rings.waiting := [] } := by
  rw [State.postWaiting, h, List.foldl_nil]

theorem State.endHeld_none (h : s.rings.cmds = []) (l : List Nat) : s.endHeld l = s := by
  rw [State.endHeld, h, List.filter_nil, List.foldl_nil]

theorem State.beginWaiting_none (h : s.rings.cmds = []) :
    s.beginWaiting.fw = s.fw ∧ s.beginWaiting.mail = s.mail ∧ s.beginWaiting.group = s.group := by
  have hshed (p : Cmd → Bool) (r : Result) : s.endAll p r = s := by
    rw [State.endAll, h, List.filter_nil, List.foldl_nil]
  unfold State.beginWaiting
  rw [hshed]
  exact ⟨rfl, rfl, rfl⟩

theorem State.answerRestarted_none (h : s.mail.awaiting = []) (l : List Nat) : s.answerRestarted l = s := by
  rw [State.answerRestarted, h, List.filter_nil, List.foldl_nil]

theorem State.actHeld_none (h : s.group.heldMsgs = []) : s.actHeld = { s with group.heldMsgs := [] } := by
  rw [State.actHeld, h, List.foldl_nil]

theorem State.foldl_logMoved_none (h : s.fw.activating = none) (l : List Nat) : l.foldl State.logMoved s = s := by
  have hstep (k : Nat) : s.logMoved k = s := by
    simp only [State.logMoved, h, Option.isSome_none, Bool.false_and, Bool.false_eq_true, if_false]
  induction l with
  | nil => rfl
  | cons k l ih => rw [List.foldl_cons, hstep, ih]

theorem State.endActivation_none (h : s.fw.activating = none) : s.endActivation = s := by
  simp only [State.endActivation, h]

end

/-- Where nothing waits for them, components return and nothing else happens to any component. -/
theorem State.returnComps_idle {s : State} (h : s.nothingWaits) {l : List Nat} (hl : ∀ k ∈ l, k < s.fw.comps.length) (i : Nat) :
    (s.returnComps l).compUp i = if l.contains i then true else s.compUp i := by
  obtain ⟨hcmds, hwaiting, hawaiting, hheld, hact⟩ := h
  unfold State.returnComps
  extract_lets s1 s2 s3 _ s4 s5 s6
  obtain ⟨⟨hcmds1, hwaiting1, hawaiting1, hheld1⟩, hup, hfw⟩ := State.foldl_setsComp (st := .up)
    (g := fun s k => (s.updComp k fun c => { c with state := .up, within1s := s.depthOf (1, k) > 0 }).endRecovery (1, k))
    (fun t => t.rings.cmds = [] ∧ t.rings.waiting = [] ∧ t.mail.awaiting = [] ∧ t.group.heldMsgs = [])
    (fun t k ht => ⟨ht, _, rfl, fun _ => rfl⟩) l s ⟨hcmds, hwaiting, hawaiting, hheld⟩ hl
  have h2 : s2.fw = s1.fw ∧ s2.rings.cmds = [] ∧ s2.mail = s1.mail ∧ s2.group = s1.group := by
    unfold s2
    split
    · rw [State.postWaiting_none hwaiting1]
      exact ⟨rfl, hcmds1, rfl, rfl⟩
    · exact ⟨rfl, hcmds1, rfl, rfl⟩
  obtain ⟨hfw2, hcmds2, hmail2, hgroup2⟩ := h2
  have h4 : s4.fw = s1.fw ∧ s4.mail.awaiting = [] ∧ s4.group.heldMsgs = [] := by
    obtain ⟨hfw3, hmail3, hgroup3⟩ := State.beginWaiting_none hcmds2
    have hs3 : s3 = s2.beginWaiting := congrArg State.beginWaiting (State.endHeld_none hcmds2 l)
    have h3 : s3.fw = s1.fw ∧ s3.mail.awaiting = [] ∧ s3.group.heldMsgs = [] := by
      rw [hs3, hfw3, hmail3, hgroup3, hfw2, hmail2, hgroup2]
      exact ⟨rfl, hawaiting1, hheld1⟩
    unfold s4
    split
    · exact h3
    · exact h3
  obtain ⟨hfw4, hawaiting4, hheld4⟩ := h4
  have h6 : s6.fw = s1.fw := by
    have hs5 : s5 = s4 := State.answerRestarted_none hawaiting4 l
    unfold s6
    rw [hs5]
    split
    · rw [State.actHeld_none hheld4]
      exact hfw4
    · exact hfw4
  have hact6 : s6.fw.activating = none := by
    rw [h6, hfw]
    exact hact
  rw [State.foldl_logMoved_none hact6, State.endActivation_none hact6]
  have hflush : s6.flushMail.fw = s1.fw := by
    rw [State.flushMail_mailOnly s6]
    exact h6
  calc s6.flushMail.compUp i = s1.compUp i := by rw [State.compUp, hflush]; rfl
    _ = if l.contains i then true else s.compUp i := hup i

/-- Settles O48: a failure stops its components and raises one record, and a return sets them up. -/
theorem firmwareEventsAct : Obligations.FirmwareEventsAct := by
  intro s t
  refine ⟨fun comp hcomp hruns hup => ⟨?_, fun hlodge => ?_, fun ht hlen hcmds hdepths hroom hlodge hagain => ?_⟩,
    fun kiosk hkiosk hruns hlodge hany ht => ⟨?_, fun hlen hcmds hdepths hroom hall k hk => ?_⟩, fun hon ht hlodge => ⟨fun hagain => ?_, fun hagain => ?_⟩,
    fun hon hstep hgate => ⟨fun hlodge => ?_, fun hlodge => ?_⟩, fun comp hcomp hstate ht => ⟨?_, fun hlen hcmds hwaiting hawaiting hheld hact => ?_⟩,
    fun kiosk hkiosk hany ht => ⟨?_, fun hlen hcmds hwaiting hawaiting hheld hact k hk => ?_⟩, fun hlodge => ?_, fun hgate => ⟨?_, fun hlodge => ?_⟩,
    fun kind unit hended => ?_⟩
  · simp only [exec, execCompartmentFault, hcomp, hruns, hup, decide_true, Bool.and_self, event_true]
  · simp only [exec, execComponentHeartbeatTimeout, hcomp, hruns, hup, hlodge, decide_true, beq_self_eq_true, Bool.and_self, event_true]
  · have hfail : s.failComponent comp = (s.stopAll [comp] .restarting).raise { code := 0x0028, severity := 1, unitKind := 1, unit := comp } := by
      simp only [State.failComponent, hlodge, hagain, bne_self_eq_false, Bool.false_eq_true, if_false]
    obtain ⟨herrors, hregs, hstop⟩ := State.stopAll_idle hcmds (l := [comp]) (by simp [hlen, hcomp]) .restarting
    obtain ⟨hsame, hseq⟩ := State.raise_fresh (s := s.stopAll [comp] .restarting)
      (a := { code := 0x0028, severity := 1, unitKind := 1, unit := comp }) (by rw [herrors]; exact hdepths) (Nat.one_lt_succ_succ 1)
    rw [ht, hfail]
    refine ⟨?_, ?_, fun k _ hk => ?_⟩
    · rw [hsame, hstop]
      simp
    · rw [hseq (by rw [herrors]; exact hroom), herrors]
    · rw [hsame, hstop]
      simp [hk]
  · subst ht
    have hany' : ((s.kioskComps kiosk).any fun k => (s.fw.comps.map (·.state)).getD k .up != .kioskRestarting) = true := by
      simpa only [List.any_eq_true, bne_iff_ne] using hany
    simp only [exec, execKioskHalt, hkiosk, hruns, hlodge, hany', decide_true, beq_self_eq_true, Bool.and_self, event_true]
  · obtain ⟨herrors, hregs, hstop⟩ := State.stopAll_idle hcmds (fun _ => State.kioskComps_lt) (l := s.kioskComps kiosk) .kioskRestarting
    obtain ⟨hsame, hseq⟩ := State.raise_fresh (s := s.stopAll (s.kioskComps kiosk) .kioskRestarting)
      (a := { code := 0x0029, severity := 2, unitKind := 2, unit := kiosk }) (by rw [herrors]; exact hdepths) (Nat.lt_succ_self 2)
    rw [ht, hsame, hstop, hall k hk]
    cases (s.kioskComps kiosk).contains k <;> rfl
  · subst ht
    simp only [exec, execLodgeWatchdogExpiry, hon, hlodge, hagain, beq_self_eq_true, Bool.and_self, event_true, Bool.false_eq_true, if_false]
  · subst ht
    simp only [exec, execLodgeWatchdogExpiry, hon, hlodge, hagain, beq_self_eq_true, Bool.and_self, event_true, if_true]
  · simp only [exec, execGatehouseWatchdogExpiry, hon, ge_iff_le, hstep, hgate, hlodge, decide_true, beq_self_eq_true, Bool.and_self, event_true, if_true]
  · simp only [exec, execGatehouseWatchdogExpiry, hon, ge_iff_le, hstep, hgate, beq_eq_false_iff_ne.mpr hlodge, decide_true, beq_self_eq_true,
      Bool.and_self, event_true, Bool.false_eq_true, if_false]
  · subst ht
    simp only [exec, execComponentRestartEnd, hcomp, hstate, decide_true, beq_self_eq_true, Bool.and_self, event_true]
  · have hret := State.returnComps_idle (s := s) ⟨hcmds, hwaiting, hawaiting, hheld, hact⟩ (l := [comp]) (by simp [hlen, hcomp]) comp
    rw [ht]
    exact hret.trans (by simp)
  · subst ht
    have hany' : ((s.kioskComps kiosk).any fun k => (s.fw.comps.map (·.state)).getD k .up == .kioskRestarting) = true := by
      simpa only [List.any_eq_true, beq_iff_eq] using hany
    simp only [exec, execKioskRestartEnd, hkiosk, hany', decide_true, Bool.and_self, event_true]
  · have hret := State.returnComps_idle (s := s) ⟨hcmds, hwaiting, hawaiting, hheld, hact⟩ (l := s.kioskComps kiosk) (fun _ => State.kioskComps_lt) k
    rw [ht]
    exact hret.trans (if_pos (List.elem_iff.mpr hk))
  · have hanswers (u : State) (l : List Nat) : u.mailOnly (u.answerRestarted l) :=
      State.foldl_mailOnly (fun _ _ => State.refuse_mailOnly _ _ _ _ _ _) _ _
    simp only [exec, execLodgeReturn, hlodge, beq_self_eq_true, event_true]
    refine ⟨_, rfl, ?_⟩
    rw [hanswers]
    exact ⟨rfl, rfl, rfl⟩
  · simp only [exec, execGatehouseReturn, hgate, beq_self_eq_true, event_true]
  · have hexec : exec .gatehouseReturnTimeout s = .next s.internalRestart := by
      simp only [exec, execGatehouseReturnTimeout, hgate, hlodge, beq_self_eq_true, Bool.and_self, event_true]
    obtain ⟨u, hu, -, herrors⟩ := s.endRun_durable 2
    refine ⟨_, hexec, rfl, rfl, rfl, rfl, rfl, ?_⟩
    change (s.endRun 2).errors.queue = s.errors.queue
    rw [hu, ← herrors]
    rfl
  · have hexec : ∃ t : State, exec (.recoveryPeriodEnd kind unit) s = .next t
        ∧ t.errors.depths = s.errors.depths.filter fun d => !(d.kind == kind && d.unit == unit) := by
      simp only [exec, execRecoveryPeriodEnd, hended, event_true]
      split <;> exact ⟨_, rfl, rfl⟩
    obtain ⟨u, hu, hdepths⟩ := hexec
    refine ⟨u, hu, ?_, fun v hv => ?_⟩
    · have hnone : (s.errors.depths.filter fun d => !(d.kind == kind && d.unit == unit)).find? (fun d => d.kind == kind && d.unit == unit) = none := by
        rw [List.find?_eq_none]
        intro d hd
        exact ne_true_of_eq_false ((Bool.not_eq_true' _).mp (List.mem_filter.mp hd).2)
      rw [State.depthOf, hdepths, hnone]
      rfl
    · rw [State.depthOf, hdepths, find?_depth_other (u := (kind, unit)) hv.symm]
      rfl

end Sys2Proof.Machine
end

section
/-!
PROOFS. Control and waiting instructions (chapter 9, R275 to R282).
-/

namespace Sys2Proof.Machine

section
variable {s : State} {run core op : Nat} {r : Run} {p : Program} {c : VCore} {w : BitVec 64}

/-- An instruction that touches no local memory and does not fault takes effect as its core issues it. -/
theorem isaEvent_control {issue : Run → Program → VCore → BitVec 64 → Issue} {e : Run → Run} (h : s.issuer run core = some (r, p, c, w))
    (hop : wf w 63 56 = op) (hunit : unitOf op = 0) (hreads : (issue r p c w).reads = []) (hwrites : (issue r p c w).writes = [])
    (hfault : (issue r p c w).fault = none) (hbusy : (issue r p c w).busy = 1) (heffect : (issue r p c w).effect = e) :
    isaEvent s run core op none issue = .next (s.updRun run fun x => (e x).updCore core fun c => c.advance 0 1 (s.pace r)) := by
  have hfree : (r.moves.any fun t => t.blocks core (issue r p c w)) = false :=
    List.any_eq_false.2 fun t _ => by simp [t.blocks_of_no_bytes core hreads hwrites]
  have hfaults : (issue r p c w).faults = none := by
    simp only [Issue.faults, hfault, hreads, hwrites, List.append_nil, List.any_nil, Bool.false_eq_true, if_false]
  rw [isaEvent_run h hop rfl hfree hfaults, heffect, hbusy, hunit]

/-- A SETB without an offset copies its pool entry. -/
theorem setbIssue_direct (p : Program) (c : VCore) (h : wf w 47 47 = 0) : (setbIssue p w c).fault = none ∧
    (setbIssue p w c).effect = fun r => r.updCore c.idx fun c => { c with bufs := c.bufs.set (wf w 55 52) (bufOfEntry (p.entry (wf w 11 0))) } := by
  have hgood (f : Fmt) : offsetBad f 0 = false := by
    cases f <;> rfl
  simp only [setbIssue, h, Nat.reduceBEq, Bool.false_eq_true, if_false, hgood, Nat.zero_mul, Nat.zero_div, Nat.add_zero, and_self]

/-- A waiting instruction leaves its core marked at its next word. -/
theorem waitEvent_stays {mark : BitVec 64 → VCore → VCore} {f : VCore → VCore} (h : s.issuer run core = some (r, p, c, w)) (hop : wf w 63 56 = op)
    (hunit : unitOf op = 0) (hmark : mark w = f) : waitEvent s run core op mark
      = .next ((s.updRun run fun x => x.updCore core fun c => f (c.advance 0 0 (s.pace r))).announceBar run) := by
  rw [waitEvent_run h hop, hmark, hunit]

/-- A change of the core of a number depends on what it does to cores of that number alone. -/
theorem Run.updCore_congr (x : Run) {v : Nat} {f g : VCore → VCore} (h : ∀ c, c.idx = v → f c = g c) : x.updCore v f = x.updCore v g := by
  have hcores : updWhere (fun c : VCore => c.idx == v) f x.cores = updWhere (fun c : VCore => c.idx == v) g x.cores := by
    refine List.map_congr_left fun c _ => ?_
    split
    · next hc => exact h c (eq_of_beq hc)
    · rfl
  rw [Run.updCore, hcores]
  rfl

/-- Settles O50: each issue by its operands, and END by the transfers of its core. -/
theorem controlInstructionsAct : Obligations.ControlInstructionsAct := by
  intro s run core r p c w h go stay
  refine ⟨fun hop => ?_, fun hop hx => ?_, fun hop hc => ⟨fun hcount hloops => ?_, fun hcount => ?_⟩, fun hop => ?_, fun hop => ?_, fun hop => ?_,
    fun hop => ⟨fun hmoves => ?_, fun hmoves => ?_⟩⟩
  · exact isaEvent_control h hop rfl rfl rfl rfl rfl rfl
  · obtain ⟨hfault, heffect⟩ := setbIssue_direct (w := w) p c hx
    exact isaEvent_control h hop rfl rfl rfl hfault rfl heffect
  · have hzero : (wf w 31 16 == 0) = false := beq_eq_false_iff_ne.mpr (Nat.ne_of_gt hcount)
    refine isaEvent_control h hop rfl rfl rfl ?_ rfl ?_
    · simp only [loopIssue, hc, Nat.reduceBEq, Bool.false_eq_true, if_false, ge_iff_le, Nat.not_le.mpr hloops, decide_false, Bool.and_false]
    · simp only [loopIssue, hc, Nat.reduceBEq, Bool.false_eq_true, if_false, hzero]
  · refine isaEvent_control h hop rfl rfl rfl ?_ rfl ?_
    · simp only [loopIssue, hc, hcount, Nat.reduceBEq, Bool.false_eq_true, if_false, gt_iff_lt, Nat.lt_irrefl, decide_false, Bool.false_and]
    · have hstop : c.pc + 1 + wf w 15 0 - 1 = c.pc + wf w 15 0 := by omega
      simp only [loopIssue, hc, hcount, Nat.reduceBEq, Bool.false_eq_true, if_false, beq_self_eq_true, if_true, hstop]
  · exact waitEvent_stays (mark := fun w c => { c with bars := c.bars.modify (wf w 55 54) (· + 1), wait := some (.bar (wf w 55 54)) }) h hop rfl rfl
  · refine waitEvent_stays (mark := fun w c => { c with wait := some (if wf w 55 54 == 0 then .round else .bulk) })
      (f := fun c => { c with wait := some (if wf w 55 54 = 0 then .round else .bulk) }) h hop rfl ?_
    simp only [beq_iff_eq]
  · exact waitEvent_stays (mark := fun w c => { c with wait := some (.tag (wf w 55 52)) }) h hop rfl rfl
  · simp only [exec, execEndCore, h, hop, beq_self_eq_true, event_true]
    refine congrArg (fun e : Run → Run => Host.Outcome.next ((s.updRun run fun x => (e x).closeTeams p).announceBar run)) ?_
    funext x
    refine x.updCore_congr fun y hy => ?_
    rw [hy, hmoves, List.isEmpty_nil, if_pos rfl]
  · have hsome : (r.movesOf c.idx).isEmpty = false := List.isEmpty_eq_false_iff.mpr hmoves
    simp only [exec, execEndCore, h, hop, beq_self_eq_true, event_true]
    refine congrArg (fun e : Run → Run => Host.Outcome.next ((s.updRun run fun x => (e x).closeTeams p).announceBar run)) ?_
    funext x
    refine x.updCore_congr fun y hy => ?_
    rw [hy, hsome, if_neg Bool.false_ne_true]

end

end Sys2Proof.Machine
end

section
/-!
PROOFS. Runs of programs (chapter 9).
-/

namespace Sys2Proof.Machine

/-! ### What a transfer's bytes leave of the runs -/

section
variable (s : State)

theorem State.flashProgram_comp (area first n : Nat) : (s.flashProgram area first n).comp = s.comp := by
  unfold State.flashProgram
  split <;> rfl

theorem State.markSector_comp (area sector : Nat) : (s.markSector area sector).comp = s.comp := by
  unfold State.markSector
  split <;> rfl

theorem State.flashRead_comp (area first n : Nat) : (s.flashRead area first n).comp = s.comp := by
  unfold State.flashRead
  exact (foldl_keeps (fun s : State => s.comp) (fun _ _ => State.markSector_comp _ _ _) _ _).trans rfl

theorem State.tierWrite_comp (tier a : Nat) (b : Bytes) : (s.tierWrite tier a b).comp = s.comp := by
  unfold State.tierWrite
  split <;> rfl

theorem State.readMedium_comp (tier : Nat) (l : List (Nat × Nat)) : (s.readMedium tier l).comp = s.comp := by
  unfold State.readMedium
  split
  · exact foldl_keeps (fun s : State => s.comp) (fun s k => State.flashRead_comp s 0 k 1) _ _
  · rfl

theorem State.coverAll_comp (tier : Nat) (l : List (Nat × Nat)) : (s.coverAll tier l).comp = s.comp := by
  unfold State.coverAll
  split
  · rfl
  · exact (foldl_keeps (fun s : State => s.comp) (fun s k => State.flashProgram_comp s 0 k 1) _ _).trans rfl
  · rfl

/-- What of a run its local memory does not hold: its faults, its transfers in flight and the bytes it wrote. -/
def Run.standing (r : Run) : Nat × Option (Nat × Nat × Nat) × Bool × List Transfer × Nat := (r.rid, r.fault, r.medium, r.moves, r.wrote)

/-- What stands of the run of a number. -/
def State.standing (rid : Nat) : Option (Nat × Option (Nat × Nat × Nat) × Bool × List Transfer × Nat) := (s.run? rid).map Run.standing

theorem Run.localWrite_standing (r : Run) (v a : Nat) (b : Bytes) : (r.localWrite v a b).standing = r.standing := by
  unfold Run.localWrite
  split <;> rfl

variable {s} in
theorem State.standing_of_comp {t : State} (h : t.comp = s.comp) (rid : Nat) : t.standing rid = s.standing rid := by
  rw [State.standing, State.run?, h]
  rfl

theorem State.standing_updRun {f : Run → Run} (hf : ∀ r, (f r).standing = r.standing) (rid : Nat) :
    (s.updRun rid f).standing rid = s.standing rid := by
  rw [State.standing, State.run?_updRun s rid f fun r => congrArg (·.1) (hf r), Option.map_map, State.standing]
  exact congrArg (fun g => (s.run? rid).map g) (funext hf)

/-- Carrying a transfer out moves bytes, of local memory or of a tier. -/
theorem State.carryOut_standing (r : Run) (t : Transfer) (f g : Fmt) (h : HostImage) :
    (s.carryOut r t f g h).standing r.rid = s.standing r.rid := by
  unfold State.carryOut
  extract_lets read codes s1 s2
  have hs1 : s1.standing r.rid = s.standing r.rid := by
    refine foldl_keeps (fun s : State => s.standing r.rid) (fun s x => ?_) _ _
    dsimp only
    split
    · exact State.standing_updRun s (fun x => Run.localWrite_standing _ _ _ _) r.rid
    · exact State.standing_of_comp (State.tierWrite_comp _ _ _ _) _
  have hs2 : s2.standing r.rid = s.standing r.rid := by
    unfold s2
    split
    · exact hs1
    · exact (State.standing_of_comp (State.readMedium_comp _ _ _) _).trans hs1
  split
  · exact hs2
  · exact (State.standing_of_comp (State.coverAll_comp _ _ _) _).trans hs2

theorem State.announce_comp (type : Nat) (body : Bytes) : (s.announce type body).comp = s.comp := by
  unfold State.announce
  split <;> rfl

theorem State.announceBar_standing (rid : Nat) : (s.announceBar rid).standing rid = s.standing rid := by
  unfold State.announceBar
  split
  · rfl
  · dsimp only
    split
    · refine (State.standing_of_comp (State.announce_comp _ _ _) rid).trans (State.standing_updRun s ?_ rid)
      exact fun _ => rfl
    · rfl

theorem State.announceBar_shelter (rid : Nat) : (s.announceBar rid).regs.shelter = s.regs.shelter := by
  unfold State.announceBar
  split
  · rfl
  · dsimp only
    split
    · exact State.announce_shelter _ _ _
    · rfl

variable {s}

/-- A run goes on where it has neither fault nor failure, or a transfer is still in flight. -/
theorem State.settleRun_goesOn {rid : Nat} {r : Run} (hrun : s.run? rid = some r)
    (h : (r.fault = none ∧ r.medium = false) ∨ r.moves ≠ []) : s.settleRun rid = s := by
  have hgoes : ((r.fault.isSome || r.medium) && r.moves.isEmpty) = false := by
    obtain ⟨hfault, hmedium⟩ | hmoves := h
    · rw [hfault, hmedium]
      rfl
    · rw [List.isEmpty_eq_false_iff.mpr hmoves, Bool.and_false]
  simp only [State.settleRun, hrun, hgoes, Bool.false_eq_true, if_false]

theorem State.rid_of_run? {rid : Nat} {r : Run} (h : s.run? rid = some r) : r.rid = rid :=
  eq_of_beq (List.find?_some (p := fun r : Run => r.rid == rid) h)

/-- A fault while a transfer is in flight is noted on the run, which waits for the transfer. -/
theorem State.faultRun_waits {rid : Nat} {r : Run} (hrun : s.run? rid = some r) (hmoves : r.moves ≠ []) (code pc v : Nat) :
    (s.faultRun rid code pc v).run? rid = some { r with fault := some (code, pc, v) }
      ∧ (s.faultRun rid code pc v).regs.shelter = s.regs.shelter := by
  have hnoted : (s.updRun rid fun r => { r with fault := some (code, pc, v) }).run? rid = some { r with fault := some (code, pc, v) } := by
    rw [State.run?_updRun, hrun, Option.map_some]
    exact fun _ => rfl
  have hwaits : s.faultRun rid code pc v = s.updRun rid fun r => { r with fault := some (code, pc, v) } :=
    State.settleRun_goesOn hnoted (.inr hmoves)
  rw [hwaits]
  exact ⟨hnoted, rfl⟩

end

section
variable {s : State} {run : Nat} {r : Run} {p : Program} (hrun : s.run? run = some r) (hprog : s.program? r.handle = some p)
include hrun hprog

/-- A team placed on a cluster of an open window. -/
theorem teamStart_places {cluster cid : Nat} {c : Cmd} (hwhy : r.why = .command cid) (hcmd : s.cmd? cid = some c) (hheld : c.held = none)
    (hadmitted : c.admitted = true) (hturn : s.runTurn r = true) (hfault : r.fault = none) (hmedium : r.medium = false)
    (happlied : s.power.applied = 0) (hshelter : s.regs.shelter = false) (hwaiting : r.waitingTeams p = [0])
    (hfree : s.clusterFree r cluster = true) (hcleared : r.cleared = true) (hteams : r.teams = []) (hsave : s.saveBad r p 0 = none) :
    ∃ t r', exec (.teamStart run [(0, cluster)]) s = .next t ∧ t.run? run = some r' ∧ r'.teams = [(0, cluster)] := by
  have hone : distinct [cluster] = [cluster] := distinct_of_nodup (List.nodup_singleton cluster)
  have hstep : exec (.teamStart run [(0, cluster)]) s = .next ((((s.updCmd cid ({ · with admitted := true })).updRun run
      ({ · with cleared := true })).interruptTests [cluster]).updRun run fun r => r.placeTeam p 0 cluster) := by
    simp only [exec, execTeamStart, hrun, hprog, hwhy, hcmd, hheld, hadmitted, hturn, hfault, hmedium, happlied, hshelter, hwaiting, hfree, hcleared,
      hsave, hone, Option.any_some, Option.isNone_none, Bool.true_or, Bool.and_self, Bool.not_true, Bool.not_false, List.isEmpty_cons, List.map_cons,
      List.map_nil, List.length_cons, List.length_nil, List.take_succ_cons, List.take_zero, List.all_cons, List.all_nil, List.findSome?_cons,
      List.findSome?_nil, List.foldl_cons, List.foldl_nil, beq_self_eq_true, Bool.or_true, event_true, if_true]
  refine ⟨_, { r with cleared := true }.placeTeam p 0 cluster, hstep, ?_, ?_⟩
  · have hclear : (((s.updCmd cid ({ · with admitted := true })).updRun run ({ · with cleared := true })).interruptTests [cluster]).run? run
        = some { r with cleared := true } := by
      change ((s.updCmd cid ({ · with admitted := true })).updRun run ({ · with cleared := true })).run? run = _
      rw [State.run?_updRun]
      · exact congrArg (Option.map _) hrun
      · exact fun _ => rfl
    rw [State.run?_updRun, hclear, Option.map_some]
    exact fun _ => rfl
  · change r.teams ++ [(0, cluster)] = [(0, cluster)]
    rw [hteams, List.nil_append]

/-- A transfer that names no T2 and does not fail ends, and its bytes are counted. -/
theorem transferComplete_ends {transfer : Nat} {host : HostImage} {m : Transfer} {f g : Fmt}
    (hm : (r.moves.find? fun t => t.tid == transfer && !t.scan) = some m) (hsrc : m.src.fmt? = some f) (hdst : m.dst.fmt? = some g)
    (hfails : s.transferFails r m f g = false) (hfault : r.fault = none) (hmedium : r.medium = false) (hsrc2 : m.src.tier ≠ 2)
    (hdst2 : m.dst.tier ≠ 2) :
    ∃ t r', exec (.transferComplete run transfer host) s = .next t ∧ t.run? run = some r' ∧ (r'.moves.any fun t => t.tid == transfer) = false
      ∧ r'.wrote = r.wrote + m.outBytes p r g := by
  have hid : r.rid = run := State.rid_of_run? hrun
  have hcarried : (s.carryOut r m f g host).standing run = some r.standing := by
    have hstanding := s.carryOut_standing r m f g host
    rw [hid] at hstanding
    rw [hstanding, State.standing, hrun, Option.map_some]
  obtain ⟨r0, hr0, hstanding0⟩ := Option.map_eq_some_iff.mp hcarried
  simp only [Run.standing, Prod.mk.injEq] at hstanding0
  obtain ⟨-, hfault0, hmedium0, hmoves0, hwrote0⟩ := hstanding0
  let drop (x : Run) : Run := { x with moves := x.moves.filter fun y => y.tid != transfer }
  let count (x : Run) : Run := { x with wrote := x.wrote + m.outBytes p r g }.wake p
  have hrun1 : (((s.carryOut r m f g host).updRun run drop).updRun run count).run? run = some (count (drop r0)) := by
    have hdrop : ((s.carryOut r m f g host).updRun run drop).run? run = some (drop r0) := by
      rw [State.run?_updRun _ _ drop fun _ => rfl, hr0, Option.map_some]
    rw [State.run?_updRun _ _ count fun _ => rfl, hdrop, Option.map_some]
  have hsettled : (((s.carryOut r m f g host).updRun run drop).updRun run count).settleRun run
      = ((s.carryOut r m f g host).updRun run drop).updRun run count :=
    State.settleRun_goesOn hrun1 (.inl ⟨hfault0.trans hfault, hmedium0.trans hmedium⟩)
  have hannounced := (((s.carryOut r m f g host).updRun run drop).updRun run count).announceBar_standing run
  rw [State.standing, State.standing, hrun1, Option.map_some] at hannounced
  obtain ⟨r', hr', hstanding'⟩ := Option.map_eq_some_iff.mp hannounced
  simp only [Run.standing, Prod.mk.injEq] at hstanding'
  obtain ⟨-, -, -, hmoves', hwrote'⟩ := hstanding'
  have hflag : ((((s.carryOut r m f g host).updRun run drop).updRun run count).announceBar run).regs.shelter = s.regs.shelter :=
    (State.announceBar_shelter _ _).trans (State.carryOut_workOnly s r m f g host).shelter
  have hstep : exec (.transferComplete run transfer host) s
      = .next ((((s.carryOut r m f g host).updRun run drop).updRun run count).announceBar run) := by
    have hnamed : ([(m.src, m.src.rsv3), (m.dst, m.dst.rsv3)].filterMap fun d => if d.2 == 0 && d.1.tier == 2 then some d.1 else none) = [] := by
      simp [hsrc2, hdst2]
    simp only [exec, execTransferComplete, hrun, hprog, hm, hsrc, hdst, hfails, hnamed, List.isEmpty_nil, Bool.true_or, Bool.false_eq_true, if_false,
      event_true]
    exact congrArg Host.Outcome.next ((congrArg (fun t : State => s.settled (t.announceBar run)) hsettled).trans (State.settled_same hflag))
  refine ⟨_, r', hstep, hr', ?_, ?_⟩
  · rw [hmoves', List.any_eq_false]
    intro x hx
    simpa using (List.mem_filter.mp hx).2
  · rw [hwrote']
    exact congrArg (· + m.outBytes p r g) hwrote0

theorem cycleLimit_stops {team : Nat} {c : VCore}
    (hlate : (r.cores.find? fun c => (teamOf c.idx == team && !c.ended) && c.cycles > p.maxCycles) = some c) (hfault : r.fault = none)
    (hmedium : r.medium = false) (hteam : (r.teams.any fun t => t.1 == team) = true) (hmoves : r.moves ≠ []) :
    ∃ t r', exec (.cycleLimit run team) s = .next t ∧ t.run? run = some r' ∧ r'.fault = some (8, c.pc, c.idx) := by
  have hfind : (r.cores.filter fun c => teamOf c.idx == team && !c.ended).find? (fun c => decide (c.cycles > p.maxCycles)) = some c := by
    rw [List.find?_filter]
    refine Eq.trans (List.find?_congr fun x _ => ?_) hlate
    rw [Bool.eq_iff_iff]
    simp
  obtain ⟨hnoted, hflag⟩ := State.faultRun_waits hrun hmoves faultCycles c.pc c.idx
  have hstep : exec (.cycleLimit run team) s = .next ((s.faultRun run faultCycles c.pc c.idx).draw 1) := by
    simp only [exec, execCycleLimit, hrun, hprog, Option.any_some, hfind, Option.orElse_some, hfault, hmedium, hteam, Option.isNone_none,
      Bool.not_false, Bool.and_self, event_true]
    exact congrArg Host.Outcome.next (State.settled_same hflag)
  exact ⟨_, _, hstep, hnoted, rfl⟩

theorem programEnd_completes {cid : Nat} {c : Cmd} (hwhy : r.why = .command cid) (hcmd : s.cmd? cid = some c) (hheld : c.held = none)
    (hfault : r.fault = none) (hmedium : r.medium = false) (hmoves : r.moves = []) (hcores : r.cores.length = p.vcores)
    (hended : r.cores.all (·.ended) = true) : exec (.programEnd run) s
      = .next (((s.removeRun run).writeT1 p.status r.statusBytes).complete cid { Result.of 0 with c := p.status }) := by
  simp only [exec, execProgramEnd, hrun, hprog, hfault, hmedium, hmoves, hcores, hended, hwhy, hcmd, hheld, Option.any_some, Option.isNone_none,
    Option.isSome_none, List.isEmpty_nil, beq_self_eq_true, Bool.not_false, Bool.and_self, event_true]

end

/-- A LOOP at a fifth level stops its run. -/
theorem loop_faults {s : State} {run core : Nat} {r : Run} {p : Program} {c : VCore} {w : BitVec 64} (h : s.issuer run core = some (r, p, c, w))
    (hop : wf w 63 56 = 0x05) (hc : wf w 51 51 = 0) (hcount : 0 < wf w 31 16) (hloops : 4 ≤ c.loops.length) (hmoves : r.moves ≠ []) :
    ∃ t r', exec (.loop run core) s = .next t ∧ t.run? run = some r' ∧ r'.fault = some (5, c.pc, core) := by
  obtain ⟨hrun, -⟩ := State.issuer_some h
  have hfree : (r.moves.any fun t => t.blocks core (loopIssue w c)) = false :=
    List.any_eq_false.2 fun t _ => by simp [t.blocks_of_no_bytes core (i := loopIssue w c) rfl rfl]
  have hfaults : (loopIssue w c).faults = some faultLoop := by
    simp only [Issue.faults, loopIssue, hc, Nat.reduceBEq, Bool.false_eq_true, if_false, gt_iff_lt, hcount, ge_iff_le, hloops, decide_true,
      Bool.and_self, if_true]
  obtain ⟨hnoted, hflag⟩ := State.faultRun_waits hrun hmoves faultLoop c.pc core
  have hstep : exec (.loop run core) s = .next (s.settled (s.faultRun run faultLoop c.pc core)) := isaEvent_fault h hop rfl hfree hfaults
  exact ⟨_, _, hstep.trans (congrArg Host.Outcome.next (State.settled_same hflag)), hnoted, rfl⟩

/-- The tensors of a run's arguments take room, and no run goes. -/
theorem State.argTensors_runs {s : State} {l : List (Nat × TensorDesc)} {a : State × List (Nat × TensorDesc)} (h : s.argTensors l = some a) :
    a.1.comp = s.comp := by
  obtain ⟨x, hx, rfl⟩ := Option.map_eq_some_iff.mp h
  rw [(State.findSpread_layoutOnly hx).1]

/-- A new run stands last, for what asked for it, under its seed and its program's handle. -/
theorem State.newRun_runs (s : State) (p : Program) (why : RunFor) (seed : Nat) (args : List (Nat × TensorDesc)) :
    ∃ x, (s.newRun p why seed args).comp.runs = s.comp.runs ++ [x] ∧ x.why = why ∧ x.seed = seed ∧ x.handle = p.handle :=
  ⟨_, rfl, rfl, rfl, rfl⟩

/-- Settles O53: a run's turn, a transfer's end, two faults, a run's end and an embedding run, each by its own lemma. -/
theorem programEventsAct : Obligations.ProgramEventsAct := by
  intro s run r p hrun hprog
  refine ⟨fun cluster cid c hwhy hcmd hheld hadmitted hturn hfault hmedium happlied hshelter hwaiting hfree hcleared hteams hsave =>
      teamStart_places hrun hprog hwhy hcmd hheld hadmitted hturn hfault hmedium happlied hshelter hwaiting hfree hcleared hteams hsave,
    fun transfer host m f g hm hsrc hdst hfails hfault hmedium hsrc2 hdst2 =>
      transferComplete_ends hrun hprog hm hsrc hdst hfails hfault hmedium hsrc2 hdst2,
    fun team c hlate hfault hmedium hteam hmoves => cycleLimit_stops hrun hprog hlate hfault hmedium hteam hmoves,
    fun core c w h hop hc hcount hloops hmoves => loop_faults h hop hc hcount hloops hmoves,
    fun cid c hwhy hcmd hheld hfault hmedium hmoves hcores hended =>
      programEnd_completes hrun hprog hwhy hcmd hheld hfault hmedium hmoves hcores hended,
    fun cid first count c m k q a bucket hcmd hmut hcoll hembed hkind hadmitted hheld hup hpos hmax hchunks hbucket hroom hargs hfree hvecs => ?_⟩
  subst hbucket
  have hbusy : (s.comp.runs.any fun r => match r.why with
      | .embed x a n => x == cid && decide (first < a + n) && decide (a < first + count)
      | _ => false) = false := by
    rw [List.any_eq_false]
    intro x hx
    have hother := List.all_eq_true.mp hfree x hx
    cases hwhy : x.why <;> simp [hwhy] at hother ⊢
  have hruns := State.argTensors_runs hargs
  obtain ⟨t, ht⟩ : ∃ t : State, t.comp = s.comp
      ∧ exec (.embedBatch cid first count) s = .next (t.newRun q (.embed cid first count) q.seed a.2) := by
    apply Exists.intro
    apply And.intro
    rotate_left
    · simp only [exec, execEmbedBatch, hcmd, hmut, hcoll, Option.bind_some, hembed, hargs, hkind, hadmitted, hheld, hup, gt_iff_lt, hpos, hmax, hchunks,
        hroom, hvecs, decide_true, Option.isNone_none, Bool.not_false, Bool.and_self]
      exact congrArg (fun b => event s ((true && !b) && true) _) hbusy
    · exact hruns
  obtain ⟨x, hx, hfor⟩ := t.newRun_runs q (.embed cid first count) q.seed a.2
  exact ⟨_, x, ht.2, hx.trans (congrArg (fun k : Compute => k.runs ++ [x]) ht.1), hfor⟩

end Sys2Proof.Machine
end

section
/-!
PROOFS. GROUP_JOIN, LEND_MEMORY and what follows them (chapters 11 and 12).
-/

namespace Sys2Proof.Machine

/-! ### What the map of a GROUP_JOIN sets on a port -/

/-- The fields of a port that GROUP_JOIN's map sets. -/
def Port.plan (p : Port) : Bool × Bool × Nat × Nat := (p.used, p.enabled, p.farModule, p.farPort)

/-- A change of one port that keeps its planned fields keeps those of every port. -/
theorem map_updAt_keeps {α β : Type} (g : α → β) {f : α → α} (hf : ∀ x, g (f x) = g x) (i : Nat) (l : List α) :
    (updAt i f l).map g = l.map g := by
  apply List.ext_getElem?
  intro j
  simp only [List.getElem?_map, getElem?_updAt]
  split
  · cases l[j]? with
    | none => rfl
    | some x => exact congrArg some (hf x)
  · rfl

theorem State.train_plans (s : State) (p : Nat) : (s.train p).ports.map Port.plan = s.ports.map Port.plan := by
  refine map_updAt_keeps Port.plan (fun x => ?_) _ _
  split <;> rfl

/-- Training a port or greeting over it, as GROUP_JOIN begins. -/
def State.beginPort (s : State) (p : Nat) : State := if s.portState p == 0 then s.train p else if s.portState p == 2 then s.sendHello p else s

theorem State.beginPort_plans (s : State) (p : Nat) : (s.beginPort p).ports.map Port.plan = s.ports.map Port.plan := by
  unfold State.beginPort
  split
  · exact s.train_plans p
  · split <;> rfl

theorem State.beginPort_group (s : State) (p : Nat) : { (s.beginPort p).group with sent := [] } = { s.group with sent := [] } := by
  unfold State.beginPort
  split
  · rfl
  · split <;> rfl

/-- Beginning a port changes the group, the ports and the cages alone. -/
theorem State.beginPort_rest (g : Group) (l : List Port) (c : List Cage) (s : State) (p : Nat) :
    { s.beginPort p with group := g, ports := l, cages := c } = { s with group := g, ports := l, cages := c } := by
  unfold State.beginPort
  split
  · rfl
  · split <;> rfl

/-- A port of a list whose planned fields are known. -/
theorem State.port_plan {s : State} {i : Nat} {x : Bool × Bool × Nat × Nat} (h : (s.ports.map Port.plan)[i]? = some x) : (s.port i).plan = x := by
  rw [List.getElem?_map, Option.map_eq_some_iff] at h
  obtain ⟨p, hp, hplan⟩ := h
  rw [State.port, List.getD_eq_getElem?_getD, hp]
  exact hplan

/-- What the i-th entry of the map plans for the i-th port. -/
def mapPlan (m : Bytes) (i : Nat) : Bool × Bool × Nat × Nat := ((mapEntry m i).2.2 == 1, (mapEntry m i).2.2 == 1, (mapEntry m i).1, (mapEntry m i).2.1)

/-- The ports under the map of a GROUP_JOIN. -/
def State.mapped (s : State) (m : Bytes) : State :=
  { s with ports := (((List.range s.ports.length).zip s.ports).map fun x : Nat × Port =>
             { x.2 with used := (mapEntry m x.1).2.2 == 1, enabled := (mapEntry m x.1).2.2 == 1, farModule := (mapEntry m x.1).1
                        farPort := (mapEntry m x.1).2.1 }).map fun (p : Port) =>
               if p.state ≥ 2 then { p with state := 2, hello := false, trips := [], delay := 0 } else p }

theorem State.mapped_plan {s : State} {m : Bytes} {i : Nat} (hi : i < s.ports.length) :
    ((s.mapped m).ports.map Port.plan)[i]? = some (mapPlan m i) := by
  simp only [State.mapped, List.getElem?_map, List.zip, List.getElem?_zipWith, List.getElem?_range hi, List.getElem?_eq_getElem hi, Option.map_some]
  refine congrArg some ?_
  split <;> rfl

/-- The state in which a GROUP_JOIN has begun, before its ports train. -/
def State.joins (s : State) (m : Bytes) (seq : Nat) : State :=
  { s with group := { s.group with joining := some seq, joinSize := field m 0x28 2, joinIndex := field m 0x2A 2, joinLeader := field m 0x2C 2
                                   ident := field m 0x20 8, measured := [] } }

/-- The ports that a GROUP_JOIN begins: what the map plans stays, of the group only messages are added, and little else changes. -/
def State.begun (s t : State) : Prop :=
  t.ports.map Port.plan = s.ports.map Port.plan ∧ (∃ l, t.group = { s.group with sent := l })
    ∧ t = { s with group := t.group, ports := t.ports, cages := t.cages }

theorem State.begun_foldl (l : List Nat) (s : State) : s.begun (l.foldl State.beginPort s) := by
  generalize ht : l.foldl State.beginPort s = t
  have hgroup := foldl_keeps (fun t : State => ({ t.group with sent := [] } : Group)) State.beginPort_group l s
  have hrest := foldl_keeps (fun u : State => { u with group := t.group, ports := t.ports, cages := t.cages }) (State.beginPort_rest _ _ _) l s
  rw [ht] at hgroup hrest
  refine ⟨?_, ⟨t.group.sent, ?_⟩, hrest⟩
  · rw [← ht]
    exact foldl_keeps (fun t : State => t.ports.map Port.plan) State.beginPort_plans l s
  · exact congrArg (fun g : Group => { g with sent := t.group.sent }) hgroup

section
variable {cells : Bytes}

theorem joinFields_good (hmap : ∀ i < 8, (mapEntry (msgBytes cells) i).2.2 = 1 →
      (mapEntry (msgBytes cells) i).1 < field (msgBytes cells) 0x28 2 ∧ (mapEntry (msgBytes cells) i).2.1 ≤ 7)
    (hsize : 2 ≤ field (msgBytes cells) 0x28 2) (hmax : field (msgBytes cells) 0x28 2 ≤ 512)
    (hindex : field (msgBytes cells) 0x2A 2 < field (msgBytes cells) 0x28 2) (hleader : field (msgBytes cells) 0x2C 2 < field (msgBytes cells) 0x28 2) :
    fieldAt ([(decide (field (msgBytes cells) 0x28 2 < 2) || decide (field (msgBytes cells) 0x28 2 > 512), 0x28),
        (decide (field (msgBytes cells) 0x2A 2 ≥ field (msgBytes cells) 0x28 2), 0x2A),
        (decide (field (msgBytes cells) 0x2C 2 ≥ field (msgBytes cells) 0x28 2), 0x2C)]
      ++ (List.range 8).flatMap fun i =>
        [((mapEntry (msgBytes cells) i).2.2 == 1 && decide ((mapEntry (msgBytes cells) i).1 ≥ field (msgBytes cells) 0x28 2), 0x30 + 4 * i),
         ((mapEntry (msgBytes cells) i).2.2 == 1 && decide ((mapEntry (msgBytes cells) i).2.1 > 7), 0x32 + 4 * i)]) = none := by
  refine fieldAt_none fun x hx => ?_
  obtain hx | hx := List.mem_append.mp hx
  · simp only [List.mem_cons, List.not_mem_nil, or_false] at hx
    obtain rfl | rfl | rfl := hx
    · simpa using ⟨hsize, hmax⟩
    · simpa using hindex
    · simpa using hleader
  · obtain ⟨i, hi, hx⟩ := List.mem_flatMap.mp hx
    simp only [List.mem_cons, List.not_mem_nil, or_false] at hx
    obtain rfl | rfl := hx
    · simpa using fun h => (hmap i (List.mem_range.mp hi) h).1
    · simpa using fun h => (hmap i (List.mem_range.mp hi) h).2

end

/-- What the leader of a forming group does once it has a report. -/
theorem State.tryForm_leading {u : State} (hjoining : u.group.joining.isSome = true) (hlead : u.group.joinLeader = u.group.joinIndex) :
    u.tryForm = if u.allMeasured = true ∧ u.switching = false
      ∧ (∀ m < u.group.joinSize, m ≠ u.group.joinIndex → u.group.measured.contains m = true) then u.propose none else u := by
  unfold State.tryForm
  simp only [hjoining, hlead, beq_self_eq_true, Bool.true_and, Bool.and_eq_true, Bool.not_eq_true', List.all_eq_true, List.mem_filter, List.mem_range,
    bne_iff_ne, and_imp, and_assoc]

/-! ### Loans -/

theorem Mem.get_filter_none {p : Host.Cell → Bool} {a : Nat} (h : ∀ v, p (a, v) = false) (m : List Host.Cell) : Mem.get (m.filter p) a = 0 := by
  induction m with
  | nil => rfl
  | cons c m ih =>
    rw [List.filter_cons]
    split
    · next hp =>
      have hne : c.1 ≠ a := by
        rintro rfl
        rw [h c.2] at hp
        exact Bool.false_ne_true hp
      rw [Mem.get, if_neg (by simpa using hne)]
      exact ih
    · exact ih

/-- What closing loans leaves of the loans and of borrowed memory. -/
theorem State.closeLoans_loans (s : State) (p : Loan → Bool) : (s.closeLoans p).mem.loans = s.mem.loans.filter (fun l => !p l)
    ∧ (s.closeLoans p).mem.t2 = s.mem.t2.filter (fun c => !(s.mem.loans.filter p).any fun l =>
      l.borrow && decide (l.base ≤ c.1) && decide (c.1 < l.base + l.gib * 2 ^ 30)) := by
  have hfree : ∀ t : State, t.freeRegions.mem.loans = t.mem.loans ∧ t.freeRegions.mem.t2 = t.mem.t2 := by
    intro t
    unfold State.freeRegions
    split <;> exact ⟨rfl, rfl⟩
  have hzero : ∀ (t : State) (l : List Nat), (t.zeroRegions l).mem.loans = t.mem.loans ∧ (t.zeroRegions l).mem.t2 = t.mem.t2 := by
    intro t l
    unfold State.zeroRegions
    split <;> exact ⟨rfl, rfl⟩
  have hmem := foldl_keeps (fun s : State => s.mem) (f := fun (s : State) (l : Loan) => s.refuseLater 0x62 l.msg 6 0xFFFFFFFF 0)
    (fun t l => by rw [State.refuseLater_mailOnly t 0x62 l.msg 6 0xFFFFFFFF 0])
  unfold State.closeLoans
  extract_lets gone inGone back s1
  rw [hmem]
  exact ⟨(hfree _).1.trans (hzero _ _).1, (hfree _).2.trans (hzero _ _).2⟩

section
variable {s : State} {cells : Bytes} {host : HostImage}

/-- A LEND_MEMORY of one kind that the device takes, of a member for another one, has that kind's effect. -/
theorem lendEvent_acts {t : State} {kind : Nat} {reserved : List (Nat × Nat × Nat)} {run : State → Nat → Nat → Nat → Nat → State}
    (hkind : byteAt (msgBytes cells) 0x20 = kind) (hle : kind ≤ 2) (htakes : s.takes .lendMemory cells ((0x26, 10, 0xFF) :: reserved) = true)
    (hwindow : kind ≠ 0 → byteAt (msgBytes cells) 0x21 ≤ 15)
    (hgib : kind ≠ 2 → 0 < field (msgBytes cells) 0x22 2 ∧ field (msgBytes cells) 0x22 2 ≤ 256) (hmember : s.groupMember = true)
    (hpeer : field (msgBytes cells) 0x24 2 < s.group.size) (hother : field (msgBytes cells) 0x24 2 ≠ s.group.index)
    (hrun : run (s.takeMessage .lendMemory cells) (seqOf cells) (byteAt (msgBytes cells) 0x21) (field (msgBytes cells) 0x22 2)
      (field (msgBytes cells) 0x24 2) = t) (hflag : t.regs.shelter = s.regs.shelter) :
    lendEvent s cells kind reserved run = .next t := by
  have hknown : ¬ byteAt (msgBytes cells) 0x20 > 2 := by omega
  rw [lendEvent, if_neg hknown]
  refine messageEvent_acts_kind ?_ htakes (fieldAt_none ?_) ?_ hflag
  · simp [hkind]
  · intro x hx
    simp only [List.mem_cons, List.not_mem_nil, or_false] at hx
    obtain rfl | rfl | rfl := hx
    · simpa using hknown
    · simpa using fun h => hwindow h
    · simpa using fun h => ⟨Nat.pos_iff_ne_zero.mp (hgib h).1, (hgib h).2⟩
  · refine Eq.trans (if_neg ?_) hrun
    change ¬ (!s.groupMember || decide (field (msgBytes cells) 0x24 2 ≥ s.group.size) || field (msgBytes cells) 0x24 2 == s.group.index) = true
    simp [hmember, hpeer, hother]

/-- An offer that has room, of regions that open, has them zeroed and kept for their borrower. -/
theorem lendOffer_opens {v : State} {r : Nat} (hkind : byteAt (msgBytes cells) 0x20 = 0)
    (htakes : s.takes .lendMemory cells [(0x26, 10, 0xFF), (0x21, 1, 0xFF)] = true) (hpos : 0 < field (msgBytes cells) 0x22 2)
    (hmax : field (msgBytes cells) 0x22 2 ≤ 256) (hmember : s.groupMember = true) (hpeer : field (msgBytes cells) 0x24 2 < s.group.size)
    (hother : field (msgBytes cells) 0x24 2 ≠ s.group.index) (hroom : s.lentGib + field (msgBytes cells) 0x22 2 ≤ 256)
    (hfree : (s.takeMessage .lendMemory cells).freeRun (field (msgBytes cells) 0x22 2) = some r)
    (hopen : State.openRun (field (msgBytes cells) 0x22 2) r (s.takeMessage .lendMemory cells) = some v) :
    exec (.lendMemoryOffer cells host) s = .next ({ v.zeroRegions ((List.range (field (msgBytes cells) 0x22 2)).map (r + ·)) with
      mem.offers := v.mem.offers ++ [(field (msgBytes cells) 0x22 2, field (msgBytes cells) 0x24 2,
        (List.range (field (msgBytes cells) 0x22 2)).map (r + ·))] }.reply 0x62 (seqOf cells) (zeros 16)) := by
  have hregs : v.regs = s.regs := (State.openRun_layoutOnly hopen).regs_eq
  simp only [exec, execLendMemoryOffer]
  refine lendEvent_acts hkind (by decide) htakes (fun h => absurd rfl h) (fun _ => ⟨hpos, hmax⟩) hmember hpeer hother ?_ (State.reply_flag ?_ _ _ _)
  · have hfits : ¬ (s.takeMessage .lendMemory cells).lentGib + field (msgBytes cells) 0x22 2 > 256 := Nat.not_lt.mpr hroom
    simp only [hfits, if_false, hfree, Option.bind_some, hopen, Option.map_some]
  · exact (State.zeroRegions_workOnly v _).shelter.trans (congrArg (·.shelter) hregs)

end

/-! ### The obligation -/

theorem groupJoin_begins {s : State} {cells : Bytes} {host : HostImage} (hmap : ∀ i < 8, (mapEntry (msgBytes cells) i).2.2 = 1 →
      (mapEntry (msgBytes cells) i).1 < field (msgBytes cells) 0x28 2 ∧ (mapEntry (msgBytes cells) i).2.1 ≤ 7)
    (htakes : s.takes .groupJoin cells ((0x2E, 2, 0xFF) :: (List.range 8).flatMap fun i => (0x33 + 4 * i, 1, 0xFE)
      :: (if (mapEntry (msgBytes cells) i).2.2 = 0 then [(0x30 + 4 * i, 3, 0xFF)] else [])) = true)
    (hsize : 2 ≤ field (msgBytes cells) 0x28 2) (hmax : field (msgBytes cells) 0x28 2 ≤ 512)
    (hindex : field (msgBytes cells) 0x2A 2 < field (msgBytes cells) 0x28 2) (hleader : field (msgBytes cells) 0x2C 2 < field (msgBytes cells) 0x28 2)
    (hmember : s.groupMember = false) (hjoining : s.group.joining = none)
    (hready : (s.staged.any fun t => t.size == field (msgBytes cells) 0x28 2 && !t.single) = true) (hsw : s.switching = false) :
    ∃ t, exec (.groupJoin cells host) s = .next t
      ∧ (((s.takeMessage .groupJoin cells).joins (msgBytes cells) (seqOf cells)).mapped (msgBytes cells)).begun t := by
  have hbegun := State.begun_foldl (List.range 8) (((s.takeMessage .groupJoin cells).joins (msgBytes cells) (seqOf cells)).mapped (msgBytes cells))
  refine ⟨_, messageEvent_acts ?_ (joinFields_good hmap hsize hmax hindex hleader) ?_ ?_, hbegun⟩
  · refine Eq.trans (congrArg (s.takes .groupJoin cells) ?_) htakes
    simp only [beq_iff_eq]
  · refine if_neg ?_
    change ¬ (s.groupMember || s.group.joining.isSome || !(s.staged.any fun t => t.size == field (msgBytes cells) 0x28 2 && !t.single)
      || s.switching) = true
    simp [hmember, hjoining, hready, hsw]
  · rw [hbegun.2.2]
    rfl

/-- Settles O36: each message's and event's effect, by the lemmas above. -/
theorem groupMessagesAct : Obligations.GroupMessagesAct := by
  intro s u cells host
  refine ⟨fun hmap htakes hsize hmax hindex hleader hmember hjoining hready hsw => ?_,
    fun v r hkind htakes hpos hmax hmember hpeer hother hu hroom hfree hopen => ?_,
    fun x hkind htakes hwindow hpos hmember hpeer hother hroom hnone hx => ?_,
    fun l hkind htakes hwindow hmember hpeer hother hloans hwin hlpeer => ?_,
    fun port msg hport hstate hjoining hlead hlen hmsg hu => ?_,
    fun seq hjoining hsw => ?_,
    fun window l hloans hwin hstop => ?_⟩
  · obtain ⟨t, hstep, hplans, ⟨l, hgroup⟩, hrest⟩ := groupJoin_begins hmap htakes hsize hmax hindex hleader hmember hjoining hready hsw
    refine ⟨t, hstep, ?_, ?_, ?_, ?_, ?_, ?_, ?_, fun i _ hi => ?_, hrest⟩
    case refine_8 =>
      have hplan := State.port_plan ((congrArg (·[i]?) hplans).trans (State.mapped_plan hi))
      simpa [Port.plan, mapPlan] using hplan
    all_goals rw [hgroup]; rfl
  · subst hu
    exact lendOffer_opens hkind htakes hpos hmax hmember hpeer hother hroom hfree hopen
  · subst hx
    simp only [exec, execLendMemoryBorrow]
    refine lendEvent_acts hkind (by decide) htakes (fun _ => hwindow) (fun _ => ⟨hpos, by omega⟩) hmember hpeer hother ?_
      ((State.announce_shelter _ _ _).trans rfl)
    refine (if_neg ?_).trans (if_neg ?_)
    · change ¬ (s.mem.loans.any fun l => l.borrow && l.window == byteAt (msgBytes cells) 0x21) = true
      simp [hnone]
    · refine Nat.not_lt.mpr ?_
      change ((s.mem.loans ++ [_]).map _).sum ≤ 256
      rw [List.map_append, List.sum_append]
      exact hroom
  · simp only [exec, execLendMemoryEnd]
    refine lendEvent_acts hkind (by decide) htakes (fun _ => hwindow) (fun h => absurd rfl h) hmember hpeer hother ?_
      (State.reply_flag ((State.announce_shelter _ _ _).trans rfl) _ _ _)
    rw [← hwin, ← hlpeer]
    have hfind : (s.takeMessage .lendMemory cells).mem.loans.find? (fun x => x.window == l.window && x.peer == l.peer) = some l := by
      rw [show (s.takeMessage .lendMemory cells).mem.loans = [l] from hloans]
      simp
    have hupd : ∀ r, updWhere (fun x : Loan => x.window == l.window && x.peer == l.peer) ({ · with stop := some r })
        (s.takeMessage .lendMemory cells).mem.loans = [{ l with stop := some r }] := by
      intro r
      rw [show (s.takeMessage .lendMemory cells).mem.loans = [l] from hloans]
      simp [updWhere]
    simp only [hfind, hupd]
    rfl
  · subst hu
    have hok : (decide (port < 8) && decide (s.portState port ≥ 2) && s.group.joining.isSome && s.group.joinLeader == s.group.joinIndex
        && msg.length == 32 && decide (field msg 2 2 < s.group.joinSize)) = true := by
      simp [hport, hstate, hjoining, hlead, hlen, hmsg]
    exact (congrArg (fun b => event s b _) hok).trans (congrArg Host.Outcome.next (State.tryForm_leading hjoining hlead))
  · simp only [exec, execGroupFormationTimeout, hjoining, hsw, Bool.not_false, event_true]
  · have hgone : (l.window == window && l.stop.any fun r => decide (r ≤ s.clock.round)) = true := by simp [hwin, hstop]
    obtain ⟨hleft, ht2⟩ := s.closeLoans_loans fun l : Loan => l.window == window && l.stop.any fun r => decide (r ≤ s.clock.round)
    simp only [hloans, List.filter_cons, List.filter_nil, hgone, Bool.not_true, Bool.false_eq_true, if_false, if_true, List.any_cons, List.any_nil,
      Bool.or_false] at hleft ht2
    have hstep : exec (.lendWindowClose window) s
        = .next (s.closeLoans fun l : Loan => l.window == window && l.stop.any fun r => decide (r ≤ s.clock.round)) := by
      simp only [exec, execLendWindowClose, hloans, List.any_cons, hgone, Bool.true_or, event_true]
    refine ⟨_, hstep, hleft, fun hborrow _ a hlo hhi => ?_, fun hborrow => ?_⟩
    · rw [ht2]
      exact Mem.get_filter_none (fun v => by rw [hborrow, decide_eq_true hlo, decide_eq_true hhi]; rfl) _
    · rw [ht2]
      simp [hborrow]

end Sys2Proof.Machine
end

section
/-!
PROOFS. Ports and cages (chapter 12).
-/

namespace Sys2Proof.Machine

/-! ### A port after a change of one -/

section
variable {s : State} {p k : Nat} {f : Port → Port}

theorem State.portState_eq (s : State) (p : Nat) : s.portState p = (s.port p).state := List.getD_map s.ports Port.down Port.state

theorem State.getElem?_ports (h : p < s.ports.length) : s.ports[p]? = some (s.port p) := by
  rw [State.port, List.getD_eq_getElem _ _ h, List.getElem?_eq_getElem h]

theorem State.port_updPort_same (h : p < s.ports.length) (f : Port → Port) : (s.updPort p f).port p = f (s.port p) := by
  rw [State.port, State.updPort, List.getD_eq_getElem?_getD, getElem?_updAt, if_pos rfl, State.getElem?_ports h]
  rfl

theorem State.port_updPort_other (h : k ≠ p) (f : Port → Port) : (s.updPort p f).port k = s.port k := by
  rw [State.port, State.updPort, List.getD_eq_getElem?_getD, getElem?_updAt, if_neg (Ne.symm h), ← List.getD_eq_getElem?_getD]
  rfl

theorem State.portState_updPort_other (h : k ≠ p) (f : Port → Port) : (s.updPort p f).portState k = s.portState k := by
  rw [State.portState_eq, State.portState_eq, State.port_updPort_other h]

/-- Two changes of a port are one. -/
theorem State.updPort_updPort (s : State) (p : Nat) (f g : Port → Port) : (s.updPort p f).updPort p g = s.updPort p (fun x => g (f x)) := by
  simp only [State.updPort, updAt, List.modify_modify_eq]
  rfl

/-- A change of a port counts by what it makes of that port. -/
theorem State.updPort_congr {f g : Port → Port} (h : p < s.ports.length) (hfg : f (s.port p) = g (s.port p)) : s.updPort p f = s.updPort p g := by
  have hports : (s.updPort p f).ports = (s.updPort p g).ports := by
    refine List.ext_getElem? fun j => ?_
    simp only [State.updPort, getElem?_updAt]
    split
    · next hj =>
      rw [← hj, State.getElem?_ports h]
      exact congrArg some hfg
    · rfl
  exact congrArg (fun l => { s with ports := l }) hports

/-- A field of every cage, at a cage that was changed. -/
theorem getD_map_updAt {α β : Type} {l : List α} {i : Nat} (h : i < l.length) (f : α → α) (g : α → β) (d : β) :
    ((updAt i f l).map g).getD i d = g (f l[i]) := by
  rw [List.getD_eq_getElem?_getD, List.getElem?_map, getElem?_updAt, if_pos rfl, List.getElem?_eq_getElem h]
  rfl

end

/-! ### What a port that goes down leaves -/

/-- What stays when loans are closed: the ports, the cages, the numbering of records and shelter mode. -/
def State.outside (s : State) : List Port × List Cage × Nat × Nat × Bool :=
  (s.ports, s.cages, s.errors.seq, s.errors.queue.length, s.regs.shelter)

theorem State.sendReports_length (l : List ErrRec) (s : State) : (State.sendReports l s).errors.queue.length = s.errors.queue.length := by
  induction l generalizing s with
  | nil => rfl
  | cons r l ih =>
    unfold State.sendReports
    split
    · exact ih s
    · split
      · rw [ih]
        simp only [State.putMessage_errors, updWhere, List.length_map]
      · rfl

theorem State.flushMail_outside (s : State) : s.flushMail.outside = s.outside := by
  have hlen : s.flushMail.errors.queue.length = s.errors.queue.length := by
    unfold State.flushMail
    split
    · rfl
    · dsimp only
      split
      · rw [State.sendReports_length, State.drainQueue_errors]
      · rw [State.drainQueue_errors]
  have hseq : s.flushMail.errors.seq = s.errors.seq := by rw [State.flushMail_errors]
  rw [State.outside, State.outside, hlen, hseq, s.flushMail_mailOnly]

theorem State.refuseLater_outside (s : State) (type : Nat) (seq : Option Nat) (code off reason : Nat) :
    (s.refuseLater type seq code off reason).outside = s.outside := by
  unfold State.refuseLater
  split
  · rfl
  · split
    · unfold State.refuse State.send
      split
      · rfl
      · exact State.flushMail_outside _
    · rfl

theorem State.workOnly.outside {s t : State} (h : s.workOnly t) : t.outside = s.outside := by
  rw [h]
  rfl

theorem State.closeLoans_outside (s : State) (p : Loan → Bool) : (s.closeLoans p).outside = s.outside := by
  unfold State.closeLoans
  exact (foldl_keeps State.outside (fun _ _ => State.refuseLater_outside _ _ _ _ _ _) _ _).trans
    ((State.freeRegions_workOnly _).outside.trans (State.zeroRegions_workOnly _ _).outside)

/-- A port as it goes DOWN. -/
def Port.lowered (x : Port) : Port :=
  { x with state := 0, hello := false, trips := [], delay := 0, lost := 0, nacks := [], kept := [], timedAt := none }

theorem State.portDown_outside (s : State) (p : Nat) : (s.portDown p).outside = (s.updPort p Port.lowered).outside := by
  unfold State.portDown
  dsimp only
  split
  · refine (State.closeLoans_outside _ _).trans ?_
    unfold State.announce
    split <;> rfl
  · rfl

theorem State.portDown_ports (s : State) (p : Nat) : (s.portDown p).ports = (s.updPort p Port.lowered).ports :=
  congrArg (·.1) (s.portDown_outside p)

theorem State.portDown_length (s : State) (p : Nat) : (s.portDown p).ports.length = s.ports.length := by
  rw [State.portDown_ports]
  exact List.length_modify _ _ _

theorem State.portDown_portState_same {s : State} {p : Nat} (h : p < s.ports.length) : (s.portDown p).portState p = 0 := by
  rw [State.portState, State.portDown_ports, ← State.portState, State.portState_eq, State.port_updPort_same h]
  rfl

theorem State.portDown_portState_other {s : State} {p k : Nat} (h : k ≠ p) : (s.portDown p).portState k = s.portState k := by
  rw [State.portState, State.portDown_ports, ← State.portState, State.portState_updPort_other h]

theorem State.train_portState_other {s : State} {p k : Nat} (h : k ≠ p) : (s.train p).portState k = s.portState k :=
  State.portState_updPort_other (s := s) h _

theorem State.train_portState_le {s : State} {p : Nat} (h : p < s.ports.length) : (s.train p).portState p ≤ 1 := by
  refine Eq.trans_le ((State.portState_eq _ _).trans (congrArg Port.state (State.port_updPort_same (s := s) h _))) ?_
  split
  · exact Nat.le_refl 1
  · exact Nat.zero_le 1

/-- Both ports of a cage go DOWN. -/
def State.cageDown (s : State) (cage : Nat) : State := (s.portDown (2 * cage)).portDown (2 * cage + 1)

theorem State.cageDown_portState {s : State} {cage : Nat} (hcage : cage < 4) (hports : s.ports.length = 8) :
    (s.cageDown cage).portState (2 * cage) = 0 ∧ (s.cageDown cage).portState (2 * cage + 1) = 0 := by
  refine ⟨(State.portDown_portState_other (by omega)).trans (State.portDown_portState_same (by omega)), State.portDown_portState_same ?_⟩
  rw [State.portDown_length]
  omega

theorem State.portDown_rest (s : State) (p : Nat) : (s.portDown p).outside.2 = s.outside.2 :=
  (congrArg Prod.snd (s.portDown_outside p)).trans rfl

theorem State.cageDown_rest (s : State) (cage : Nat) : (s.cageDown cage).cages = s.cages ∧ (s.cageDown cage).errors.seq = s.errors.seq
    ∧ (s.cageDown cage).errors.queue.length = s.errors.queue.length ∧ (s.cageDown cage).regs.shelter = s.regs.shelter := by
  simpa only [State.outside, Prod.mk.injEq, State.cageDown] using ((s.portDown (2 * cage)).portDown_rest (2 * cage + 1)).trans (s.portDown_rest (2 * cage))

/-! ### Faults of ports and cages -/

theorem State.record_ports (s : State) (a : RecArgs) : (s.record a).ports = s.ports := by
  rw [s.record_recordOnly a]

theorem State.record_cages (s : State) (a : RecArgs) : (s.record a).cages = s.cages := by
  rw [s.record_recordOnly a]

/-- A record of a cage deepens no unit. -/
theorem State.struck_cage (s : State) (cage : Nat) : s.struck { code := 0x0030, severity := 2, unitKind := 11, unit := cage } = [] := rfl

/-! ### Each event -/

section
variable {s : State} {port : Nat} (hport : port < 8) (hports : s.ports.length = 8)
include hport hports

theorem blockLock_locks (hstate : s.portState port = 1) : ∃ t, exec (.blockLock port) s = .next t ∧ t.portState port = 2
    ∧ (∀ k : Nat, k ≠ port → t.portState k = s.portState k) ∧ t.group.sent.length = s.group.sent.length + 1 := by
  have hstep : exec (.blockLock port) s
      = .next ((s.updPort port fun x => { x with state := 2, hello := false, trips := [], delay := 0 }).sendHello port) := by
    simp only [exec, execBlockLock, hport, hstate, decide_true, beq_self_eq_true, Bool.and_self, event_true]
  refine ⟨_, hstep, ?_, fun k hk => State.portState_updPort_other (s := s) hk _, rfl⟩
  exact (State.portState_eq _ _).trans (congrArg Port.state (State.port_updPort_same (s := s) (by omega) _))

theorem blockLockLoss_lowers (hstate : s.portState port = 4) : ∃ t, exec (.blockLockLoss port) s = .next t ∧ t.portState port ≤ 1
    ∧ ∀ k : Nat, k ≠ port → t.portState k = s.portState k := by
  have hstep : exec (.blockLockLoss port) s = .next ((s.portDown port).train port) := by
    simp only [exec, execBlockLockLoss, hport, hstate, decide_true, beq_self_eq_true, Bool.and_self, event_true]
  refine ⟨_, hstep, State.train_portState_le ?_, fun k hk => (State.train_portState_other hk).trans (State.portDown_portState_other hk)⟩
  rw [State.portDown_length]
  omega

theorem linkHello_greets (hstate : s.portState port = 2) (hused : (s.port port).used = true) (htrips : (s.port port).trips.length < 64) :
    exec (.linkHello port s.group.ident (s.port port).farModule (s.port port).farPort) s
      = .next (s.updPort port fun x => { x with hello := true }) := by
  have hone : ((s.updPort port fun x => { x with hello := true }).port port).oneWay = none := by
    rw [State.port_updPort_same (by omega), Port.oneWay]
    exact if_neg (Nat.not_le.mpr htrips)
  have hmeasure : (s.updPort port fun x => { x with hello := true }).tryMeasure port = s.updPort port fun x => { x with hello := true } := by
    simp only [State.tryMeasure, hone]
  simp only [exec, execLinkHello, hport, hstate, hused, hmeasure, decide_true, beq_self_eq_true, Bool.and_self, Bool.true_or, if_true, event_true]
  exact congrArg Host.Outcome.next (State.settled_same rfl)

theorem linkHello_rejects {g m f : Nat} (hstate : s.portState port = 2 ∨ s.portState port = 3) (hident : g ≠ s.group.ident)
    (hdepths : s.errors.depths = []) (hroom : s.errors.queue.length < 64) : ∃ t, exec (.linkHello port g m f) s = .next t
      ∧ t.portState port = 2 ∧ (t.ports.map (·.hello)).getD port true = false ∧ t.errors.seq = s.errors.seq + 1 := by
  obtain ⟨hflag, hseq⟩ := State.record_fresh (s := s.updPort port fun x => { x with state := 2, hello := false })
    (a := { code := 0x0030, severity := 2, unitKind := 10, unit := port }) hdepths (Nat.lt_succ_self 2)
  have hup : (s.portState port == 2 || s.portState port == 3) = true := by simpa using hstate
  have hstep : exec (.linkHello port g m f) s = .next ((s.updPort port fun x => { x with state := 2, hello := false }).portFault 10 port) := by
    simp only [exec, execLinkHello, hport, hup, beq_eq_false_iff_ne.mpr hident, decide_true, Bool.and_self, Bool.and_false, Bool.false_and,
      Bool.false_eq_true, if_false, event_true]
    exact congrArg Host.Outcome.next (State.settled_same hflag)
  have hget := State.port_updPort_same (s := s) (p := port) (by omega) fun x => { x with state := 2, hello := false }
  refine ⟨_, hstep, ?_, ?_, hseq hroom⟩
  · rw [State.portState, State.portFault, State.record_ports, ← State.portState, State.portState_eq, hget]
  · rw [State.portFault, State.record_ports, List.getD_eq_getElem?_getD, List.getElem?_map, State.getElem?_ports, hget]
    · rfl
    · exact (List.length_modify _ _ _).trans_gt (by omega)

variable {tx rx arrival : Nat} {l : List Nat} (hparent : s.group.parent ≠ some port)
  (hl : l = ((s.port port).trips ++ ((s.port port).roundTrip tx rx arrival).toList).drop ((s.port port).trips.length + 1 - 64))
include hparent hl

/-- A TIME_SYNC that is not the time parent's notes its exchange and measures where it can. -/
theorem timeSync_notes {g : Port → Port} (hup : 2 ≤ s.portState port)
    (hmeasure : (s.updPort port fun x => { x with lastTx := tx, lastRx := arrival, trips := l }).tryMeasure port = s.updPort port g) :
    exec (.timeSync port tx rx arrival) s = .next (s.updPort port g) := by
  have hcorrect : (s.updPort port g).correct port tx arrival = s.updPort port g := if_neg (by simpa [State.updPort] using hparent)
  have hsync : (s.updPort port fun x =>
      { x with lastTx := tx, lastRx := arrival, trips := (x.trips ++ (x.roundTrip tx rx arrival).toList).drop (x.trips.length + 1 - 64) })
      = s.updPort port fun x => { x with lastTx := tx, lastRx := arrival, trips := l } := by
    subst hl
    exact State.updPort_congr (by omega) rfl
  simp only [exec, execTimeSync, hport, hup, decide_true, Bool.and_self, event_true, hsync, hmeasure, hcorrect]
  exact congrArg Host.Outcome.next (State.settled_same rfl)

theorem timeSync_timed (hstate : s.portState port = 4) : exec (.timeSync port tx rx arrival) s
    = .next (s.updPort port fun x => { x with lastTx := tx, lastRx := arrival, trips := l }) := by
  have hget := State.port_updPort_same (s := s) (p := port) (by omega) fun x => { x with lastTx := tx, lastRx := arrival, trips := l }
  have hmeasure : (s.updPort port fun x => { x with lastTx := tx, lastRx := arrival, trips := l }).tryMeasure port
      = s.updPort port fun x => { x with lastTx := tx, lastRx := arrival, trips := l } := by
    have htimed : (s.port port).state = 4 := (s.portState_eq port).symm.trans hstate
    simp only [State.tryMeasure, hget]
    split
    · rfl
    · exact if_pos (by rw [htimed]; rfl)
  exact timeSync_notes hport hports hparent hl (by omega) hmeasure

theorem timeSync_measures (hstate : s.portState port = 2) (hhello : (s.port port).hello = true) (hlen : l.length = 64) (hsum : l.sum ≤ 128 * 8000)
    (hjoining : s.group.joining = none) (hmember : s.groupMember = false) : exec (.timeSync port tx rx arrival) s
      = .next (s.updPort port fun x => { x with lastTx := tx, lastRx := arrival, trips := l, state := 3, delay := l.sum / 128 }) := by
  have hget := State.port_updPort_same (s := s) (p := port) (by omega) fun x => { x with lastTx := tx, lastRx := arrival, trips := l }
  have hlocked : (s.port port).state = 2 := (s.portState_eq port).symm.trans hstate
  have honMeasured (t : State) (ht : t.group = s.group) : t.onMeasured port = t := by
    have hmember' : t.groupMember = false := by rw [State.groupMember, ht]; exact hmember
    simp only [State.onMeasured, hmember', ht, hjoining, Option.isSome_none, Bool.false_and, Bool.false_eq_true, if_false]
  have hmeasure : (s.updPort port fun x => { x with lastTx := tx, lastRx := arrival, trips := l }).tryMeasure port
      = s.updPort port fun x => { x with lastTx := tx, lastRx := arrival, trips := l, state := 3, delay := l.sum / 128 } := by
    simp only [State.tryMeasure, hget, Port.oneWay, hlen, hlocked, hhello, Nat.not_lt.mpr hsum, ge_iff_le, Nat.le_refl, if_true, bne_self_eq_false,
      Bool.false_eq_true, if_false, State.updPort_updPort]
    exact honMeasured _ rfl
  exact timeSync_notes hport hports hparent hl (by omega) hmeasure

end

/-! ### Cages -/

/-- A module as its map is read. -/
def CageInfo.read (info : CageInfo) (n : Nat) (low : Bool) : Cage :=
  { module := true, ident := info.ident, powerClass := info.powerClass, lanes := info.lanes, temp := info.temp, txPower := info.txPower
    rxPower := info.rxPower, txDisable := 255, appSelect := n, lowPower := low }

/-- The fields of a cage that its module's map gives. -/
def Cage.told (c : Cage) : Bool × Nat × Nat × Bool := (c.module, c.ident, c.powerClass, c.lowPower)

theorem State.endRecovery_cages (s : State) (u : Nat × Nat) : (s.endRecovery u).cages = s.cages := rfl

theorem State.endRecovery_portState (s : State) (u : Nat × Nat) (p : Nat) : (s.endRecovery u).portState p = s.portState p := rfl

theorem State.train_errors (s : State) (p : Nat) : (s.train p).errors = s.errors := rfl

theorem State.train_told (s : State) (p : Nat) : (s.train p).cages.map Cage.told = s.cages.map Cage.told := by
  refine map_updAt_keeps Cage.told ?_ _ _
  exact fun _ => rfl

section
variable {s : State} {cage : Nat} (hcage : cage < 4) (hcages : s.cages.length = 4) (hports : s.ports.length = 8)
include hcage hcages

include hports in
theorem cageModuleRemoved_empties (hmodule : (s.cages.map (·.module)).getD cage false = true) : ∃ t, exec (.cageModuleRemoved cage) s = .next t
    ∧ (t.cages.map (·.module)).getD cage true = false ∧ t.portState (2 * cage) = 0 ∧ t.portState (2 * cage + 1) = 0 := by
  have hsame := (s.cageDown_rest cage).1
  obtain ⟨hdown, hdown'⟩ := State.cageDown_portState hcage hports
  have hstep : exec (.cageModuleRemoved cage) s
      = .next (((({ s.cageDown cage with cages := updAt cage (fun _ => Cage.empty) (s.cageDown cage).cages }.endRecovery (10, 2 * cage)).endRecovery
        (10, 2 * cage + 1)).endRecovery (11, cage))) := by
    simp only [exec, execCageModuleRemoved, hcage, hmodule, decide_true, Bool.and_self, event_true]
    rfl
  refine ⟨_, hstep, ?_, ?_, ?_⟩
  · simp only [State.endRecovery_cages]
    exact (getD_map_updAt (l := (s.cageDown cage).cages) (i := cage) (by rw [hsame]; omega) (fun _ => Cage.empty) (·.module) true).trans rfl
  · simp only [State.endRecovery_portState]
    exact hdown
  · simp only [State.endRecovery_portState]
    exact hdown'

include hports in
theorem cmisHighAlarm_lowers (hmodule : (s.cages.map (·.module)).getD cage false = true) (hroom : s.errors.queue.length < 64) :
    ∃ t, exec (.cmisHighAlarm cage) s = .next t ∧ (t.cages.map (·.lowPower)).getD cage false = true ∧ t.portState (2 * cage) = 0
      ∧ t.portState (2 * cage + 1) = 0 ∧ t.errors.seq = s.errors.seq + 1 := by
  obtain ⟨hsame, hseq, hlen, hflag⟩ := s.cageDown_rest cage
  generalize hu : ({ s.cageDown cage with cages := updAt cage ({ · with lowPower := true, txDisable := 255 }) (s.cageDown cage).cages } : State) = u
  have hstep : exec (.cmisHighAlarm cage) s = .next (u.portFault 11 cage) := by
    simp only [exec, execCmisHighAlarm, hcage, hmodule, decide_true, Bool.and_self, event_true]
    subst hu
    exact congrArg Host.Outcome.next (State.settled_same ((State.record_shelter_of_mild (State.struck_cage _ cage) (Nat.lt_succ_self 2)).trans hflag))
  obtain ⟨hdown, hdown'⟩ := State.cageDown_portState hcage hports
  refine ⟨_, hstep, ?_, ?_, ?_, ?_⟩
  · rw [State.portFault, State.record_cages]
    subst hu
    exact getD_map_updAt (by rw [hsame]; omega) _ _ _
  · rw [State.portState, State.portFault, State.record_ports]
    subst hu
    exact hdown
  · rw [State.portState, State.portFault, State.record_ports]
    subst hu
    exact hdown'
  · rw [State.portFault, State.record_seq_of_mild (State.struck_cage _ cage) (Nat.lt_succ_self 2)] <;> subst hu
    · exact congrArg (· + 1) hseq
    · exact hlen.trans_lt hroom

theorem cageModuleInserted_reads (info : CageInfo) (hempty : (s.cages.map (·.module)).getD cage true = false) :
    ∃ t, exec (.cageModuleInserted cage info) s = .next t
        ∧ (t.cages.map (·.module)).getD cage false = true ∧ (t.cages.map (·.ident)).getD cage 0 = info.ident
        ∧ (t.cages.map (·.powerClass)).getD cage 0 = info.powerClass
        ∧ (t.cages.map (·.lowPower)).getD cage false = (decide (info.powerClass > 4) || s.regs.shelter)
        ∧ (info.powerClass ≤ 4 → t.errors = s.errors)
        ∧ (info.powerClass > 4 → s.errors.depths = [] → s.errors.queue.length < 64 → t.errors.seq = s.errors.seq + 1 ∧ t.ports = s.ports) := by
  generalize hu : ({ s.draw 1 with cages := updAt cage (fun _ => info.read (Config.freeNat s.free % 16) (decide (info.powerClass > 4) || s.regs.shelter)) s.cages } : State) = u
  have hread : ∀ t : State, t.cages.map Cage.told = u.cages.map Cage.told →
      (t.cages.map (·.module)).getD cage false = true ∧ (t.cages.map (·.ident)).getD cage 0 = info.ident
        ∧ (t.cages.map (·.powerClass)).getD cage 0 = info.powerClass
        ∧ (t.cages.map (·.lowPower)).getD cage false = (decide (info.powerClass > 4) || s.regs.shelter) := by
    intro t ht
    have hcage' : (t.cages.map Cage.told)[cage]? = some (true, info.ident, info.powerClass, decide (info.powerClass > 4) || s.regs.shelter) := by
      subst hu
      rw [ht, List.getElem?_map, getElem?_updAt, if_pos rfl, List.getElem?_eq_getElem (by omega)]
      rfl
    rw [List.getElem?_map, Option.map_eq_some_iff] at hcage'
    obtain ⟨c, hc, htold⟩ := hcage'
    simp only [List.getD_eq_getElem?_getD, List.getElem?_map, hc, Option.map_some, Option.getD_some]
    simpa only [Cage.told, Prod.mk.injEq] using htold
  have hflag : u.regs.shelter = s.regs.shelter := by subst hu; rfl
  by_cases hclass : info.powerClass > 4
  · have hfault : (u.portFault 11 cage).regs.shelter = s.regs.shelter :=
      (State.record_shelter_of_mild (State.struck_cage u cage) (Nat.lt_succ_self 2)).trans hflag
    have hstep : exec (.cageModuleInserted cage info) s = .next (u.portFault 11 cage) := by
      simp only [exec, execCageModuleInserted, hcage, hempty, hclass, decide_true, Bool.true_or, Bool.not_false, Bool.and_self, if_true, event_true]
      subst hu
      simp only [hclass, decide_true, Bool.true_or] at hfault ⊢
      exact congrArg Host.Outcome.next (State.settled_same hfault)
    obtain ⟨h1, h2, h3, h4⟩ := hread (u.portFault 11 cage) (congrArg (List.map Cage.told) (State.record_cages u _))
    refine ⟨_, hstep, h1, h2, h3, h4, fun h => absurd hclass (by omega), fun _ _ hroom => ⟨?_, ?_⟩⟩
    · rw [State.portFault, State.record_seq_of_mild (State.struck_cage _ cage) (Nat.lt_succ_self 2)] <;> subst hu
      · rfl
      · exact hroom
    · rw [State.portFault, State.record_ports]
      subst hu
      rfl
  · have hstep : exec (.cageModuleInserted cage info) s = .next ((u.train (2 * cage)).train (2 * cage + 1)) := by
      simp only [exec, execCageModuleInserted, hcage, hempty, hclass, decide_true, decide_false, Bool.false_or, Bool.not_false, Bool.and_self, if_false,
        event_true]
      subst hu
      simp only [hclass, decide_false, Bool.false_or]
      exact congrArg Host.Outcome.next (State.settled_same rfl)
    obtain ⟨h1, h2, h3, h4⟩ := hread _ ((State.train_told _ (2 * cage + 1)).trans (State.train_told u (2 * cage)))
    refine ⟨_, hstep, h1, h2, h3, h4, fun _ => ?_, fun h => absurd h hclass⟩
    rw [State.train_errors, State.train_errors, ← hu]
    rfl

end

/-- Settles O54: each event's effect, by its own lemma. -/
theorem portEventsAct : Obligations.PortEventsAct := by
  intro s port hport hports
  refine ⟨fun hstate => ⟨blockLock_locks hport hports hstate, ?_⟩, fun hstate hretry => ?_, blockLockLoss_lowers hport hports,
    fun blockSeq block flits hstate hlost => ?_,
    fun m f hstate hused hm hf htrips => ?_,
    fun g m f hstate hident hdepths hroom => linkHello_rejects hport hports hstate hident hdepths hroom,
    fun tx rx arrival l hparent hl => ⟨timeSync_timed hport hports hparent hl, timeSync_measures hport hports hparent hl⟩,
    fun cage hcage hcages => ⟨fun info hempty => cageModuleInserted_reads hcage hcages info hempty, fun hmodule =>
      ⟨cageModuleRemoved_empties hcage hcages hports hmodule, fun _ hroom => cmisHighAlarm_lowers hcage hcages hports hmodule hroom⟩⟩⟩
  · simp only [exec, execTrainingTimeout, hport, hstate, decide_true, beq_self_eq_true, Bool.and_self, event_true]
  · simp only [exec, execTrainingRetry, hport, hstate, hretry, decide_true, beq_self_eq_true, Bool.and_self, event_true]
  · simp only [exec, execLostBlock, hport, hstate, hlost, decide_true, Bool.and_self, event_true]
    rfl
  · subst hm hf
    exact linkHello_greets hport hports hstate hused htrips

end Sys2Proof.Machine
end

section
/-!
PROOFS. Control messages between modules (chapter 12).
-/

namespace Sys2Proof.Machine

/-! ### A message heard and acted on -/

theorem State.type_of_hears {s : State} {type port : Nat} {msg : Bytes} (h : s.hears? type port msg = true) : byteAt msg 0 = type := by
  simp only [State.hears?, Bool.and_eq_true, beq_iff_eq] at h
  exact h.1.1.1.1.2

/-- A new control message is noted and has its effect, where that leaves the shelter flag alone. -/
theorem ctrlEvent_acts {s u : State} {type port : Nat} {msg : Bytes} (h : s.hears? type port msg = true) (hact : (s.noted port msg).act msg = u)
    (hflag : u.regs.shelter = s.regs.shelter) : ctrlEvent s type port msg = .next u := by
  rw [ctrlEvent_hears h, hact, State.settled_same hflag]

section
variable (s : State) {m : Bytes}

theorem State.act_propose (h : byteAt m 0 = 0x04) : s.act m = s.onPropose m := by
  rw [State.act, h]
  rfl

theorem State.act_accept (h : byteAt m 0 = 0x05) : s.act m = s.onAnswer m true := by
  rw [State.act, h]
  rfl

theorem State.act_refuse (h : byteAt m 0 = 0x06) : s.act m = s.onAnswer m false := by
  rw [State.act, h]
  rfl

theorem State.act_abort (h : byteAt m 0 = 0x07) : s.act m = s.onAbort m := by
  rw [State.act, h]
  rfl

theorem State.act_commit (h : byteAt m 0 = 0x0A) : s.act m = s.onCommit (field m 0x10 2) (field m 0x18 8) := by
  rw [State.act, h]
  rfl

theorem State.act_epoch (h : byteAt m 0 = 0x0B ∨ byteAt m 0 = 0x0C ∨ byteAt m 0 = 0x0D) : s.act m = s.onEpoch m := by
  obtain h | h | h := h <;> rw [State.act, h] <;> rfl

theorem State.act_lend (h : byteAt m 0 = 0x0E) : s.act m = s.onLend m := by
  rw [State.act, h]
  rfl

/-- A port that is up again is noted with its round, and no port changes its state yet. -/
theorem State.act_portUp (h : byteAt m 0 = 0x10) : s.act m = { s with
    group.upFrom := s.group.upFrom
      ++ [(field m 8 8 + field m 0x1C 4, field m 0x10 2, byteAt m 0x12), (field m 8 8 + field m 0x1C 4, field m 0x13 2, byteAt m 0x15)]
    ports := updWhere (fun x => x.farModule == field m 0x10 2 && x.farPort == byteAt m 0x12 && x.state == 3)
      ({ · with timedAt := some (field m 8 8 + field m 0x1C 4) }) s.ports } := by
  rw [State.act, h]
  rfl

theorem State.act_leave (h : byteAt m 0 = 0x11) : s.act m = s.loseModule (field m 0x10 2) := by
  rw [State.act, h]
  rfl

end

/-! ### What losing a module leaves -/

/-- The modules that are lost, and shelter mode. -/
def State.losses (s : State) : List Nat × Bool := (s.group.lost, s.regs.shelter)

theorem State.workOnly.losses {s t : State} (h : s.workOnly t) : t.losses = s.losses := by
  rw [h]
  rfl

theorem State.mailOnly.losses {s t : State} (h : s.mailOnly t) : t.losses = s.losses := by
  rw [h]
  rfl

theorem State.closeLoans_losses (s : State) (p : Loan → Bool) : (s.closeLoans p).losses = s.losses := by
  unfold State.closeLoans
  exact (foldl_keeps State.losses (fun _ _ => (State.refuseLater_mailOnly _ _ _ _ _ _).losses) _ _).trans
    ((State.freeRegions_workOnly _).losses.trans (State.zeroRegions_workOnly _ _).losses)

theorem State.endAll_losses (s : State) (p : Cmd → Bool) (r : Result) : (s.endAll p r).losses = s.losses := by
  refine foldl_keeps State.losses (fun s c => ?_) _ _
  rw [State.complete_endOnly (s.dropWork c) c.cid r]
  obtain ⟨t, rfl | rfl, ht⟩ := s.dropWork_workOnly c
  · exact ht.losses
  · exact ht.losses

theorem State.abandonMove_losses (s : State) (m : MoveOp) : (s.abandonMove m).losses = s.losses := by
  unfold State.abandonMove
  refine (State.refuseLater_mailOnly _ _ _ _ _ _).losses.trans ?_
  have hdrop : (s.dropCopy m.coll m.part).losses = s.losses := by
    rw [State.dropCopy, State.losses, (State.layout_layoutOnly _).group_eq, (State.layout_layoutOnly _).regs_eq]
    rfl
  split
  · exact hdrop
  · rfl

theorem State.loseMoves_losses (s : State) (m : Nat) : (s.loseMoves m).losses = s.losses := by
  unfold State.loseMoves
  refine foldl_keeps State.losses (fun s x => ?_) _ _
  dsimp only
  split
  · exact s.abandonMove_losses x
  · split <;> rfl

theorem State.electLeader_losses (s : State) : s.electLeader.losses = s.losses := by
  unfold State.electLeader State.announce
  dsimp only
  split
  · rfl
  · split
    · rfl
    · split
      · split <;> rfl
      · rfl

/-- A module of the group that is not lost yet becomes lost. -/
theorem State.loseModule_losses {s : State} {m : Nat} (hother : m ≠ s.group.index) (hnew : s.group.lost.contains m = false) :
    (s.loseModule m).losses = (m :: s.group.lost, s.regs.shelter) := by
  have hfresh : (m == s.group.index || s.group.lost.contains m) = false := by rw [hnew, beq_eq_false_iff_ne.mpr hother]; rfl
  simp only [State.loseModule, hfresh, Bool.false_eq_true, if_false]
  refine (State.endAll_losses _ _ _).trans (Eq.trans (b := State.losses _) rfl ?_)
  split
  · exact (State.electLeader_losses _).trans ((State.loseMoves_losses _ _).trans (State.closeLoans_losses _ _))
  · exact (State.loseMoves_losses _ _).trans (State.closeLoans_losses _ _)

/-! ### The obligation -/

theorem State.onCommit_shelter (s : State) (coll seq : Nat) : (s.onCommit coll seq).regs.shelter = s.regs.shelter := by
  unfold State.onCommit
  dsimp only
  split
  · rfl
  · split
    · rfl
    · exact State.layout_shelter _

section
variable {s : State} {port : Nat} {msg : Bytes}

/-- A proposal that this module accepts becomes the one that is under way. -/
theorem switchPropose_accepts (h : s.hears? 0x04 port msg = true) (hgood : s.acceptable (field msg 0x10 8) (byteAt msg 0x1C % 2 == 1) = true) :
    ∃ t, exec (.switchPropose port msg) s = .next t ∧ t.sw.state = 2 ∧ t.sw.ident = field msg 0x10 8 ∧ t.sw.leading = false
      ∧ (s.group.joining = none → t.sw.atRound = field msg 8 8 + field msg 0x18 4) := by
  have hgood' : (s.noted port msg).acceptable (field msg 0x10 8) (byteAt msg 0x1C % 2 == 1) = true := hgood
  have hpropose := ((s.noted port msg).act_propose (State.type_of_hears h)).trans (if_pos hgood')
  refine ⟨_, ctrlEvent_acts h hpropose rfl, rfl, rfl, rfl, fun hjoining => ?_⟩
  exact if_neg (by rw [show (s.noted port msg).group.joining = none from hjoining]; exact Bool.false_ne_true)

theorem switchAbort_aborts (h : s.hears? 0x07 port msg = true) (hsw : s.switching = true) (hident : field msg 0x10 8 = s.sw.ident)
    (hmsg : s.sw.msg = none) (hrefused : s.sw.refused = none) :
    exec (.switchAbort port msg) s = .next { s.noted port msg with sw.state := 1, sw.leading := false } := by
  have hswitch : (s.noted port msg).sw = s.sw := rfl
  have hsw' : (s.noted port msg).switching = true := hsw
  refine ctrlEvent_acts h (((s.noted port msg).act_abort (State.type_of_hears h)).trans ?_) rfl
  simp only [State.onAbort, hswitch, hrefused, Option.any_none, Bool.false_eq_true, if_false, hsw', hident, beq_self_eq_true, Bool.and_self, if_true,
    State.abortSwitch, hmsg, State.refuseLater]

theorem barrier_counts (h : s.hears? 0x09 port msg = true) (hbarriers : s.group.barriers = []) (hbarred : s.group.barred = []) :
    exec (.barrier port msg) s = .next { s.noted port msg with group.barriers := [(field msg 0x10 4, field msg 0x14 4, 1)] } := by
  have hbarriers' : (s.noted port msg).group.barriers = [] := hbarriers
  have hbarred' : (s.noted port msg).group.barred = [] := hbarred
  refine ctrlEvent_acts h ?_ rfl
  simp only [State.act, State.type_of_hears h, hbarriers', hbarred', List.any_nil, Bool.false_eq_true, if_false, List.nil_append]

theorem commit_of_home {c : Collection} (h : s.hears? 0x0A port msg = true) (hcoll : s.coll? (field msg 0x10 2) = some c) (hhome : c.home = s.group.index) :
    exec (.commit port msg) s = .next { s.noted port msg with
      group.commits := s.group.commits ++ [(field msg 0x10 2, field msg 0x18 8, s.clock.groupTime)] } := by
  refine ctrlEvent_acts h (((s.noted port msg).act_commit (State.type_of_hears h)).trans ?_) rfl
  have hcoll' : State.coll? { s.noted port msg with
      group.commits := s.group.commits ++ [(field msg 0x10 2, field msg 0x18 8, s.clock.groupTime)] } (field msg 0x10 2) = some c := hcoll
  unfold State.onCommit
  refine Eq.trans (b := match State.coll? { s.noted port msg with
      group.commits := s.group.commits ++ [(field msg 0x10 2, field msg 0x18 8, s.clock.groupTime)] } (field msg 0x10 2) with
    | none => _
    | some c => _) rfl ?_
  rw [hcoll']
  exact if_pos (beq_iff_eq.mpr hhome)

theorem epochOpen_opens (h : s.hears? 0x0B port msg = true) (hmoves : s.group.moves = []) : ∃ t x, exec (.epochOpen port msg) s = .next t
    ∧ t.group.moves = [x] ∧ x.coll = field msg 0x10 2 ∧ x.part = field msg 0x12 4 ∧ x.epoch = field msg 0x16 4 ∧ x.src = field msg 2 2
    ∧ x.dst = field msg 0x1A 2 ∧ x.opens = field msg 8 8 + field msg 0x1C 2 ∧ x.sent = false ∧ x.came = false ∧ x.drain = 0 := by
  have hmoves' : (s.noted port msg).group.moves = [] := hmoves
  have hopen := (s.noted port msg).act_epoch (.inl (State.type_of_hears h))
  simp only [State.onEpoch, State.type_of_hears h, hmoves', List.any_nil, Bool.false_eq_true, if_false, List.nil_append] at hopen
  exact ⟨_, _, ctrlEvent_acts h hopen rfl, rfl, rfl, rfl, rfl, rfl, rfl, rfl, rfl, rfl, rfl⟩

theorem epochReady_notes {x : MoveOp} (hmoves : s.group.moves = [x]) (hcoll : x.coll = field msg 0x10 2) (hpart : x.part = field msg 0x12 4)
    (h : s.hears? 0x0C port msg = true) : exec (.epochReady port msg) s = .next { s.noted port msg with
      group.moves := [{ x with bothAt := some (field msg 8 8 + field msg 0x1C 2), copied := true }] } := by
  have hmoves' : (s.noted port msg).group.moves = [x] := hmoves
  refine ctrlEvent_acts h (((s.noted port msg).act_epoch (.inr (.inl (State.type_of_hears h)))).trans ?_) rfl
  simp only [State.onEpoch, State.type_of_hears h, hmoves', updWhere, List.map_cons, List.map_nil, hcoll, hpart, beq_self_eq_true, Bool.and_self, if_true]

theorem epochClose_notes {x : MoveOp} (hmoves : s.group.moves = [x]) (hcoll : x.coll = field msg 0x10 2) (hpart : x.part = field msg 0x12 4)
    (h : s.hears? 0x0D port msg = true) : exec (.epochClose port msg) s = .next { s.noted port msg with
      group.moves := [{ x with closes := some (field msg 8 8 + field msg 0x1C 2) }] } := by
  have hmoves' : (s.noted port msg).group.moves = [x] := hmoves
  refine ctrlEvent_acts h (((s.noted port msg).act_epoch (.inr (.inr (State.type_of_hears h)))).trans ?_) rfl
  simp only [State.onEpoch, State.type_of_hears h, hmoves', updWhere, List.map_cons, List.map_nil, hcoll, hpart, beq_self_eq_true, Bool.and_self, if_true]

theorem lend_ends {l : Loan} (h : s.hears? 0x0E port msg = true) (hkind : byteAt msg 0x10 = 2) (hto : field msg 0x14 2 = s.group.index)
    (hloans : s.mem.loans = [l]) (hpeer : l.peer = field msg 2 2) (hwindow : l.window = byteAt msg 0x11) :
    exec (.lend port msg) s = .next { s.noted port msg with mem.loans := [{ l with stop := some (field msg 8 8 + field msg 0x16 4) }] } := by
  have hloans' : (s.noted port msg).mem.loans = [l] := hloans
  have hto' : field msg 0x14 2 = (s.noted port msg).group.index := hto
  refine ctrlEvent_acts h (((s.noted port msg).act_lend (State.type_of_hears h)).trans ?_) rfl
  simp only [State.onLend, hkind, hto', hloans', updWhere, List.map_cons, List.map_nil, hpeer, hwindow, bne_self_eq_false, Bool.false_eq_true, if_false,
    beq_self_eq_true, Bool.and_self, if_true]

theorem portUp_notes (h : s.hears? 0x10 port msg = true) : ∃ t, exec (.portUp port msg) s = .next t ∧ t.group.upFrom = s.group.upFrom
      ++ [(field msg 8 8 + field msg 0x1C 4, field msg 0x10 2, byteAt msg 0x12), (field msg 8 8 + field msg 0x1C 4, field msg 0x13 2, byteAt msg 0x15)]
      ∧ t.ports.map (·.state) = s.ports.map (·.state) := by
  refine ⟨_, ctrlEvent_acts h ((s.noted port msg).act_portUp (State.type_of_hears h)) rfl, rfl, ?_⟩
  rw [updWhere, List.map_map]
  refine List.map_congr_left fun x _ => ?_
  change (if _ then _ else x : Port).state = x.state
  split <;> rfl

theorem leave_loses (h : s.hears? 0x11 port msg = true) (hother : field msg 0x10 2 ≠ s.group.index)
    (hnew : s.group.lost.contains (field msg 0x10 2) = false) :
    ∃ t, exec (.leave port msg) s = .next t ∧ t.group.lost = field msg 0x10 2 :: s.group.lost := by
  have hlosses := State.loseModule_losses (s := s.noted port msg) hother hnew
  exact ⟨_, ctrlEvent_acts h ((s.noted port msg).act_leave (State.type_of_hears h)) (congrArg Prod.snd hlosses), congrArg Prod.fst hlosses⟩

end

/-- Settles O55: each type of message, by what acting on it does. -/
theorem controlMessagesAct : Obligations.ControlMessagesAct := by
  intro s port msg
  refine ⟨fun h => ?_, switchPropose_accepts, fun hleading hsw hident => ?_, switchAbort_aborts, fun h => ?_, barrier_counts,
    fun h => ctrlEvent_acts h ((s.noted port msg).act_commit (State.type_of_hears h)) (State.onCommit_shelter _ _ _), fun c => commit_of_home,
    epochOpen_opens, fun x hmoves hcoll hpart => ⟨epochReady_notes hmoves hcoll hpart, epochClose_notes hmoves hcoll hpart⟩, fun l => lend_ends,
    fun h => ?_, portUp_notes, fun h hother hnew _ _ => leave_loses h hother hnew, fun h => ?_⟩
  · exact ctrlEvent_acts h (by rw [State.act, State.type_of_hears h]; rfl) rfl
  · have hanswers : ((s.noted port msg).sw.leading && (s.noted port msg).switching && field msg 0x10 8 == (s.noted port msg).sw.ident) = true := by
      have hleading' : (s.noted port msg).sw.leading = true := hleading
      have hsw' : (s.noted port msg).switching = true := hsw
      rw [hleading', hsw', hident]
      exact beq_self_eq_true s.sw.ident
    refine ⟨fun h => ?_, fun h => ?_⟩
    · exact ctrlEvent_acts h (((s.noted port msg).act_accept (State.type_of_hears h)).trans (if_pos hanswers)) rfl
    · exact ctrlEvent_acts h (((s.noted port msg).act_refuse (State.type_of_hears h)).trans (if_pos hanswers)) rfl
  · exact ctrlEvent_acts h (by rw [State.act, State.type_of_hears h]; rfl) rfl
  · exact ctrlEvent_acts h (by rw [State.act, State.type_of_hears h]; rfl) rfl
  · exact ctrlEvent_acts h (by rw [State.act, State.type_of_hears h]; rfl) rfl

end Sys2Proof.Machine
end

section
/-!
PROOFS. The start of a round of a block with nothing under way (chapter 10).
-/

namespace Sys2Proof.Machine

/-! ### What a quiet round start may touch -/

/-- Two states differ at most in what the start of a quiet round touches once the round is counted: the plan and its ledgers, ports and
routes, the ends of recoveries, clusters under test, the regions in use, and the free values drawn. -/
def State.turned (s t : State) : Prop :=
  t = { s with power := t.power, errors := t.errors, ports := t.ports, free := t.free, mem := { s.mem with regions := t.mem.regions }
               comp := { s.comp with ledger := t.comp.ledger, underTest := t.comp.underTest, testAgain := t.comp.testAgain }
               group := { s.group with brokenPorts := t.group.brokenPorts, brokenFrom := t.group.brokenFrom, upFrom := t.group.upFrom
                                       leader := t.group.leader, leaderFrom := t.group.leaderFrom } }

theorem State.turned.rfl' (s : State) : s.turned s := rfl

theorem State.turned.trans {s t u : State} (h : s.turned t) (k : t.turned u) : s.turned u := by
  unfold State.turned at *
  rw [k, h]

theorem State.turned.of_eq {s t : State} (h : t = s) : s.turned t := by
  rw [h]
  exact State.turned.rfl' s

theorem State.turned.quiet {s t : State} (h : s.turned t) (hq : s.quiet) : t.quiet := by
  rw [h]
  exact hq

/-- A quiet state, and one more step that a quiet state allows. -/
theorem State.turned.next {s t u : State} (h : s.turned t) (hq : s.quiet) (hstep : t.quiet → t.turned u) : s.turned u :=
  h.trans (hstep (h.quiet hq))

section
variable {s : State}

/-! ### Each step of a quiet round start -/

theorem State.endAll_nil (h : s.rings.cmds = []) (p : Cmd → Bool) (r : Result) : s.endAll p r = s := by
  rw [State.endAll, h]
  rfl

theorem State.forgetLists_nil (h : s.rings.cmds = []) : s.forgetLists = s := by
  unfold State.forgetLists
  rw [h, List.map_nil, ← h]

theorem State.cutQueries_nil (h : s.rings.cmds = []) : s.cutQueries = s := by
  rw [State.cutQueries, State.forgetLists_nil h]
  exact State.endAll_nil h _ _

theorem State.cutQueries_turned (hq : s.quiet) : s.turned s.cutQueries := State.turned.of_eq (State.cutQueries_nil hq.1)

theorem State.shedMoves_turned (hq : s.quiet) : s.turned s.shedMoves := State.turned.of_eq (State.endAll_nil hq.1 _ _)

theorem State.routeStep_turned : s.turned s.routeStep := rfl

theorem State.planStep_turned : s.turned s.planStep := rfl

theorem State.drainLedgers_turned : s.turned s.drainLedgers := rfl

theorem State.switchStep_turned (hq : s.quiet) : s.turned s.switchStep := by
  obtain ⟨-, -, -, -, -, -, -, -, -, -, -, -, hsw⟩ := hq
  have hfew : s.sw.state < 2 := by simpa [State.switching] using hsw
  have hnot : (s.sw.state == 2) = false := by simpa using Nat.ne_of_lt hfew
  refine State.turned.of_eq ?_
  simp only [State.switchStep, hnot, hsw, Bool.false_and, Bool.false_eq_true, if_false]

theorem State.freeRegions_turned : s.turned s.freeRegions := by
  unfold State.freeRegions
  split <;> rfl

/-- Without loans, cutting those that no route serves only releases empty regions. -/
theorem State.cutLoans_turned (hq : s.quiet) : s.turned s.cutLoans := by
  obtain ⟨-, -, -, -, -, -, -, hloans, -⟩ := hq
  have hcut : s.cutLoans = s.freeRegions := by
    simp only [State.cutLoans, State.closeLoans, hloans, List.filter_nil, List.any_nil, Bool.not_false, List.filter_true, List.flatMap_nil,
      List.foldl_nil, State.zeroRegions, List.isEmpty_nil, if_true]
    rw [← hloans]
  rw [hcut]
  exact State.freeRegions_turned

theorem State.foldl_turned {α : Type} {f : State → α → State} (hf : ∀ s a, State.turned s (f s a)) (l : List α) (s : State) : s.turned (l.foldl f s) := by
  induction l generalizing s with
  | nil => exact State.turned.rfl' s
  | cons a l ih => exact (hf s a).trans (ih (f s a))

theorem State.timePorts_turned : s.turned s.timePorts := by
  unfold State.timePorts
  refine State.foldl_turned (fun _ _ => ?_) _ _
  rfl

theorem State.followLeader_turned (hq : s.quiet) : s.turned s.followLeader := by
  obtain ⟨-, -, -, -, -, -, -, -, -, -, -, hsize, -⟩ := hq
  refine State.turned.of_eq (if_pos ?_)
  rw [State.groupMember, hsize]
  rfl

theorem State.openLoans_turned (hq : s.quiet) : s.turned s.openLoans := by
  obtain ⟨-, -, -, -, -, -, -, hloans, -⟩ := hq
  refine State.turned.of_eq ?_
  unfold State.openLoans
  simp only [hloans, updWhere, List.map_nil]
  rw [← hloans]

theorem State.moveRound_turned (hq : s.quiet) : s.turned s.moveRound := by
  obtain ⟨-, -, -, -, -, -, -, -, hmoves, -⟩ := hq
  rw [State.moveRound, hmoves]
  exact State.turned.rfl' s

theorem State.repairRound_turned (hq : s.quiet) : s.turned s.repairRound := by
  obtain ⟨-, -, -, -, hrepairing, -⟩ := hq
  refine State.turned.of_eq ?_
  unfold State.repairRound
  simp only [hrepairing, List.filter_nil, List.foldl_nil]
  rw [← hrepairing]

theorem State.testRound_turned : s.turned s.testRound := by
  unfold State.testRound
  split <;> rfl

theorem State.moveTeams_turned (hq : s.quiet) : s.turned s.moveTeams := by
  obtain ⟨-, hruns, -⟩ := hq
  rw [State.moveTeams, hruns]
  exact State.turned.rfl' s

theorem State.switchSplices_turned (hq : s.quiet) : s.turned s.switchSplices := by
  obtain ⟨-, -, -, -, -, hsplices, -⟩ := hq
  rw [State.switchSplices, hsplices]
  exact State.turned.rfl' s

theorem State.mapPages_turned (hq : s.quiet) : s.turned s.mapPages := by
  obtain ⟨-, -, -, -, -, -, hretiring, -⟩ := hq
  rw [State.mapPages, hretiring]
  exact State.turned.rfl' s

theorem State.releaseWait_nil (h : s.comp.runs = []) (w : Wait) : s.releaseWait w = s := by
  unfold State.releaseWait
  rw [h, List.map_nil, ← h]

theorem State.consumeHops_turned (hq : s.quiet) : s.turned s.consumeHops := by
  obtain ⟨-, -, -, -, -, -, -, -, -, hhops, -⟩ := hq
  refine State.turned.of_eq ?_
  unfold State.consumeHops
  simp only [hhops, List.filter_nil, List.foldl_nil]
  rw [← hhops]

theorem State.dropStale_turned (hq : s.quiet) : s.turned s.dropStale := by
  obtain ⟨-, -, -, -, -, -, -, -, -, -, hrequests, -⟩ := hq
  refine State.turned.of_eq ?_
  unfold State.dropStale
  simp only [hrequests, List.filter_nil]
  rw [← hrequests]

theorem State.chargeRequests_turned (hq : s.quiet) : s.turned s.chargeRequests := by
  obtain ⟨-, -, -, -, -, -, -, -, -, -, hrequests, -⟩ := hq
  have hnew : s.newRequests = [] := by
    rw [State.newRequests, hrequests]
    rfl
  refine State.turned.of_eq ?_
  simp only [State.chargeRequests, hnew, State.sharePass, List.filter_nil, List.foldl_nil]

theorem State.releaseWait_turned (hq : s.quiet) : s.turned (s.releaseWait .round) := by
  obtain ⟨-, hruns, -⟩ := hq
  exact State.turned.of_eq (State.releaseWait_nil hruns .round)

/-- All steps of a quiet round start, once the round is counted. -/
theorem State.roundBegin_turned (hq : s.turn.quiet) : s.turn.turned s.roundBegin := by
  have hroutes := ((State.turned.rfl' s.turn).next hq State.switchStep_turned).next hq fun _ => State.routeStep_turned
  have hleader := ((hroutes.next hq State.cutLoans_turned).next hq fun _ => State.timePorts_turned).next hq State.followLeader_turned
  have hmoved := ((hleader.next hq State.cutQueries_turned).next hq State.openLoans_turned).next hq State.moveRound_turned
  have hledgers := ((hmoved.next hq fun _ => State.planStep_turned).next hq State.shedMoves_turned).next hq fun _ => State.drainLedgers_turned
  have hteams := ((hledgers.next hq State.repairRound_turned).next hq fun _ => State.testRound_turned).next hq State.moveTeams_turned
  have hwaits := ((hteams.next hq State.switchSplices_turned).next hq State.mapPages_turned).next hq State.releaseWait_turned
  exact ((hwaits.next hq State.consumeHops_turned).next hq State.dropStale_turned).next hq State.chargeRequests_turned

theorem State.progressAll_nil (h : s.rings.cmds = []) : s.progressAll = s := by
  rw [State.progressAll, h]
  rfl

theorem State.admitRound_nil (h : s.rings.cmds = []) : s.admitRound = s := by
  have hwaiting : s.waitingQueries = [] := by
    rw [State.waitingQueries, h]
    rfl
  have hexamine : s.examineAll = s := by
    rw [State.examineAll, hwaiting]
    rfl
  rw [State.admitRound, hexamine, hwaiting]
  split <;> rfl

theorem State.blurAllows_turned (h : s.rings.cmds = []) : s.turned s.blurAllows := by
  unfold State.blurAllows State.draw
  simp only [h, List.map_nil]
  rw [← h]
  rfl

end

/-- The round start of a block with nothing under way counts the round, brings its tick, and leaves host memory and HBM. -/
theorem roundStart_turns {s : State} (hready : s.regs.ready = true) (hq : s.quiet) : ∃ t, exec .roundStart s = .next t
    ∧ t.clock.round = s.clock.round + 1 ∧ t.clock.groupTime = max s.clock.groupTime (s.roundTick (s.clock.round + 1)) ∧ t.host = s.host
    ∧ t.mem.hbm = s.mem.hbm := by
  have hturn : s.turn.quiet := hq
  have hbegin := State.roundBegin_turned hturn
  have hcmds : s.roundBegin.rings.cmds = [] := (hbegin.quiet hturn).1
  have hall : s.turn.turned s.roundBegin.progressAll.admitRound.blurAllows := by
    rw [State.progressAll_nil hcmds, State.admitRound_nil hcmds]
    exact hbegin.trans (State.blurAllows_turned hcmds)
  have hflag : s.roundBegin.progressAll.admitRound.blurAllows.regs.shelter = s.regs.shelter := by
    rw [hall]
    rfl
  have hdue : s.overdue = false := by
    rw [State.overdue, hq.1]
    rfl
  have hstep : exec .roundStart s = .next s.roundBegin.progressAll.admitRound.blurAllows := by
    simp only [exec, execRoundStart, hready, hdue, Bool.not_false, Bool.and_self, event_true]
    exact congrArg Host.Outcome.next (State.settled_same hflag)
  refine ⟨_, hstep, ?_⟩
  rw [hall]
  exact ⟨rfl, rfl, rfl, rfl⟩

end Sys2Proof.Machine
end

section
/-!
PROOFS. The group's events, transfers and slots (chapters 10 and 12).
-/

namespace Sys2Proof.Machine

/-! ### Leaving the group -/

section
variable {s : State}

/-- What leaving the group settles: its size and leader, the commands and shelter mode. -/
def State.standalone (s : State) : Nat × Nat × Nat × List Cmd × Bool :=
  (s.group.size, s.group.leader, s.group.index, s.rings.cmds, s.regs.shelter)

theorem State.workOnly.standalone {s t : State} (h : s.workOnly t) : t.standalone = s.standalone := by
  rw [h]
  rfl

theorem State.closeLoans_standalone (s : State) (p : Loan → Bool) : (s.closeLoans p).standalone = s.standalone := by
  unfold State.closeLoans
  refine (foldl_keeps State.standalone (fun t l => ?_) _ _).trans
    ((State.freeRegions_workOnly _).standalone.trans (State.zeroRegions_workOnly _ _).standalone)
  rw [State.refuseLater_mailOnly t 0x62 l.msg 6 0xFFFFFFFF 0]
  rfl

/-- A module that leaves its group is a group of one without loans. -/
theorem State.leaveGroup_leaves (hmember : s.groupMember = true) : s.leaveGroup.standalone = (1, s.group.index, s.group.index, s.rings.cmds, s.regs.shelter)
    ∧ s.leaveGroup.mem.loans = [] := by
  unfold State.leaveGroup
  rw [hmember]
  refine ⟨(State.closeLoans_standalone _ _).trans ?_, ?_⟩
  · rw [State.refuseLater_mailOnly]
    rfl
  · exact (State.closeLoans_loans _ _).1.trans (List.filter_eq_nil_iff.mpr (by simp))

/-- The step that leaves the group, of a module without commands. -/
theorem State.leaveGroup_step (hmember : s.groupMember = true) (hcmds : s.rings.cmds = []) :
    s.settled s.leaveGroup.cutQueries = s.leaveGroup ∧ s.leaveGroup.group.size = 1 ∧ s.leaveGroup.group.leader = s.group.index
      ∧ s.leaveGroup.mem.loans = [] := by
  obtain ⟨hleft, hloans⟩ := State.leaveGroup_leaves hmember
  simp only [State.standalone, Prod.mk.injEq] at hleft
  obtain ⟨hsize, hleader, -, hsame, hflag⟩ := hleft
  rw [State.cutQueries_nil (hsame.trans hcmds)]
  exact ⟨State.settled_same hflag, hsize, hleader, hloans⟩

/-! ### Transfers that arrive -/

theorem transferEvent_arrives {slot port : Nat} {flow : Flow} (hport : port < 8) (hstate : s.portState port = 4) (hslot : flow.load.slot = slot) :
    transferEvent s slot port flow = .next (s.arrive slot port flow) := by
  simp only [transferEvent, hport, hstate, hslot, decide_true, beq_self_eq_true, Bool.and_self, event_true]

theorem State.arrive_fanOut (port : Nat) (flow : Flow) : s.arrive 1 port flow = { s with
    group.hops := s.group.hops ++ [{ slot := 1, inPort := port, round := s.clock.round, flow := flow, gone := 0 }]
    regs.asleep := s.regs.asleep && flow.dst != s.group.index } := by
  by_cases h : flow.dst = s.group.index
  · have hdst : (flow.dst == s.group.index) = true := beq_iff_eq.mpr h
    simp only [State.arrive, hdst, Nat.reduceBEq, Bool.false_and, Bool.and_self, Bool.false_eq_true, if_false, if_true, bne, Bool.not_true, Bool.and_false]
    rfl
  · have hdst : (flow.dst == s.group.index) = false := beq_eq_false_iff_ne.mpr h
    simp only [State.arrive, hdst, Nat.reduceBEq, Bool.false_and, Bool.and_false, Bool.false_eq_true, if_false, bne, Bool.not_false, Bool.and_true]

/-- A write of a borrower to the window that it borrows reaches the first lent region. -/
theorem bulkWrite_lands {port : Nat} {flow : Flow} (hport : port < 8) (hstate : s.portState port = 4) {l : Loan} {r offset : Nat} {rest : List Nat}
    {data : Bytes} (hregions : l.regions = r :: rest) (hload : flow.load = .bulk 0 l.window offset data) (hdst : flow.dst = s.group.index)
    (hloans : s.mem.loans = [l]) (hborrow : l.borrow = false) (hopened : l.opened = true) (hpeer : l.peer = flow.src)
    (hfits : offset + data.length ≤ l.gib * 2 ^ 30) :
    exec (.bulkTransferReceived port flow) s = .next (s.writeT1 (r * 2 ^ 30 + offset) data) := by
  have hslot : flow.load.slot = 3 := by rw [hload]; rfl
  have hwaits : s.indexWaits flow = false := by rw [State.indexWaits, hload]
  have hlent : s.lentAt flow.src l.window offset data.length = some (r * 2 ^ 30 + offset) := by
    have hthis : (!l.borrow && l.opened && l.peer == flow.src && l.window == l.window && decide (offset + data.length ≤ l.gib * 2 ^ 30)) = true := by
      rw [hborrow, hopened, hpeer, decide_eq_true hfits]
      simp
    simp only [State.lentAt, hloans, List.find?_cons, hthis, Option.bind_some, hregions, List.head?_cons, Option.map_some]
  refine (transferEvent_arrives hport hstate hslot).trans (congrArg Host.Outcome.next ?_)
  have htake : (3 == 3 && flow.dst == s.group.index && !s.indexWaits flow) = true := by simp [hdst, hwaits]
  refine (if_pos htake).trans ?_
  simp only [State.takeBulk, hload, hlent, Option.elim_some]

/-! ### Slots -/

/-- With no transfer waiting, a slot only reports losses. -/
theorem State.openSlot_idle (h : s.group.hops = []) (slot : Nat) :
    s.openSlot slot = s.active.slots.foldl (fun s x => if x.kind == slot then s.slotReports x else s) s := by
  have hsame : { s with group.hops := [] } = s := by rw [← h]
  simp only [State.openSlot, h, List.filter_nil, List.foldl_nil, hsame]

theorem State.openReports_group (s : State) (slot : Nat) (l : List TtSlot) :
    (l.foldl (fun s x => if x.kind == slot then s.slotReports x else s) s).group = s.group := by
  refine foldl_keeps (fun s : State => s.group) (fun s x => ?_) _ _
  split <;> rfl

theorem State.sendAgain_none (h : ∀ p ∈ s.ports, p.again = []) (p : Nat) : s.sendAgain p = s := by
  have hnone : (s.port p).again = [] := by
    rw [State.port, List.getD_eq_getElem?_getD]
    cases hp : s.ports[p]? with
    | none => rfl
    | some x => exact h x (List.mem_of_getElem? hp)
  have hsame : s.updPort p ({ · with again := [] }) = s := by
    have hports : (s.updPort p ({ · with again := [] })).ports = s.ports := by
      refine List.ext_getElem? fun j => ?_
      simp only [State.updPort, getElem?_updAt]
      split
      · cases hj : s.ports[j]? with
        | none => rfl
        | some x =>
          have hx := h x (List.mem_of_getElem? hj)
          rw [Option.map_some, ← hx]
      · rfl
    exact congrArg (fun l => { s with ports := l }) hports
  rw [State.sendAgain, hnone, hsame]
  rfl

theorem State.flyAll_idle (hcmds : s.rings.cmds = []) (hruns : s.comp.runs = []) : s.flyAll = s := by
  simp only [State.flyAll, hcmds, List.foldl_nil, hruns]

/-- A bulk slot in which nothing is to be sent. -/
theorem bulkSlot_idle (hready : s.regs.ready = true)
    (hidle : 2 ≤ s.power.applied ∨ (s.rings.cmds = [] ∧ s.comp.runs = [] ∧ ∀ p ∈ s.ports, p.again = [])) :
    exec .bulkSlot s = .next ((s.openSlot 3).releaseWait .bulk) := by
  have hsame : (if s.power.applied ≥ 2 then s else (List.range 8).foldl State.sendAgain s.flyAll) = s := by
    obtain hstage | ⟨hcmds, hruns, hagain⟩ := hidle
    · exact if_pos hstage
    · split
      · rfl
      · rw [State.flyAll_idle hcmds hruns]
        generalize List.range 8 = l
        induction l with
        | nil => rfl
        | cons p l ih => rw [List.foldl_cons, State.sendAgain_none hagain, ih]
  simp only [exec, execBulkSlot, hsame, hready, event_true]

/-- A payload that is not a bulk transfer's fits the flits that its entry gives it. -/
theorem Flow.payload_fits {w : Flow} (h : w.load.slot = 1 ∨ w.load.slot = 2) {free room : Nat} (hroom : 0 < room) :
    ceilDiv (w.payload free room) 240 ≤ room := by
  have hpayload : w.payload free room = 1 + Config.freeNat free % (240 * max 1 room) := by
    unfold Flow.payload
    split
    · next hload => simp [hload, Load.slot] at h
    · rfl
  have hlt : Config.freeNat free % (240 * max 1 room) < 240 * max 1 room := Nat.mod_lt _ (by omega)
  rw [hpayload, ceilDiv]
  omega

/-- A transfer whose port is TIMED and whose entry is free leaves whole. -/
theorem State.sendHop_sends {k : Hop → Nat} {h : Hop} {slot : TtSlot} {e : List Nat} {p : Nat} (hone : k h = 1) (hload : h.flow.load.slot = h.slot)
    (hkind : h.slot = 1 ∨ h.slot = 2) (hentry : s.active.slotEntry h.slot h.flow.src h.flow.dst h.inPort = some (slot, e)) (hport : e.getD 4 0 = p)
    (hstate : s.portState p = 4) (hkept : (s.port p).kept = []) (hroom : 0 < e.getD 3 0) :
    (s.sendHop k h).group = { s.group with sentHops := s.group.sentHops ++ [(p, h)] } := by
  have hfree : (s.port p).taken slot e = 0 := by
    rw [Port.taken, hkept]
    rfl
  have hbulk : (h.slot == 3) = false := by obtain hk | hk := hkind <;> rw [hk] <;> rfl
  have hfits := Flow.payload_fits (w := h.flow) (by rwa [hload]) (free := s.free) hroom
  simp only [State.sendHop, hentry, hport, hstate, hfree, hone, hbulk, Nat.max_self, Nat.div_one, Nat.sub_zero, hfits, bne_self_eq_false,
    Bool.false_eq_true, if_false, if_true, beq_self_eq_true]
  rfl

/-- The only transfer that waits leaves in the slot of its kind, where its entry's port is TIMED and free. -/
theorem State.openSlot_sends {h : Hop} {slot : TtSlot} {e : List Nat} {p : Nat} (hhops : s.group.hops = [h]) (hload : h.flow.load.slot = h.slot)
    (hkind : h.slot = 1 ∨ h.slot = 2) (hdst : h.flow.dst ≠ s.group.index) (hround : h.inPort = 255 ∨ h.round < s.clock.round)
    (hentry : s.active.slotEntry h.slot h.flow.src h.flow.dst h.inPort = some (slot, e)) (hport : e.getD 4 0 = p) (hstate : s.portState p = 4)
    (hkept : (s.port p).kept = []) (hroom : 0 < e.getD 3 0) :
    (s.openSlot h.slot).group.hops = [] ∧ (s.openSlot h.slot).group.sentHops = s.group.sentHops ++ [(p, h)] := by
  have hheld : s.copyHeld h.flow = false := by
    unfold State.copyHeld
    split
    · next hindex => simp [hindex, Load.slot] at hload; omega
    · rfl
  have hdue : s.dueHop h.slot h = true := by
    have hbulk : (h.slot == 3) = false := by obtain hk | hk := hkind <;> rw [hk] <;> rfl
    have hcan : (h.inPort == 255 || decide (h.round < s.clock.round)) = true := by simpa using hround
    simp only [State.dueHop, beq_self_eq_true, bne, beq_eq_false_iff_ne.mpr hdst, hbulk, hheld, hcan, Bool.false_and, Bool.not_false, Bool.and_self]
  have hgroup : (s.openSlot h.slot).group = { s.group with hops := [], sentHops := s.group.sentHops ++ [(p, h)] } := by
    simp only [State.openSlot, hhops, List.filter_cons, List.filter_nil, hdue, Bool.not_true, Bool.false_eq_true, if_false, if_true, List.foldl_cons,
      List.foldl_nil, State.openReports_group]
    refine State.sendHop_sends (s := { s with group.hops := [] }) ?_ hload hkind hentry hport hstate hkept hroom
    simp only [beq_self_eq_true, Bool.and_self, if_true, List.length_cons, List.length_nil]
  rw [hgroup]
  exact ⟨rfl, rfl⟩

/-- A message whose turn has come leaves over every TIMED port but its own. -/
theorem controlSlot_sends (hready : s.regs.ready = true) {m : Ctrl} {rest : List Ctrl} {p : Nat} (hlist : s.group.toSend = m :: rest)
    (hdue : m.inPort ≠ 255 ∨ m.sent ≤ s.clock.round) (hp : p < 8) (hstate : s.portState p = 4) (hother : p ≠ m.inPort) (hroom : 0 < s.active.controlRoom) :
    ∃ t, exec .controlSlot s = .next t ∧ (p, m) ∈ t.group.sent := by
  obtain ⟨tail, hsend, hclock, hports, hactive⟩ : ∃ tail, s.heartbeat.group.toSend = m :: tail ∧ s.heartbeat.clock = s.clock
      ∧ s.heartbeat.ports = s.ports ∧ s.heartbeat.active = s.active := by
    unfold State.heartbeat State.lineNow
    split
    · exact ⟨_, congrArg (· ++ _) hlist, rfl, rfl, rfl⟩
    · exact ⟨rest, hlist, rfl, rfl, rfl⟩
  have hgo : (m.inPort != 255 || decide (m.sent ≤ s.clock.round)) = true := by simpa using hdue
  change ∃ t, execControlSlot s = .next t ∧ _
  unfold execControlSlot
  extract_lets s1 ready due late ports out syncs all s2 stamp
  rw [hready, event_true]
  refine ⟨_, rfl, List.mem_append_left _ (List.mem_append_right _ (List.mem_flatMap.mpr ⟨m, ?_, ?_⟩))⟩
  · have hgo' : ready m = true := by
      change (m.inPort != 255 || decide (m.sent ≤ s.heartbeat.clock.round)) = true
      rw [hclock]
      exact hgo
    have htake : 7 * s1.active.controlRoom - 1 = 7 * s1.active.controlRoom - 2 + 1 := by
      have : s1.active = s.active := hactive
      rw [this]
      omega
    change m ∈ (s.heartbeat.group.toSend.filter ready).take _
    rw [hsend, List.filter_cons_of_pos hgo', htake, List.take_succ_cons]
    exact List.mem_cons_self
  · have hport : s.heartbeat.portState p = 4 := by
      rw [State.portState, hports]
      exact hstate
    have hon : p ∈ ports := List.mem_filter.mpr ⟨List.mem_range.mpr hp, beq_iff_eq.mpr hport⟩
    exact List.mem_map.mpr ⟨p, List.mem_filter.mpr ⟨hon, by simpa using hother⟩, rfl⟩

/-- A port as a replay slot leaves it. -/
def State.replays (s : State) (x : Nat × Port) : Port :=
  { x.2.replay (s.active.replayRoom x.1) (s.picks x.1 (x.2.kept.map (·.1))) (s.picks (8 + x.1) (x.2.kept.map (·.1))) with nacks := [] }

/-- A port resends no more than its slot has room for. -/
theorem State.replays_resent (s : State) (x : Nat × Port) : (s.replays x).resent.length ≤ s.active.replayRoom x.1 := by
  simp only [State.replays, Port.replay, List.length_map]
  exact List.length_take_le _ _

/-- A replay slot without lost flits resends what was reported, within its room. -/
theorem replaySlot_resends (hready : s.regs.ready = true) (hlost : s.group.lostFlits = []) (hports : s.ports.length = 8) :
    ∃ t, exec .replaySlot s = .next t ∧ t.group = s.group ∧ t.ports.length = 8 ∧ (∀ p ∈ t.ports, p.nacks = [] ∧ p.kept = [])
      ∧ ∀ p < 8, (t.port p).resent.length ≤ s.active.replayRoom p := by
  have hnone : replayOrder [] = [] := rfl
  have hstep : exec .replaySlot s
      = .next { s.draw 17 with group.lostFlits := [], ports := ((List.range 8).zip s.ports).map s.replays } := by
    simp only [exec, execReplaySlot, hlost, hnone, List.length_nil, List.range_zero, List.zip_nil_left, List.foldl_nil, hready, event_true]
    exact congrArg Host.Outcome.next (State.settled_same rfl)
  refine ⟨_, hstep, ?_, ?_, fun x hx => ?_, fun p hp => ?_⟩
  · rw [← hlost]
    rfl
  · simp [hports]
  · obtain ⟨y, -, rfl⟩ := List.mem_map.mp hx
    exact ⟨rfl, rfl⟩
  · have hget : (((List.range 8).zip s.ports).map s.replays)[p]? = some (s.replays (p, s.port p)) := by
      rw [List.getElem?_map, List.zip, List.getElem?_zipWith, List.getElem?_range hp, State.getElem?_ports (by omega)]
      rfl
    refine le_of_eq_of_le (congrArg (fun x : Port => x.resent.length) ?_) (s.replays_resent (p, s.port p))
    rw [State.port, List.getD_eq_getElem?_getD]
    exact congrArg (·.getD Port.down) hget

end

/-- Settles O56: each event's effect and each slot's, by the lemmas above. -/
theorem groupEventsAndSlotsAct : Obligations.GroupEventsAndSlotsAct := by
  intro s
  refine ⟨fun m hm hmember hother hnew hsilent _ _ => ?_, fun coll part x hmoves hcoll hpart hdst hopens hcame hcopied hstage hsrc hup => ?_,
    fun hmember hcmds => ⟨fun hparent hleader horphan => ?_, fun hlong => ?_⟩,
    fun port flow hport hstate => ⟨fun hslot => ?_, fun hslot => ?_, fun hslot hdst => ?_, fun l r offset rest data hregions hload hdst hloans hborrow hopened hpeer hfits =>
      bulkWrite_lands hport hstate hregions hload hdst hloans hborrow hopened hpeer hfits⟩,
    fun hready => ⟨fun hhops sent hsent => ⟨?_, ?_, fun hidle => ?_⟩, fun h slot e p hhops hload hkind hdst hround hentry hport hstate hkept hroom => ?_,
      fun m rest p => controlSlot_sends hready, replaySlot_resends hready, roundStart_turns hready⟩⟩
  · have hlosses := State.loseModule_losses hother hnew
    have hdue : s.clock.round > assoc s.group.heard m + 24 + s.active.hops := hsilent
    have hstep : exec (.moduleLost m) s = .next (s.loseModule m) := by
      simp only [exec, execModuleLost, hmember, hm, bne, beq_eq_false_iff_ne.mpr hother, hnew, hdue, decide_true, Bool.not_false, Bool.and_self, event_true]
      exact congrArg Host.Outcome.next (State.settled_same (congrArg Prod.snd hlosses))
    exact ⟨_, hstep, congrArg Prod.fst hlosses⟩
  · subst hcoll hpart
    have hfind : s.group.moves.find? (fun y => y.coll == x.coll && y.part == x.part) = some x := by
      rw [hmoves]
      simp
    have hupd : ∀ r, updWhere (fun y : MoveOp => y.coll == x.coll && y.part == x.part) ({ · with copied := true, bothAt := some r }) s.group.moves
        = [{ x with copied := true, bothAt := some r }] := by
      intro r
      rw [hmoves]
      simp [updWhere]
    simp only [exec, execPlacementCopyDone, hfind, hupd, hdst, hopens, hcame, hcopied, hstage, hsrc, hup, decide_true, beq_self_eq_true, Bool.not_false,
      Bool.and_self, event_true]
    rfl
  · obtain ⟨hsettled, hleft⟩ := State.leaveGroup_step hmember hcmds
    have hfollows : (s.group.leader != s.group.index) = true := by simpa using hleader
    refine ⟨_, ?_, hleft⟩
    simp only [exec, execTimeParentTimeout, hmember, hparent, hfollows, horphan, hsettled, decide_true, Option.isNone_none, Bool.and_self, event_true]
  · obtain ⟨hsettled, hsize, -, hloans⟩ := State.leaveGroup_step hmember hcmds
    refine ⟨_, ?_, hsize, hloans⟩
    simp only [exec, execLeaderSearchTimeout, hmember, hlong, hsettled, decide_true, Bool.and_self, event_true]
  · exact (transferEvent_arrives hport hstate hslot).trans (congrArg Host.Outcome.next (s.arrive_fanOut port flow))
  · exact (transferEvent_arrives hport hstate hslot).trans rfl
  · refine (transferEvent_arrives hport hstate hslot).trans (congrArg Host.Outcome.next ?_)
    simp only [State.arrive, beq_eq_false_iff_ne.mpr hdst, Bool.and_false, Bool.false_and, Bool.false_eq_true, if_false, Nat.reduceBEq]
  · rw [hsent]
    simp only [exec, execFanOutSlot, hready, event_true, State.openSlot_idle hhops]
  · rw [hsent]
    simp only [exec, execReturnSlot, hready, event_true, State.openSlot_idle hhops]
  · rw [hsent, bulkSlot_idle hready hidle, State.openSlot_idle hhops]
  · have hstep : exec (if h.slot = 1 then .fanOutSlot else .returnSlot) s = .next (s.openSlot h.slot) := by
      obtain hk | hk := hkind <;> simp only [hk, exec, execFanOutSlot, execReturnSlot, hready, event_true, if_true, Nat.reduceEqDiff, if_false]
    exact ⟨_, hstep, State.openSlot_sends hhops hload hkind hdst hround hentry hport hstate hkept hroom⟩

end Sys2Proof.Machine
end
